-- ==== Sys2Proof/Word.lean ====
section
/-! DEFINITION. The word types of the FZ-NRC-1152 and the index types of its register files and cores. -/
namespace Sys2Proof

/-- A 64-bit word: a scalar register, a CSR, an aligned word of memory (R55, R248). -/
abbrev Word := BitVec 64
/-- A byte of memory. -/
abbrev Byte := BitVec 8
/-- A 32-bit instruction word, and one lane of a vector register (R55, R59). -/
abbrev Word32 := BitVec 32
/-- A register of the scalar file or of the vector file (R57). -/
abbrev Reg := Fin 64
/-- A mask register (R55, R57). -/
abbrev MReg := Fin 8
/-- An accumulator or a copy queue, the k field of an E-format word (R59). -/
abbrev KField := Fin 4
/-- A core position: 144·frond + 12·y + x (R104, R395). -/
abbrev CoreNo := Fin 1152
/-- A frond, one of the eight dies (R1). -/
abbrev Frond := Fin 8
/-- A barrier or phaser group (R328). -/
abbrev GroupNo := Fin 256

end Sys2Proof
end

