-- ==== Sys2Proof/Syntax.lean ====
section
/-! DEFINITION. The instruction set as syntax: one constructor of `Instr` for every row of the opcode table.
Rows 0 to 210 are the encoded instructions (R68 to R75); rows 211 to 270 are the steps of the package that no word
encodes (spec/95): their constructors carry the core, packet, launch or register write that the step is about. -/
namespace Sys2Proof

/-- The six rounding names that a prefix's rm field can hold (R30). -/
inductive RoundMode where
  | rne | rtz | rdn | rup | rmm | sr
deriving DecidableEq, Repr

/-- The vector prefix word (R64). `rm = none` is the code 0b000, which defers to `fcsr`. -/
structure Pfx where
  mask : MReg
  mz   : Bool
  rm   : Option RoundMode
  q4   : Reg
deriving DecidableEq, Repr

/-- d, a, b, pa, pb of an A or E format word (R59, R62). -/
structure R3 where
  d : Reg
  a : Reg
  b : Reg
  pa : Bool
  pb : Bool
deriving DecidableEq, Repr

/-- d, a, pa of an A or E format word whose b field is unused (R61). -/
structure R2 where
  d : Reg
  a : Reg
  pa : Bool
deriving DecidableEq, Repr

/-- The fields of a vector compare, whose d names a mask register (R57, R192). -/
structure CmpOps where
  d : MReg
  a : Reg
  b : Reg
  pa : Bool
  pb : Bool
deriving DecidableEq, Repr

/-- The CSRs (R73). -/
inductive Csr where
  | fcsr | jord | jfl | acfg (k : KField) | vstat | gidx | coord | nroute | srkey
  | tcause | tval | tpc | usc | lstat
deriving DecidableEq, Repr

/-- The ordering codes of R74. -/
inductive MemOrder where
  | rlx | acq | rel | ar | sc
deriving DecidableEq, Repr

/-- The scope codes of R74. -/
inductive MemScope where
  | core | gang | group | frond | package | system
deriving DecidableEq, Repr

/-- The fields of an atomic but nr (R74). -/
structure AtomOps where
  d : Reg
  a : Reg
  o : MemOrder
  s : MemScope
deriving DecidableEq, Repr

/-- The role operand of PHREG (R75). -/
inductive Role where
  | withdraw | sig | wait | both
deriving DecidableEq, Repr

/-- The size operand of GANG (R75). -/
inductive GangSize where
  | two | four | eight
deriving DecidableEq, Repr

/-- The selector of CHMARK (R375). -/
inductive ChSel where
  | marker | base
deriving DecidableEq, Repr

/-- What an inbound request from an SVL port asks for (R415, R423). -/
inductive SvlOp where
  | read (len : Nat)
  | write (data : List Byte)
  | atom (op : Nat) (x y : Word)
deriving DecidableEq, Repr

/-- A request that reaches the package through SVL port `port`, naming a device physical address (R423). -/
structure SvlRequest where
  port : Nat
  addr : Nat
  op   : SvlOp
deriving DecidableEq, Repr

/-- The packet of class 2 or 3 that finds no slot and evicts one (R279, R280): a reply, an acknowledgement or a NACK in
flight, by packet number; a barrier or phaser packet of a group of a launch; a pre-emption packet of a launch; or a
management packet. -/
inductive Evictor where
  | packet (n : Nat)
  | channel (l : Nat) (g : Nat)
  | preempt (l : Nat)
  | management
deriving DecidableEq, Repr

/-- Whose request reaches a loft entry: a packet's, or that of a core's force unit (R134). -/
inductive LoftWho where
  | packet (n : Nat)
  | forceUnit (c : CoreNo)
deriving DecidableEq, Repr

/-- One constructor per row of the opcode table. -/
inductive Instr where
  | add (r : R3)
  | sub (r : R3)
  | and (r : R3)
  | or (r : R3)
  | xor (r : R3)
  | sll (r : R3)
  | srl (r : R3)
  | sra (r : R3)
  | ror (r : R3)
  | mul (r : R3)
  | mulh (r : R3)
  | mulhu (r : R3)
  | div (r : R3)
  | divu (r : R3)
  | rem (r : R3)
  | remu (r : R3)
  | slt (r : R3)
  | sltu (r : R3)
  | seq (r : R3)
  | min (r : R3)
  | max (r : R3)
  | minu (r : R3)
  | maxu (r : R3)
  | clz (r : R2)
  | ctz (r : R2)
  | popc (r : R2)
  | addi (d : Reg) (a : Reg) (i : BitVec 14)
  | andi (d : Reg) (a : Reg) (i : BitVec 14)
  | ori (d : Reg) (a : Reg) (i : BitVec 14)
  | xori (d : Reg) (a : Reg) (i : BitVec 14)
  | slli (d : Reg) (a : Reg) (n : BitVec 6)
  | srli (d : Reg) (a : Reg) (n : BitVec 6)
  | srai (d : Reg) (a : Reg) (n : BitVec 6)
  | rori (d : Reg) (a : Reg) (n : BitVec 6)
  | ldi (d : Reg) (i : BitVec 19)
  | ldih (d : Reg) (i : BitVec 19)
  | ldZ8 (d : Reg) (a : Reg) (i : BitVec 11)
  | ldZ16 (d : Reg) (a : Reg) (i : BitVec 11)
  | ldZ32 (d : Reg) (a : Reg) (i : BitVec 11)
  | ldZ64 (d : Reg) (a : Reg) (i : BitVec 11)
  | ldS8 (d : Reg) (a : Reg) (i : BitVec 11)
  | ldS16 (d : Reg) (a : Reg) (i : BitVec 11)
  | ldS32 (d : Reg) (a : Reg) (i : BitVec 11)
  | stZ8 (d : Reg) (a : Reg) (i : BitVec 11)
  | stZ16 (d : Reg) (a : Reg) (i : BitVec 11)
  | stZ32 (d : Reg) (a : Reg) (i : BitVec 11)
  | stZ64 (d : Reg) (a : Reg) (i : BitVec 11)
  | ldb (d : Reg) (a : Reg) (w : Fin 64) (p : Bool)
  | stb (d : Reg) (a : Reg) (w : Fin 64) (p : Bool)
  | beq (a : Reg) (b : Reg) (s : BitVec 14)
  | bne (a : Reg) (b : Reg) (s : BitVec 14)
  | bra (a : Reg) (s : BitVec 14)
  | jal (d : Reg) (s : BitVec 20)
  | jalr (r : R2)
  | jtab (r : R3)
  | dcb (a : Reg) (b : Reg) (s : BitVec 14)
  | csrr (d : Reg) (c : Csr)
  | csrw (d : Reg) (a : Reg) (c : Csr)
  | csrs (d : Reg) (a : Reg) (c : Csr)
  | csrc (d : Reg) (a : Reg) (c : Csr)
  | nop
  | endLaunch
  | brk
  | vadd (x : Option Pfx) (r : R3)
  | vsub (x : Option Pfx) (r : R3)
  | vmul (x : Option Pfx) (r : R3)
  | vdiv (x : Option Pfx) (r : R3)
  | vfma (x : Option Pfx) (r : R3)
  | vfms (x : Option Pfx) (r : R3)
  | vfnma (x : Option Pfx) (r : R3)
  | vmin (x : Option Pfx) (r : R3)
  | vmax (x : Option Pfx) (r : R3)
  | vabs (x : Option Pfx) (r : R2)
  | vneg (x : Option Pfx) (r : R2)
  | vcpys (x : Option Pfx) (r : R3)
  | vexp2 (x : Option Pfx) (r : R2)
  | vlog2 (x : Option Pfx) (r : R2)
  | vsinpi (x : Option Pfx) (r : R2)
  | vcospi (x : Option Pfx) (r : R2)
  | vrcp (x : Option Pfx) (r : R2)
  | vrsqrt (x : Option Pfx) (r : R2)
  | vsqrt (x : Option Pfx) (r : R2)
  | vtanh (x : Option Pfx) (r : R2)
  | viadd (x : Option Pfx) (r : R3)
  | visub (x : Option Pfx) (r : R3)
  | vimul (x : Option Pfx) (r : R3)
  | vimin (x : Option Pfx) (r : R3)
  | vimax (x : Option Pfx) (r : R3)
  | vand (x : Option Pfx) (r : R3)
  | vor (x : Option Pfx) (r : R3)
  | vxor (x : Option Pfx) (r : R3)
  | vsll (x : Option Pfx) (r : R3)
  | vsrl (x : Option Pfx) (r : R3)
  | vsra (x : Option Pfx) (r : R3)
  | viadds (x : Option Pfx) (r : R3)
  | vceq (x : Option Pfx) (r : CmpOps)
  | vclt (x : Option Pfx) (r : CmpOps)
  | vcle (x : Option Pfx) (r : CmpOps)
  | viceq (x : Option Pfx) (r : CmpOps)
  | viclt (x : Option Pfx) (r : CmpOps)
  | vicltu (x : Option Pfx) (r : CmpOps)
  | vsel (x : Option Pfx) (r : R3)
  | mand (x : Option Pfx) (d : MReg) (a : MReg) (b : MReg)
  | mor (x : Option Pfx) (d : MReg) (a : MReg) (b : MReg)
  | mxor (x : Option Pfx) (d : MReg) (a : MReg) (b : MReg)
  | mnot (x : Option Pfx) (d : MReg) (a : MReg)
  | mtog (x : Option Pfx) (d : Reg) (a : MReg)
  | gtom (x : Option Pfx) (d : MReg) (a : Reg) (p : Bool)
  | vcvtfi (x : Option Pfx) (r : R2)
  | vcvtfu (x : Option Pfx) (r : R2)
  | vcvtif (x : Option Pfx) (r : R2)
  | vcvtuf (x : Option Pfx) (r : R2)
  | vcvth (x : Option Pfx) (r : R2)
  | vcvtb (x : Option Pfx) (r : R2)
  | vcvte4 (x : Option Pfx) (r : R2)
  | vcvte5 (x : Option Pfx) (r : R2)
  | vwidh (x : Option Pfx) (r : R2)
  | vwidb (x : Option Pfx) (r : R2)
  | vwide4 (x : Option Pfx) (r : R2)
  | vwide5 (x : Option Pfx) (r : R2)
  | vperm (x : Option Pfx) (r : R3)
  | vbcast (x : Option Pfx) (d : Reg) (a : Reg) (n : Fin 32) (p : Bool)
  | vslideup (x : Option Pfx) (d : Reg) (a : Reg) (n : Fin 32) (p : Bool)
  | vslidedn (x : Option Pfx) (d : Reg) (a : Reg) (n : Fin 32) (p : Bool)
  | vzip (x : Option Pfx) (r : R3)
  | vunzip (x : Option Pfx) (r : R3)
  | vrsum (x : Option Pfx) (r : R2)
  | vrmax (x : Option Pfx) (r : R2)
  | vrmin (x : Option Pfx) (r : R2)
  | virsum (x : Option Pfx) (r : R2)
  | vldtRow (x : Option Pfx) (r : R3)
  | vldtCol (x : Option Pfx) (r : R3)
  | vsttRow (x : Option Pfx) (r : R3)
  | vsttCol (x : Option Pfx) (r : R3)
  | jseed (x : Option Pfx) (r : R2)
  | jconst (x : Option Pfx) (r : R2)
  | jext (x : Option Pfx) (d : Reg) (a : Reg) (c : Fin 8) (p : Bool)
  | jextD (x : Option Pfx) (d : Reg) (a : Reg) (c : Fin 8) (p : Bool)
  | jins (x : Option Pfx) (d : Reg) (a : Reg) (c : Fin 8) (p : Bool)
  | mcfg (a : Reg) (p : Bool) (k : KField)
  | mma (r : R3) (k : KField)
  | mswap (k : KField)
  | mrowGet (r : R2) (k : KField)
  | mrowPut (r : R2) (k : KField)
  | mcolGet (r : R2) (k : KField)
  | mcolPut (r : R2) (k : KField)
  | mdrain (r : R3) (k : KField)
  | mzero (k : KField)
  | cpy (r : R3) (k : KField)
  | cpyMma (r : R3) (k : KField)
  | cpym (r : R3) (k : KField)
  | cpymMma (r : R3) (k : KField)
  | qfence (m : BitVec 5)
  | qwait (d : Reg) (m : BitVec 5)
  | talloc (r : R3)
  | tfree (a : Reg) (p : Bool)
  | tstat (r : R2)
  | tsusp (r : R3)
  | force (a : Reg) (p : Bool)
  | forceNb (r : R2)
  | spark (a : Reg) (p : Bool)
  | tdone
  | aaddZ32 (t : AtomOps) (n : Bool)
  | aaddZ64 (t : AtomOps) (n : Bool)
  | aminS32 (t : AtomOps) (n : Bool)
  | aminS64 (t : AtomOps) (n : Bool)
  | aminZ32 (t : AtomOps) (n : Bool)
  | aminZ64 (t : AtomOps) (n : Bool)
  | amaxS32 (t : AtomOps) (n : Bool)
  | amaxS64 (t : AtomOps) (n : Bool)
  | amaxZ32 (t : AtomOps) (n : Bool)
  | amaxZ64 (t : AtomOps) (n : Bool)
  | aandZ32 (t : AtomOps) (n : Bool)
  | aandZ64 (t : AtomOps) (n : Bool)
  | aorZ32 (t : AtomOps) (n : Bool)
  | aorZ64 (t : AtomOps) (n : Bool)
  | axorZ32 (t : AtomOps) (n : Bool)
  | axorZ64 (t : AtomOps) (n : Bool)
  | aswapZ32 (t : AtomOps) (n : Bool)
  | aswapZ64 (t : AtomOps) (n : Bool)
  | acasZ32 (t : AtomOps)
  | acasZ64 (t : AtomOps)
  | afaddF32 (t : AtomOps) (n : Bool)
  | afaddBf16x2 (t : AtomOps) (n : Bool)
  | asnapZ32 (t : AtomOps)
  | asnapZ64 (t : AtomOps)
  | aldZ32 (t : AtomOps)
  | aldZ64 (t : AtomOps)
  | astZ32 (t : AtomOps)
  | astZ64 (t : AtomOps)
  | fence (o : MemOrder) (s : MemScope)
  | barr (g : GroupNo)
  | bwait (g : GroupNo)
  | phreg (r : Role) (g : GroupNo)
  | phsig (g : GroupNo)
  | phwait (g : GroupNo)
  | gang (z : GangSize)
  | ungang
  | rangeInit (r : R3)
  | glean (d : Reg)
  | tryAlt (a : Reg) (b : Reg) (p : Bool) (q : Bool)
  | failBack
  | cutTo (a : Reg) (p : Bool)
  | chmark (d : Reg) (b : ChSel)
  | tst (r : R2)
  | claim (r : R2)
  | sow (x : Option Pfx) (r : R3)
  | sowIx (x : Option Pfx) (r : R3)
  | topk (x : Option Pfx) (r : R3)
  | gnorm (x : Option Pfx) (r : R2)
  | part (x : Option Pfx) (r : R3)
  -- the steps of the package that no instruction word encodes
  | illegalInstruction (tv : Word)
  | deviceReset
  | functionReady (f : Frond) (bit : Fin 64) (decoded : Word)
  | functionFail (f : Frond) (bit : Fin 64)
  | registerWrite (off : Nat) (v : Word)
  | doorbell (q : Nat) (v : Word32)
  | takeBoundaryTrap (c : CoreNo)
  | launchPark (l : Nat)
  | launchResume (l : Nat)
  | launchEnd (l : Nat)
  | serviceResume (c : CoreNo)
  | serviceAbort (c : CoreNo)
  | serviceHalt (c : CoreNo)
  | faultRingRead (f : Frond) (v : Word32)
  | substituteCore (v : Word)
  | substituteBank (v : Word)
  | retireFrond (v : Word)
  | substitutionPerform
  | wearOutRemoval (c : CoreNo)
  | rebase
  | tlbInvalidate (v : Word)
  | tlbInvalidateComplete
  | attestRequest
  | attestReportReady
  | inboundSvlRequest (rq : SvlRequest)
  | homeAccess (n : Nat)
  | errorResponse (n : Nat)
  | storeAck (n : Nat)
  | registerFill (n : Nat)
  | atomicAtHome (n : Nat)
  | routerMerge (n : Nat) (m : Nat)
  | translationWalk (c : CoreNo) (req : Fin 8)
  | heldWriteRelease (n : Nat)
  | niPacketRelease (n : Nat)
  | packetEviction (w : Evictor) (b : List Nat)
  | nackResend (n : Nat)
  | rhizomeStamp (n : Nat)
  | rhizomeArrival (n : Nat)
  | rhizomeApply (n : Nat)
  | rhizomeResend (n : Nat)
  | copyStart (c : CoreNo) (k : KField)
  | copyComplete (c : CoreNo) (k : KField)
  | mmaPerform (c : CoreNo)
  | mswapPerform (c : CoreNo)
  | mzeroPerform (c : CoreNo)
  | mdrainPerform (c : CoreNo)
  | loftRequest (w : LoftWho)
  | stookEvaluate (c : CoreNo)
  | evaluationComplete (c : CoreNo)
  | waiterWake (c : CoreNo)
  | callFrameStart (c : CoreNo)
  | channelRequest (l : Nat) (g : GroupNo)
  | gangForm (c : CoreNo)
  | rangeTake (c : CoreNo)
  | alternativeTheft (c : CoreNo)
  | gleanResearch (c : CoreNo)
  | gleanEmpty (l : Nat)
  | svlVisibilityConfirm (c : CoreNo) (port : Nat)
  | linkLevelRetry (port : Nat)
  | wearRecordUpdate (u : Nat) (wear : Byte) (eolh : BitVec 16)
deriving DecidableEq, Repr

end Sys2Proof
end

