-- ==== Sys2Proof/WellFormed.lean ====
section
/-! DEFINITION. Which terms of `Instr` are instructions: the legality rules of R76 that a word alone decides.
(The jet alignment of R58 and the rounding resolution of R77 depend on CSRs and are checked at issue.) -/
namespace Sys2Proof

/-- R65: what a prefix may hold before an instruction that rounds or not (`rounds`), that takes lane masking
(`lanes`), that takes mz (`mzOk`) and that takes a fourth operand (`fourth`). -/
def Pfx.allowed (rounds lanes mzOk fourth : Bool) : Option Pfx → Bool
  | none => true
  | some p => (rounds || p.rm.isNone) && (lanes || p.mask == 0) && (mzOk || !p.mz) && (fourth || p.q4 == 0)

/-- R241: an atomic that may return no value has no acquire ordering when nr = 1. -/
def AtomOps.nrOk (t : AtomOps) (nr : Bool) : Bool := !nr || (t.o != .acq && t.o != .ar)

/-- The legality of an instruction that its word decides (R57, R65, R71, R76, R241 and each chapter's limits). -/
def Instr.wf : Instr → Bool
  | .add _ => true
  | .sub _ => true
  | .and _ => true
  | .or _ => true
  | .xor _ => true
  | .sll _ => true
  | .srl _ => true
  | .sra _ => true
  | .ror _ => true
  | .mul _ => true
  | .mulh _ => true
  | .mulhu _ => true
  | .div _ => true
  | .divu _ => true
  | .rem _ => true
  | .remu _ => true
  | .slt _ => true
  | .sltu _ => true
  | .seq _ => true
  | .min _ => true
  | .max _ => true
  | .minu _ => true
  | .maxu _ => true
  | .clz _ => true
  | .ctz _ => true
  | .popc _ => true
  | .addi _ _ _ => true
  | .andi _ _ _ => true
  | .ori _ _ _ => true
  | .xori _ _ _ => true
  | .slli _ _ _ => true
  | .srli _ _ _ => true
  | .srai _ _ _ => true
  | .rori _ _ _ => true
  | .ldi _ _ => true
  | .ldih _ _ => true
  | .ldZ8 _ _ _ => true
  | .ldZ16 _ _ _ => true
  | .ldZ32 _ _ _ => true
  | .ldZ64 _ _ _ => true
  | .ldS8 _ _ _ => true
  | .ldS16 _ _ _ => true
  | .ldS32 _ _ _ => true
  | .stZ8 _ _ _ => true
  | .stZ16 _ _ _ => true
  | .stZ32 _ _ _ => true
  | .stZ64 _ _ _ => true
  | .ldb _ _ _ _ => true
  | .stb _ _ _ _ => true
  | .beq a b _ => decide (a < b)
  | .bne a b _ => decide (b < a)
  | .bra _ _ => true
  | .jal _ _ => true
  | .jalr _ => true
  | .jtab _ => true
  | .dcb a b _ => a != 0 && a != b
  | .csrr _ _ => true
  | .csrw _ _ _ => true
  | .csrs _ _ _ => true
  | .csrc _ _ _ => true
  | .nop => true
  | .endLaunch => true
  | .brk => true
  | .vadd x _ => Pfx.allowed true true true false x
  | .vsub x _ => Pfx.allowed true true true false x
  | .vmul x _ => Pfx.allowed true true true false x
  | .vdiv x _ => Pfx.allowed true true true false x
  | .vfma x _ => Pfx.allowed true true true true x
  | .vfms x _ => Pfx.allowed true true true true x
  | .vfnma x _ => Pfx.allowed true true true true x
  | .vmin x _ => Pfx.allowed false true true false x
  | .vmax x _ => Pfx.allowed false true true false x
  | .vabs x _ => Pfx.allowed false true true false x
  | .vneg x _ => Pfx.allowed false true true false x
  | .vcpys x _ => Pfx.allowed false true true false x
  | .vexp2 x _ => Pfx.allowed true true true false x
  | .vlog2 x _ => Pfx.allowed true true true false x
  | .vsinpi x _ => Pfx.allowed true true true false x
  | .vcospi x _ => Pfx.allowed true true true false x
  | .vrcp x _ => Pfx.allowed true true true false x
  | .vrsqrt x _ => Pfx.allowed true true true false x
  | .vsqrt x _ => Pfx.allowed true true true false x
  | .vtanh x _ => Pfx.allowed true true true false x
  | .viadd x _ => Pfx.allowed false true true false x
  | .visub x _ => Pfx.allowed false true true false x
  | .vimul x _ => Pfx.allowed false true true false x
  | .vimin x _ => Pfx.allowed false true true false x
  | .vimax x _ => Pfx.allowed false true true false x
  | .vand x _ => Pfx.allowed false true true false x
  | .vor x _ => Pfx.allowed false true true false x
  | .vxor x _ => Pfx.allowed false true true false x
  | .vsll x _ => Pfx.allowed false true true false x
  | .vsrl x _ => Pfx.allowed false true true false x
  | .vsra x _ => Pfx.allowed false true true false x
  | .viadds x _ => Pfx.allowed false true true false x
  | .vceq x _ => Pfx.allowed false true true false x
  | .vclt x _ => Pfx.allowed false true true false x
  | .vcle x _ => Pfx.allowed false true true false x
  | .viceq x _ => Pfx.allowed false true true false x
  | .viclt x _ => Pfx.allowed false true true false x
  | .vicltu x _ => Pfx.allowed false true true false x
  | .vsel x _ => Pfx.allowed false true false false x
  | .mand x _ _ _ => Pfx.allowed false false false false x
  | .mor x _ _ _ => Pfx.allowed false false false false x
  | .mxor x _ _ _ => Pfx.allowed false false false false x
  | .mnot x _ _ => Pfx.allowed false false false false x
  | .mtog x _ _ => Pfx.allowed false false false false x
  | .gtom x _ _ _ => Pfx.allowed false false false false x
  | .vcvtfi x _ => Pfx.allowed true true true false x
  | .vcvtfu x _ => Pfx.allowed true true true false x
  | .vcvtif x _ => Pfx.allowed true true true false x
  | .vcvtuf x _ => Pfx.allowed true true true false x
  | .vcvth x _ => Pfx.allowed true true true false x
  | .vcvtb x _ => Pfx.allowed true true true false x
  | .vcvte4 x _ => Pfx.allowed true true true false x
  | .vcvte5 x _ => Pfx.allowed true true true false x
  | .vwidh x _ => Pfx.allowed false true true false x
  | .vwidb x _ => Pfx.allowed false true true false x
  | .vwide4 x _ => Pfx.allowed false true true false x
  | .vwide5 x _ => Pfx.allowed false true true false x
  | .vperm x _ => Pfx.allowed false true true false x
  | .vbcast x _ _ _ _ => Pfx.allowed false true true false x
  | .vslideup x _ _ _ _ => Pfx.allowed false true true false x
  | .vslidedn x _ _ _ _ => Pfx.allowed false true true false x
  | .vzip x _ => Pfx.allowed false true true false x
  | .vunzip x _ => Pfx.allowed false true true false x
  | .vrsum x _ => Pfx.allowed true true false false x
  | .vrmax x _ => Pfx.allowed false true false false x
  | .vrmin x _ => Pfx.allowed false true false false x
  | .virsum x _ => Pfx.allowed false true false false x
  | .vldtRow x _ => Pfx.allowed true true true false x
  | .vldtCol x _ => Pfx.allowed true true true false x
  | .vsttRow x _ => Pfx.allowed true true true false x
  | .vsttCol x _ => Pfx.allowed true true true false x
  | .jseed x _ => Pfx.allowed false true true false x
  | .jconst x _ => Pfx.allowed false true true false x
  | .jext x _ _ _ _ => Pfx.allowed false true true false x
  | .jextD x _ _ _ _ => Pfx.allowed true true true false x
  | .jins x _ _ _ _ => Pfx.allowed false true true false x
  | .mcfg _ _ _ => true
  | .mma r _ => r.a.val % 2 == 0
  | .mswap _ => true
  | .mrowGet _ _ => true
  | .mrowPut _ _ => true
  | .mcolGet _ _ => true
  | .mcolPut _ _ => true
  | .mdrain r _ => r.a.val % 2 == 0
  | .mzero _ => true
  | .cpy r _ => r.a.val % 4 == 0
  | .cpyMma r _ => r.a.val % 4 == 0
  | .cpym r _ => r.a.val % 4 == 0
  | .cpymMma r _ => r.a.val % 4 == 0
  | .qfence m => m != 0
  | .qwait _ m => m != 0
  | .talloc r => r.a.val % 2 == 0
  | .tfree _ _ => true
  | .tstat _ => true
  | .tsusp r => r.a.val % 4 == 0
  | .force _ _ => true
  | .forceNb _ => true
  | .spark _ _ => true
  | .tdone => true
  | .aaddZ32 t n => t.nrOk n
  | .aaddZ64 t n => t.nrOk n
  | .aminS32 t n => t.nrOk n
  | .aminS64 t n => t.nrOk n
  | .aminZ32 t n => t.nrOk n
  | .aminZ64 t n => t.nrOk n
  | .amaxS32 t n => t.nrOk n
  | .amaxS64 t n => t.nrOk n
  | .amaxZ32 t n => t.nrOk n
  | .amaxZ64 t n => t.nrOk n
  | .aandZ32 t n => t.nrOk n
  | .aandZ64 t n => t.nrOk n
  | .aorZ32 t n => t.nrOk n
  | .aorZ64 t n => t.nrOk n
  | .axorZ32 t n => t.nrOk n
  | .axorZ64 t n => t.nrOk n
  | .aswapZ32 t n => t.nrOk n
  | .aswapZ64 t n => t.nrOk n
  | .acasZ32 t => t.d.val % 2 == 0
  | .acasZ64 t => t.d.val % 2 == 0
  | .afaddF32 t n => t.nrOk n
  | .afaddBf16x2 t n => t.nrOk n
  | .asnapZ32 _ => true
  | .asnapZ64 _ => true
  | .aldZ32 t => t.o != .rel && t.o != .ar
  | .aldZ64 t => t.o != .rel && t.o != .ar
  | .astZ32 t => t.o != .acq && t.o != .ar
  | .astZ64 t => t.o != .acq && t.o != .ar
  | .fence o _ => o != .rlx
  | .barr _ => true
  | .bwait _ => true
  | .phreg _ _ => true
  | .phsig _ => true
  | .phwait _ => true
  | .gang _ => true
  | .ungang => true
  | .rangeInit r => r.a.val % 2 == 0
  | .glean d => d != 0 && d.val % 2 == 0
  | .tryAlt a b _ _ => a.val % 2 == 0 && b.val % 2 == 0
  | .failBack => true
  | .cutTo _ _ => true
  | .chmark _ _ => true
  | .tst _ => true
  | .claim _ => true
  | .sow x r => Pfx.allowed false true true false x && r.a.val % 2 == 0
  | .sowIx x r => Pfx.allowed false true true false x && r.a.val % 2 == 0
  | .topk x _ => Pfx.allowed false false false false x
  | .gnorm x _ => Pfx.allowed true true false false x
  | .part x _ => Pfx.allowed false false false false x
  | .illegalInstruction _ => true
  | .deviceReset => true
  | .functionReady _ _ _ => true
  | .functionFail _ _ => true
  | .registerWrite _ _ => true
  | .doorbell _ _ => true
  | .takeBoundaryTrap _ => true
  | .launchPark _ => true
  | .launchResume _ => true
  | .launchEnd _ => true
  | .serviceResume _ => true
  | .serviceAbort _ => true
  | .serviceHalt _ => true
  | .faultRingRead _ _ => true
  | .substituteCore _ => true
  | .substituteBank _ => true
  | .retireFrond _ => true
  | .substitutionPerform => true
  | .wearOutRemoval _ => true
  | .rebase => true
  | .tlbInvalidate _ => true
  | .tlbInvalidateComplete => true
  | .attestRequest => true
  | .attestReportReady => true
  | .inboundSvlRequest _ => true
  | .homeAccess _ => true
  | .errorResponse _ => true
  | .storeAck _ => true
  | .registerFill _ => true
  | .atomicAtHome _ => true
  | .routerMerge _ _ => true
  | .translationWalk _ _ => true
  | .heldWriteRelease _ => true
  | .niPacketRelease _ => true
  | .packetEviction _ _ => true
  | .nackResend _ => true
  | .rhizomeStamp _ => true
  | .rhizomeArrival _ => true
  | .rhizomeApply _ => true
  | .rhizomeResend _ => true
  | .copyStart _ _ => true
  | .copyComplete _ _ => true
  | .mmaPerform _ => true
  | .mswapPerform _ => true
  | .mzeroPerform _ => true
  | .mdrainPerform _ => true
  | .loftRequest _ => true
  | .stookEvaluate _ => true
  | .evaluationComplete _ => true
  | .waiterWake _ => true
  | .callFrameStart _ => true
  | .channelRequest _ _ => true
  | .gangForm _ => true
  | .rangeTake _ => true
  | .alternativeTheft _ => true
  | .gleanResearch _ => true
  | .gleanEmpty _ => true
  | .svlVisibilityConfirm _ _ => true
  | .linkLevelRetry _ => true
  | .wearRecordUpdate _ _ _ => true

/-- Whether the constructor is an encoded instruction (rows 0 to 210 of the opcode table). -/
def Instr.isEncoded : Instr → Bool
  | .add _ => true
  | .sub _ => true
  | .and _ => true
  | .or _ => true
  | .xor _ => true
  | .sll _ => true
  | .srl _ => true
  | .sra _ => true
  | .ror _ => true
  | .mul _ => true
  | .mulh _ => true
  | .mulhu _ => true
  | .div _ => true
  | .divu _ => true
  | .rem _ => true
  | .remu _ => true
  | .slt _ => true
  | .sltu _ => true
  | .seq _ => true
  | .min _ => true
  | .max _ => true
  | .minu _ => true
  | .maxu _ => true
  | .clz _ => true
  | .ctz _ => true
  | .popc _ => true
  | .addi _ _ _ => true
  | .andi _ _ _ => true
  | .ori _ _ _ => true
  | .xori _ _ _ => true
  | .slli _ _ _ => true
  | .srli _ _ _ => true
  | .srai _ _ _ => true
  | .rori _ _ _ => true
  | .ldi _ _ => true
  | .ldih _ _ => true
  | .ldZ8 _ _ _ => true
  | .ldZ16 _ _ _ => true
  | .ldZ32 _ _ _ => true
  | .ldZ64 _ _ _ => true
  | .ldS8 _ _ _ => true
  | .ldS16 _ _ _ => true
  | .ldS32 _ _ _ => true
  | .stZ8 _ _ _ => true
  | .stZ16 _ _ _ => true
  | .stZ32 _ _ _ => true
  | .stZ64 _ _ _ => true
  | .ldb _ _ _ _ => true
  | .stb _ _ _ _ => true
  | .beq _ _ _ => true
  | .bne _ _ _ => true
  | .bra _ _ => true
  | .jal _ _ => true
  | .jalr _ => true
  | .jtab _ => true
  | .dcb _ _ _ => true
  | .csrr _ _ => true
  | .csrw _ _ _ => true
  | .csrs _ _ _ => true
  | .csrc _ _ _ => true
  | .nop => true
  | .endLaunch => true
  | .brk => true
  | .vadd _ _ => true
  | .vsub _ _ => true
  | .vmul _ _ => true
  | .vdiv _ _ => true
  | .vfma _ _ => true
  | .vfms _ _ => true
  | .vfnma _ _ => true
  | .vmin _ _ => true
  | .vmax _ _ => true
  | .vabs _ _ => true
  | .vneg _ _ => true
  | .vcpys _ _ => true
  | .vexp2 _ _ => true
  | .vlog2 _ _ => true
  | .vsinpi _ _ => true
  | .vcospi _ _ => true
  | .vrcp _ _ => true
  | .vrsqrt _ _ => true
  | .vsqrt _ _ => true
  | .vtanh _ _ => true
  | .viadd _ _ => true
  | .visub _ _ => true
  | .vimul _ _ => true
  | .vimin _ _ => true
  | .vimax _ _ => true
  | .vand _ _ => true
  | .vor _ _ => true
  | .vxor _ _ => true
  | .vsll _ _ => true
  | .vsrl _ _ => true
  | .vsra _ _ => true
  | .viadds _ _ => true
  | .vceq _ _ => true
  | .vclt _ _ => true
  | .vcle _ _ => true
  | .viceq _ _ => true
  | .viclt _ _ => true
  | .vicltu _ _ => true
  | .vsel _ _ => true
  | .mand _ _ _ _ => true
  | .mor _ _ _ _ => true
  | .mxor _ _ _ _ => true
  | .mnot _ _ _ => true
  | .mtog _ _ _ => true
  | .gtom _ _ _ _ => true
  | .vcvtfi _ _ => true
  | .vcvtfu _ _ => true
  | .vcvtif _ _ => true
  | .vcvtuf _ _ => true
  | .vcvth _ _ => true
  | .vcvtb _ _ => true
  | .vcvte4 _ _ => true
  | .vcvte5 _ _ => true
  | .vwidh _ _ => true
  | .vwidb _ _ => true
  | .vwide4 _ _ => true
  | .vwide5 _ _ => true
  | .vperm _ _ => true
  | .vbcast _ _ _ _ _ => true
  | .vslideup _ _ _ _ _ => true
  | .vslidedn _ _ _ _ _ => true
  | .vzip _ _ => true
  | .vunzip _ _ => true
  | .vrsum _ _ => true
  | .vrmax _ _ => true
  | .vrmin _ _ => true
  | .virsum _ _ => true
  | .vldtRow _ _ => true
  | .vldtCol _ _ => true
  | .vsttRow _ _ => true
  | .vsttCol _ _ => true
  | .jseed _ _ => true
  | .jconst _ _ => true
  | .jext _ _ _ _ _ => true
  | .jextD _ _ _ _ _ => true
  | .jins _ _ _ _ _ => true
  | .mcfg _ _ _ => true
  | .mma _ _ => true
  | .mswap _ => true
  | .mrowGet _ _ => true
  | .mrowPut _ _ => true
  | .mcolGet _ _ => true
  | .mcolPut _ _ => true
  | .mdrain _ _ => true
  | .mzero _ => true
  | .cpy _ _ => true
  | .cpyMma _ _ => true
  | .cpym _ _ => true
  | .cpymMma _ _ => true
  | .qfence _ => true
  | .qwait _ _ => true
  | .talloc _ => true
  | .tfree _ _ => true
  | .tstat _ => true
  | .tsusp _ => true
  | .force _ _ => true
  | .forceNb _ => true
  | .spark _ _ => true
  | .tdone => true
  | .aaddZ32 _ _ => true
  | .aaddZ64 _ _ => true
  | .aminS32 _ _ => true
  | .aminS64 _ _ => true
  | .aminZ32 _ _ => true
  | .aminZ64 _ _ => true
  | .amaxS32 _ _ => true
  | .amaxS64 _ _ => true
  | .amaxZ32 _ _ => true
  | .amaxZ64 _ _ => true
  | .aandZ32 _ _ => true
  | .aandZ64 _ _ => true
  | .aorZ32 _ _ => true
  | .aorZ64 _ _ => true
  | .axorZ32 _ _ => true
  | .axorZ64 _ _ => true
  | .aswapZ32 _ _ => true
  | .aswapZ64 _ _ => true
  | .acasZ32 _ => true
  | .acasZ64 _ => true
  | .afaddF32 _ _ => true
  | .afaddBf16x2 _ _ => true
  | .asnapZ32 _ => true
  | .asnapZ64 _ => true
  | .aldZ32 _ => true
  | .aldZ64 _ => true
  | .astZ32 _ => true
  | .astZ64 _ => true
  | .fence _ _ => true
  | .barr _ => true
  | .bwait _ => true
  | .phreg _ _ => true
  | .phsig _ => true
  | .phwait _ => true
  | .gang _ => true
  | .ungang => true
  | .rangeInit _ => true
  | .glean _ => true
  | .tryAlt _ _ _ _ => true
  | .failBack => true
  | .cutTo _ _ => true
  | .chmark _ _ => true
  | .tst _ => true
  | .claim _ => true
  | .sow _ _ => true
  | .sowIx _ _ => true
  | .topk _ _ => true
  | .gnorm _ _ => true
  | .part _ _ => true
  | .illegalInstruction _ => false
  | .deviceReset => false
  | .functionReady _ _ _ => false
  | .functionFail _ _ => false
  | .registerWrite _ _ => false
  | .doorbell _ _ => false
  | .takeBoundaryTrap _ => false
  | .launchPark _ => false
  | .launchResume _ => false
  | .launchEnd _ => false
  | .serviceResume _ => false
  | .serviceAbort _ => false
  | .serviceHalt _ => false
  | .faultRingRead _ _ => false
  | .substituteCore _ => false
  | .substituteBank _ => false
  | .retireFrond _ => false
  | .substitutionPerform => false
  | .wearOutRemoval _ => false
  | .rebase => false
  | .tlbInvalidate _ => false
  | .tlbInvalidateComplete => false
  | .attestRequest => false
  | .attestReportReady => false
  | .inboundSvlRequest _ => false
  | .homeAccess _ => false
  | .errorResponse _ => false
  | .storeAck _ => false
  | .registerFill _ => false
  | .atomicAtHome _ => false
  | .routerMerge _ _ => false
  | .translationWalk _ _ => false
  | .heldWriteRelease _ => false
  | .niPacketRelease _ => false
  | .packetEviction _ _ => false
  | .nackResend _ => false
  | .rhizomeStamp _ => false
  | .rhizomeArrival _ => false
  | .rhizomeApply _ => false
  | .rhizomeResend _ => false
  | .copyStart _ _ => false
  | .copyComplete _ _ => false
  | .mmaPerform _ => false
  | .mswapPerform _ => false
  | .mzeroPerform _ => false
  | .mdrainPerform _ => false
  | .loftRequest _ => false
  | .stookEvaluate _ => false
  | .evaluationComplete _ => false
  | .waiterWake _ => false
  | .callFrameStart _ => false
  | .channelRequest _ _ => false
  | .gangForm _ => false
  | .rangeTake _ => false
  | .alternativeTheft _ => false
  | .gleanResearch _ => false
  | .gleanEmpty _ => false
  | .svlVisibilityConfirm _ _ => false
  | .linkLevelRetry _ => false
  | .wearRecordUpdate _ _ _ => false

end Sys2Proof
end

