-- ==== Sys2Proof/Decode.lean ====
section
/-! DEFINITION. The decoder of instruction words (R59 to R78), total on any bytes and rejecting by name, and the
encoder, both written from the encoding tables of R59 to R75. -/
namespace Sys2Proof

/-- Why words are not an instruction (R76). -/
inductive Reject where
  /-- fewer bytes than the instruction needs -/
  | truncated
  /-- a major, function code, selector or sub-operation that no table allocates -/
  | unallocated
  /-- an unused field, or a field of zeros, is nonzero (R61) -/
  | unusedField
  /-- a register, CSR or operand field holds a value that its instruction excludes (R57, R73, R241) -/
  | badOperand
  /-- a prefix without a valid partner (R64, R65) -/
  | badPair
deriving DecidableEq, Repr

/-- The bits [lo + n - 1 : lo] of a word, as a number. -/
def bitsOf (w : Word32) (lo n : Nat) : Nat := w.toNat / 2 ^ lo % 2 ^ n

/-- A six-bit register field at bit `lo`. -/
def regAt (w : Word32) (lo : Nat) : Reg := ⟨bitsOf w lo 6, Nat.mod_lt _ (by decide)⟩

def fieldOp (w : Word32) : Nat := bitsOf w 26 6
def fieldD (w : Word32) : Reg := regAt w 20
def fieldA (w : Word32) : Reg := regAt w 14
def fieldB (w : Word32) : Reg := regAt w 8
def fieldPa (w : Word32) : Bool := bitsOf w 7 1 == 1
def fieldPb (w : Word32) : Bool := bitsOf w 6 1 == 1
def fieldFn (w : Word32) : Nat := bitsOf w 0 6
def fieldFnE (w : Word32) : Nat := bitsOf w 2 4
def fieldK (w : Word32) : KField := ⟨bitsOf w 0 2, Nat.mod_lt _ (by decide)⟩

def fieldsR3 (w : Word32) : R3 := ⟨fieldD w, fieldA w, fieldB w, fieldPa w, fieldPb w⟩
def fieldsR2 (w : Word32) : R2 := ⟨fieldD w, fieldA w, fieldPa w⟩

/-- R57: a field that names a mask register holds 0 to 7. -/
def asMask (r : Reg) : Except Reject MReg :=
  if h : r.val < 8 then .ok ⟨r.val, h⟩ else .error .badOperand

/-- A field that an instruction reads as a number below `n`. -/
def asFin (n : Nat) (r : Reg) : Except Reject (Fin n) :=
  if h : r.val < n then .ok ⟨r.val, h⟩ else .error .unusedField

/-- R61: a condition that says every unused field is zero. -/
def unused (ok : Bool) (i : Instr) : Except Reject Instr := if ok then .ok i else .error .unusedField

/-- An instruction whose b field and pb are unused (R61). -/
def oneSource (w : Word32) (i : R2 → Instr) : Except Reject Instr :=
  unused (fieldB w == 0 && !fieldPb w) (i (fieldsR2 w))

/-- CSR numbers (R73). -/
def Csr.number : Csr → Nat
  | .fcsr => 0x000 | .jord => 0x001 | .jfl => 0x002 | .acfg k => 0x010 + k.val | .vstat => 0x020
  | .gidx => 0x030 | .coord => 0x031 | .nroute => 0x040 | .srkey => 0x041
  | .tcause => 0x050 | .tval => 0x051 | .tpc => 0x052 | .usc => 0x060 | .lstat => 0x061

/-- R73: any other number makes the word illegal. -/
def csrOfNumber (n : Nat) : Except Reject Csr :=
  if n = 0x000 then .ok .fcsr else if n = 0x001 then .ok .jord else if n = 0x002 then .ok .jfl
  else if n = 0x010 then .ok (.acfg 0) else if n = 0x011 then .ok (.acfg 1)
  else if n = 0x012 then .ok (.acfg 2) else if n = 0x013 then .ok (.acfg 3)
  else if n = 0x020 then .ok .vstat else if n = 0x030 then .ok .gidx else if n = 0x031 then .ok .coord
  else if n = 0x040 then .ok .nroute else if n = 0x041 then .ok .srkey
  else if n = 0x050 then .ok .tcause else if n = 0x051 then .ok .tval else if n = 0x052 then .ok .tpc
  else if n = 0x060 then .ok .usc else if n = 0x061 then .ok .lstat
  else .error .badOperand

def MemOrder.code : MemOrder → Nat
  | .rlx => 0 | .acq => 1 | .rel => 2 | .ar => 3 | .sc => 4

def orderOfCode (n : Nat) : Except Reject MemOrder :=
  if n = 0 then .ok .rlx else if n = 1 then .ok .acq else if n = 2 then .ok .rel
  else if n = 3 then .ok .ar else if n = 4 then .ok .sc else .error .badOperand

def MemScope.code : MemScope → Nat
  | .core => 0 | .gang => 1 | .group => 2 | .frond => 3 | .package => 4 | .system => 5

def scopeOfCode (n : Nat) : Except Reject MemScope :=
  if n = 0 then .ok .core else if n = 1 then .ok .gang else if n = 2 then .ok .group
  else if n = 3 then .ok .frond else if n = 4 then .ok .package else if n = 5 then .ok .system
  else .error .badOperand

def RoundMode.code : RoundMode → Nat
  | .rne => 1 | .rtz => 2 | .rdn => 3 | .rup => 4 | .rmm => 5 | .sr => 6

/-- The rounding mode that a three-bit code names; none for 0b000 and 0b111 (R30, R117). -/
def modeOfCode (n : Nat) : Option RoundMode :=
  if n = 1 then some .rne else if n = 2 then some .rtz else if n = 3 then some .rdn
  else if n = 4 then some .rup else if n = 5 then some .rmm else if n = 6 then some .sr else none

def Role.code : Role → Nat
  | .withdraw => 0 | .sig => 1 | .wait => 2 | .both => 3

def roleOfCode (n : Nat) : Role :=
  if n = 0 then .withdraw else if n = 1 then .sig else if n = 2 then .wait else .both

def GangSize.code : GangSize → Nat
  | .two => 1 | .four => 2 | .eight => 3

def gangOfCode (n : Nat) : Except Reject GangSize :=
  if n = 1 then .ok .two else if n = 2 then .ok .four else if n = 3 then .ok .eight else .error .unallocated

/-- The prefix word (R64): its [12:0] are zero and its rm is not 0b111 (R65). -/
def decodePfx (w : Word32) : Except Reject Pfx :=
  if bitsOf w 0 13 ≠ 0 then .error .badPair
  else
    let rm := bitsOf w 19 3
    if rm = 7 then .error .badPair
    else .ok { mask := ⟨bitsOf w 23 3, Nat.mod_lt _ (by decide)⟩, mz := bitsOf w 22 1 == 1,
               rm := modeOfCode rm, q4 := regAt w 13 }

/-- Major 0x01 (R68). -/
def decode01 (w : Word32) : Except Reject Instr :=
  match fieldFn w with
  | 0x00 => .ok (.add (fieldsR3 w))
  | 0x01 => .ok (.sub (fieldsR3 w))
  | 0x02 => .ok (.and (fieldsR3 w))
  | 0x03 => .ok (.or (fieldsR3 w))
  | 0x04 => .ok (.xor (fieldsR3 w))
  | 0x05 => .ok (.sll (fieldsR3 w))
  | 0x06 => .ok (.srl (fieldsR3 w))
  | 0x07 => .ok (.sra (fieldsR3 w))
  | 0x08 => .ok (.ror (fieldsR3 w))
  | 0x09 => .ok (.mul (fieldsR3 w))
  | 0x0A => .ok (.mulh (fieldsR3 w))
  | 0x0B => .ok (.mulhu (fieldsR3 w))
  | 0x0C => .ok (.div (fieldsR3 w))
  | 0x0D => .ok (.divu (fieldsR3 w))
  | 0x0E => .ok (.rem (fieldsR3 w))
  | 0x0F => .ok (.remu (fieldsR3 w))
  | 0x10 => .ok (.slt (fieldsR3 w))
  | 0x11 => .ok (.sltu (fieldsR3 w))
  | 0x12 => .ok (.seq (fieldsR3 w))
  | 0x13 => .ok (.min (fieldsR3 w))
  | 0x14 => .ok (.max (fieldsR3 w))
  | 0x15 => .ok (.minu (fieldsR3 w))
  | 0x16 => .ok (.maxu (fieldsR3 w))
  | 0x17 => oneSource w fun r => .clz r
  | 0x18 => oneSource w fun r => .ctz r
  | 0x19 => oneSource w fun r => .popc r
  | _ => .error .unallocated

/-- Major 0x06 (R68). -/
def decode06 (w : Word32) : Except Reject Instr :=
  if bitsOf w 6 2 ≠ 0 then .error .unusedField else
  match bitsOf w 8 6 with
  | 0x00 => .ok (.slli (fieldD w) (fieldA w) (BitVec.ofNat 6 (bitsOf w 0 6)))
  | 0x01 => .ok (.srli (fieldD w) (fieldA w) (BitVec.ofNat 6 (bitsOf w 0 6)))
  | 0x02 => .ok (.srai (fieldD w) (fieldA w) (BitVec.ofNat 6 (bitsOf w 0 6)))
  | 0x03 => .ok (.rori (fieldD w) (fieldA w) (BitVec.ofNat 6 (bitsOf w 0 6)))
  | _ => .error .unallocated

/-- Major 0x08 (R68). -/
def decode08 (w : Word32) : Except Reject Instr :=
  match bitsOf w 11 3 with
  | 0x00 => .ok (.ldZ8 (fieldD w) (fieldA w) (BitVec.ofNat 11 (bitsOf w 0 11)))
  | 0x01 => .ok (.ldZ16 (fieldD w) (fieldA w) (BitVec.ofNat 11 (bitsOf w 0 11)))
  | 0x02 => .ok (.ldZ32 (fieldD w) (fieldA w) (BitVec.ofNat 11 (bitsOf w 0 11)))
  | 0x03 => .ok (.ldZ64 (fieldD w) (fieldA w) (BitVec.ofNat 11 (bitsOf w 0 11)))
  | 0x04 => .ok (.ldS8 (fieldD w) (fieldA w) (BitVec.ofNat 11 (bitsOf w 0 11)))
  | 0x05 => .ok (.ldS16 (fieldD w) (fieldA w) (BitVec.ofNat 11 (bitsOf w 0 11)))
  | 0x06 => .ok (.ldS32 (fieldD w) (fieldA w) (BitVec.ofNat 11 (bitsOf w 0 11)))
  | _ => .error .unallocated

/-- Major 0x09 (R68). -/
def decode09 (w : Word32) : Except Reject Instr :=
  match bitsOf w 11 3 with
  | 0x00 => .ok (.stZ8 (fieldD w) (fieldA w) (BitVec.ofNat 11 (bitsOf w 0 11)))
  | 0x01 => .ok (.stZ16 (fieldD w) (fieldA w) (BitVec.ofNat 11 (bitsOf w 0 11)))
  | 0x02 => .ok (.stZ32 (fieldD w) (fieldA w) (BitVec.ofNat 11 (bitsOf w 0 11)))
  | 0x03 => .ok (.stZ64 (fieldD w) (fieldA w) (BitVec.ofNat 11 (bitsOf w 0 11)))
  | _ => .error .unallocated

/-- Major 0x0A (R68). -/
def decode0A (w : Word32) : Except Reject Instr :=
  if fieldPb w then .error .unusedField else
  match fieldFn w with
  | 0x00 => .ok (.ldb (fieldD w) (fieldA w) (fieldB w) (fieldPa w))
  | 0x01 => .ok (.stb (fieldD w) (fieldA w) (fieldB w) (fieldPa w))
  | _ => .error .unallocated

/-- R71: the comparison of the two field values selects the condition; their order is that of R59's B format. -/
def decode0B (w : Word32) : Except Reject Instr :=
  let a := fieldD w
  let b := fieldA w
  let s := BitVec.ofNat 14 (bitsOf w 0 14)
  if a < b then .ok (.beq a b s) else if b < a then .ok (.bne a b s) else .ok (.bra a s)

/-- Major 0x0D (R68). -/
def decode0D (w : Word32) : Except Reject Instr :=
  match fieldFn w with
  | 0x00 => oneSource w fun r => .jalr r
  | 0x01 => .ok (.jtab (fieldsR3 w))
  | _ => .error .unallocated

/-- Major 0x0F (R68). -/
def decode0F (w : Word32) : Except Reject Instr :=
  match bitsOf w 11 3 with
  | 0x00 => do let c ← csrOfNumber (bitsOf w 0 11); unused (fieldA w == 0) (.csrr (fieldD w) c)
  | 0x01 => do let c ← csrOfNumber (bitsOf w 0 11); .ok (.csrw (fieldD w) (fieldA w) c)
  | 0x02 => do let c ← csrOfNumber (bitsOf w 0 11); .ok (.csrs (fieldD w) (fieldA w) c)
  | 0x03 => do let c ← csrOfNumber (bitsOf w 0 11); .ok (.csrc (fieldD w) (fieldA w) c)
  | 0x04 => if bitsOf w 0 11 = 0 then unused (fieldD w == 0 && fieldA w == 0) .nop
            else if bitsOf w 0 11 = 1 then unused (fieldD w == 0 && fieldA w == 0) .endLaunch
            else if bitsOf w 0 11 = 2 then unused (fieldD w == 0 && fieldA w == 0) .brk
            else .error .unallocated
  | _ => .error .unallocated

/-- Major 0x10 (R68). -/
def decode10 (x : Option Pfx) (w : Word32) : Except Reject Instr :=
  match fieldFn w with
  | 0x00 => .ok (.vadd x (fieldsR3 w))
  | 0x01 => .ok (.vsub x (fieldsR3 w))
  | 0x02 => .ok (.vmul x (fieldsR3 w))
  | 0x03 => .ok (.vdiv x (fieldsR3 w))
  | 0x04 => .ok (.vfma x (fieldsR3 w))
  | 0x05 => .ok (.vfms x (fieldsR3 w))
  | 0x06 => .ok (.vfnma x (fieldsR3 w))
  | 0x07 => .ok (.vmin x (fieldsR3 w))
  | 0x08 => .ok (.vmax x (fieldsR3 w))
  | 0x09 => oneSource w fun r => .vabs x r
  | 0x0A => oneSource w fun r => .vneg x r
  | 0x0B => .ok (.vcpys x (fieldsR3 w))
  | _ => .error .unallocated

/-- Major 0x11 (R68). -/
def decode11 (x : Option Pfx) (w : Word32) : Except Reject Instr :=
  match fieldFn w with
  | 0x00 => oneSource w fun r => .vexp2 x r
  | 0x01 => oneSource w fun r => .vlog2 x r
  | 0x02 => oneSource w fun r => .vsinpi x r
  | 0x03 => oneSource w fun r => .vcospi x r
  | 0x04 => oneSource w fun r => .vrcp x r
  | 0x05 => oneSource w fun r => .vrsqrt x r
  | 0x06 => oneSource w fun r => .vsqrt x r
  | 0x07 => oneSource w fun r => .vtanh x r
  | _ => .error .unallocated

/-- Major 0x12 (R68). -/
def decode12 (x : Option Pfx) (w : Word32) : Except Reject Instr :=
  match fieldFn w with
  | 0x00 => .ok (.viadd x (fieldsR3 w))
  | 0x01 => .ok (.visub x (fieldsR3 w))
  | 0x02 => .ok (.vimul x (fieldsR3 w))
  | 0x03 => .ok (.vimin x (fieldsR3 w))
  | 0x04 => .ok (.vimax x (fieldsR3 w))
  | 0x05 => .ok (.vand x (fieldsR3 w))
  | 0x06 => .ok (.vor x (fieldsR3 w))
  | 0x07 => .ok (.vxor x (fieldsR3 w))
  | 0x08 => .ok (.vsll x (fieldsR3 w))
  | 0x09 => .ok (.vsrl x (fieldsR3 w))
  | 0x0A => .ok (.vsra x (fieldsR3 w))
  | 0x0B => .ok (.viadds x (fieldsR3 w))
  | _ => .error .unallocated

/-- Major 0x13 (R68). -/
def decode13 (x : Option Pfx) (w : Word32) : Except Reject Instr :=
  match fieldFn w with
  | 0x00 => do let d ← asMask (fieldD w); .ok (.vceq x ⟨d, fieldA w, fieldB w, fieldPa w, fieldPb w⟩)
  | 0x01 => do let d ← asMask (fieldD w); .ok (.vclt x ⟨d, fieldA w, fieldB w, fieldPa w, fieldPb w⟩)
  | 0x02 => do let d ← asMask (fieldD w); .ok (.vcle x ⟨d, fieldA w, fieldB w, fieldPa w, fieldPb w⟩)
  | 0x03 => do let d ← asMask (fieldD w); .ok (.viceq x ⟨d, fieldA w, fieldB w, fieldPa w, fieldPb w⟩)
  | 0x04 => do let d ← asMask (fieldD w); .ok (.viclt x ⟨d, fieldA w, fieldB w, fieldPa w, fieldPb w⟩)
  | 0x05 => do let d ← asMask (fieldD w); .ok (.vicltu x ⟨d, fieldA w, fieldB w, fieldPa w, fieldPb w⟩)
  | 0x06 => .ok (.vsel x (fieldsR3 w))
  | 0x07 => do let d ← asMask (fieldD w); let a ← asMask (fieldA w); let b ← asMask (fieldB w); unused (!fieldPa w && !fieldPb w) (.mand x d a b)
  | 0x08 => do let d ← asMask (fieldD w); let a ← asMask (fieldA w); let b ← asMask (fieldB w); unused (!fieldPa w && !fieldPb w) (.mor x d a b)
  | 0x09 => do let d ← asMask (fieldD w); let a ← asMask (fieldA w); let b ← asMask (fieldB w); unused (!fieldPa w && !fieldPb w) (.mxor x d a b)
  | 0x0A => do let d ← asMask (fieldD w); let a ← asMask (fieldA w); unused (fieldB w == 0 && !fieldPa w && !fieldPb w) (.mnot x d a)
  | 0x0B => do let a ← asMask (fieldA w); unused (fieldB w == 0 && !fieldPa w && !fieldPb w) (.mtog x (fieldD w) a)
  | 0x0C => do let d ← asMask (fieldD w); unused (fieldB w == 0 && !fieldPb w) (.gtom x d (fieldA w) (fieldPa w))
  | _ => .error .unallocated

/-- Major 0x14 (R68). -/
def decode14 (x : Option Pfx) (w : Word32) : Except Reject Instr :=
  match fieldFn w with
  | 0x00 => oneSource w fun r => .vcvtfi x r
  | 0x01 => oneSource w fun r => .vcvtfu x r
  | 0x02 => oneSource w fun r => .vcvtif x r
  | 0x03 => oneSource w fun r => .vcvtuf x r
  | 0x04 => oneSource w fun r => .vcvth x r
  | 0x05 => oneSource w fun r => .vcvtb x r
  | 0x06 => oneSource w fun r => .vcvte4 x r
  | 0x07 => oneSource w fun r => .vcvte5 x r
  | 0x08 => oneSource w fun r => .vwidh x r
  | 0x09 => oneSource w fun r => .vwidb x r
  | 0x0A => oneSource w fun r => .vwide4 x r
  | 0x0B => oneSource w fun r => .vwide5 x r
  | _ => .error .unallocated

/-- Major 0x15 (R68). -/
def decode15 (x : Option Pfx) (w : Word32) : Except Reject Instr :=
  match fieldFn w with
  | 0x00 => .ok (.vperm x (fieldsR3 w))
  | 0x01 => do let n ← asFin 32 (fieldB w); unused (!fieldPb w) (.vbcast x (fieldD w) (fieldA w) n (fieldPa w))
  | 0x02 => do let n ← asFin 32 (fieldB w); unused (!fieldPb w) (.vslideup x (fieldD w) (fieldA w) n (fieldPa w))
  | 0x03 => do let n ← asFin 32 (fieldB w); unused (!fieldPb w) (.vslidedn x (fieldD w) (fieldA w) n (fieldPa w))
  | 0x04 => .ok (.vzip x (fieldsR3 w))
  | 0x05 => .ok (.vunzip x (fieldsR3 w))
  | 0x06 => oneSource w fun r => .vrsum x r
  | 0x07 => oneSource w fun r => .vrmax x r
  | 0x08 => oneSource w fun r => .vrmin x r
  | 0x09 => oneSource w fun r => .virsum x r
  | _ => .error .unallocated

/-- E format: the low six bits are fn and k (R187). -/
def decode16 (x : Option Pfx) (w : Word32) : Except Reject Instr :=
  match fieldFn w with
  | 0x00 => .ok (.vldtRow x (fieldsR3 w))
  | 0x01 => .ok (.vldtCol x (fieldsR3 w))
  | 0x04 => .ok (.vsttRow x (fieldsR3 w))
  | 0x05 => .ok (.vsttCol x (fieldsR3 w))
  | _ => .error .unallocated

/-- Major 0x17 (R68). -/
def decode17 (x : Option Pfx) (w : Word32) : Except Reject Instr :=
  match fieldFn w with
  | 0x00 => oneSource w fun r => .jseed x r
  | 0x01 => oneSource w fun r => .jconst x r
  | 0x02 => do let c ← asFin 8 (fieldB w); unused (!fieldPb w) (.jext x (fieldD w) (fieldA w) c (fieldPa w))
  | 0x03 => do let c ← asFin 8 (fieldB w); unused (!fieldPb w) (.jextD x (fieldD w) (fieldA w) c (fieldPa w))
  | 0x04 => do let c ← asFin 8 (fieldB w); unused (!fieldPb w) (.jins x (fieldD w) (fieldA w) c (fieldPa w))
  | _ => .error .unallocated

/-- Major 0x18 (R68). -/
def decode18 (w : Word32) : Except Reject Instr :=
  match fieldFnE w with
  | 0x00 => unused (fieldD w == 0 && fieldB w == 0 && !fieldPb w) (.mcfg (fieldA w) (fieldPa w) (fieldK w))
  | 0x01 => .ok (.mma (fieldsR3 w) (fieldK w))
  | 0x02 => unused (fieldD w == 0 && fieldA w == 0 && fieldB w == 0 && !fieldPa w && !fieldPb w) (.mswap (fieldK w))
  | 0x03 => oneSource w fun r => .mrowGet r (fieldK w)
  | 0x04 => oneSource w fun r => .mrowPut r (fieldK w)
  | 0x05 => oneSource w fun r => .mcolGet r (fieldK w)
  | 0x06 => oneSource w fun r => .mcolPut r (fieldK w)
  | 0x07 => .ok (.mdrain (fieldsR3 w) (fieldK w))
  | 0x08 => unused (fieldD w == 0 && fieldA w == 0 && fieldB w == 0 && !fieldPa w && !fieldPb w) (.mzero (fieldK w))
  | _ => .error .unallocated

/-- Major 0x19 (R68). -/
def decode19 (w : Word32) : Except Reject Instr :=
  match fieldFnE w with
  | 0x00 => .ok (.cpy (fieldsR3 w) (fieldK w))
  | 0x01 => .ok (.cpyMma (fieldsR3 w) (fieldK w))
  | 0x02 => .ok (.cpym (fieldsR3 w) (fieldK w))
  | 0x03 => .ok (.cpymMma (fieldsR3 w) (fieldK w))
  | 0x04 => unused (fieldD w == 0 && fieldA w == 0 && fieldB w < 32 && !fieldPa w && !fieldPb w && fieldK w == 0) (.qfence (BitVec.ofNat 5 (fieldB w).val))
  | 0x05 => unused (fieldA w == 0 && fieldB w < 32 && !fieldPa w && !fieldPb w && fieldK w == 0) (.qwait (fieldD w) (BitVec.ofNat 5 (fieldB w).val))
  | _ => .error .unallocated

/-- Major 0x1A (R68). -/
def decode1A (w : Word32) : Except Reject Instr :=
  if fieldK w ≠ 0 then .error .unusedField else
  match fieldFnE w with
  | 0x00 => .ok (.talloc (fieldsR3 w))
  | 0x01 => unused (fieldD w == 0 && fieldB w == 0 && !fieldPb w) (.tfree (fieldA w) (fieldPa w))
  | 0x02 => oneSource w fun r => .tstat r
  | _ => .error .unallocated

/-- Major 0x1B (R68). -/
def decode1B (w : Word32) : Except Reject Instr :=
  if fieldK w ≠ 0 then .error .unusedField else
  match fieldFnE w with
  | 0x00 => .ok (.tsusp (fieldsR3 w))
  | 0x01 => unused (fieldD w == 0 && fieldB w == 0 && !fieldPb w) (.force (fieldA w) (fieldPa w))
  | 0x02 => oneSource w fun r => .forceNb r
  | 0x03 => unused (fieldD w == 0 && fieldB w == 0 && !fieldPb w) (.spark (fieldA w) (fieldPa w))
  | 0x04 => unused (fieldD w == 0 && fieldA w == 0 && fieldB w == 0 && !fieldPa w && !fieldPb w) .tdone
  | _ => .error .unallocated

/-- Major 0x1C (R68). -/
def decode1C (w : Word32) : Except Reject Instr := do
  let o ← orderOfCode (bitsOf w 6 3)
  let s ← scopeOfCode (bitsOf w 3 3)
  let t : AtomOps := ⟨fieldD w, fieldA w, o, s⟩
  let nr := bitsOf w 2 1 == 1
  if bitsOf w 0 2 ≠ 0 then .error .unusedField else
  match bitsOf w 9 5 with
  | 0x00 => .ok (.aaddZ32 t nr)
  | 0x01 => .ok (.aaddZ64 t nr)
  | 0x02 => .ok (.aminS32 t nr)
  | 0x03 => .ok (.aminS64 t nr)
  | 0x04 => .ok (.aminZ32 t nr)
  | 0x05 => .ok (.aminZ64 t nr)
  | 0x06 => .ok (.amaxS32 t nr)
  | 0x07 => .ok (.amaxS64 t nr)
  | 0x08 => .ok (.amaxZ32 t nr)
  | 0x09 => .ok (.amaxZ64 t nr)
  | 0x0A => .ok (.aandZ32 t nr)
  | 0x0B => .ok (.aandZ64 t nr)
  | 0x0C => .ok (.aorZ32 t nr)
  | 0x0D => .ok (.aorZ64 t nr)
  | 0x0E => .ok (.axorZ32 t nr)
  | 0x0F => .ok (.axorZ64 t nr)
  | 0x10 => .ok (.aswapZ32 t nr)
  | 0x11 => .ok (.aswapZ64 t nr)
  | 0x12 => if nr then .error .badOperand else .ok (.acasZ32 t)
  | 0x13 => if nr then .error .badOperand else .ok (.acasZ64 t)
  | 0x14 => .ok (.afaddF32 t nr)
  | 0x15 => .ok (.afaddBf16x2 t nr)
  | 0x16 => if nr then .error .badOperand else .ok (.asnapZ32 t)
  | 0x17 => if nr then .error .badOperand else .ok (.asnapZ64 t)
  | 0x18 => if nr then .error .badOperand else .ok (.aldZ32 t)
  | 0x19 => if nr then .error .badOperand else .ok (.aldZ64 t)
  | 0x1A => if nr then .ok (.astZ32 t) else .error .badOperand
  | 0x1B => if nr then .ok (.astZ64 t) else .error .badOperand
  | _ => .error .unallocated

/-- Major 0x1D (R68). -/
def decode1D (w : Word32) : Except Reject Instr :=
  if fieldD w ≠ 0 ∨ fieldA w ≠ 0 then .error .unusedField else
  let g : GroupNo := ⟨bitsOf w 0 8, Nat.mod_lt _ (by decide)⟩
  match bitsOf w 10 4 with
  | 0x00 => do let o ← orderOfCode (bitsOf w 7 3); let s ← scopeOfCode (bitsOf w 4 3); unused (bitsOf w 0 4 == 0) (.fence o s)
  | 0x01 => unused (bitsOf w 8 2 == 0) (.barr g)
  | 0x02 => unused (bitsOf w 8 2 == 0) (.bwait g)
  | 0x03 => .ok (.phreg (roleOfCode (bitsOf w 8 2)) g)
  | 0x04 => unused (bitsOf w 8 2 == 0) (.phsig g)
  | 0x05 => unused (bitsOf w 8 2 == 0) (.phwait g)
  | 0x06 => do let z ← gangOfCode (bitsOf w 0 2); unused (bitsOf w 2 8 == 0) (.gang z)
  | 0x07 => unused (bitsOf w 0 10 == 0) .ungang
  | _ => .error .unallocated

/-- Major 0x1E (R68). -/
def decode1E (w : Word32) : Except Reject Instr :=
  match fieldFn w with
  | 0x00 => .ok (.rangeInit (fieldsR3 w))
  | 0x01 => unused (fieldA w == 0 && fieldB w == 0 && !fieldPa w && !fieldPb w) (.glean (fieldD w))
  | _ => .error .unallocated

/-- Major 0x1F (R68). -/
def decode1F (w : Word32) : Except Reject Instr :=
  match fieldFn w with
  | 0x00 => unused (fieldD w == 0) (.tryAlt (fieldA w) (fieldB w) (fieldPa w) (fieldPb w))
  | 0x01 => unused (fieldD w == 0 && fieldA w == 0 && fieldB w == 0 && !fieldPa w && !fieldPb w) .failBack
  | 0x02 => unused (fieldD w == 0 && fieldB w == 0 && !fieldPb w) (.cutTo (fieldA w) (fieldPa w))
  | 0x03 => if fieldA w ≠ 0 ∨ fieldPa w ∨ fieldPb w then .error .unusedField
            else if fieldB w = 0 then .ok (.chmark (fieldD w) .marker)
            else if fieldB w = 1 then .ok (.chmark (fieldD w) .base) else .error .badOperand
  | 0x04 => oneSource w fun r => .tst r
  | 0x05 => oneSource w fun r => .claim r
  | _ => .error .unallocated

/-- Major 0x20 (R68). -/
def decode20 (x : Option Pfx) (w : Word32) : Except Reject Instr :=
  match fieldFn w with
  | 0x00 => .ok (.sow x (fieldsR3 w))
  | 0x01 => .ok (.sowIx x (fieldsR3 w))
  | 0x02 => .ok (.topk x (fieldsR3 w))
  | 0x03 => oneSource w fun r => .gnorm x r
  | 0x04 => .ok (.part x (fieldsR3 w))
  | _ => .error .unallocated

/-- A word of a major that takes a prefix (R64), with the prefix it follows. -/
def decodeVec (x : Option Pfx) (w : Word32) : Except Reject Instr :=
  match fieldOp w with
  | 0x10 => decode10 x w
  | 0x11 => decode11 x w
  | 0x12 => decode12 x w
  | 0x13 => decode13 x w
  | 0x14 => decode14 x w
  | 0x15 => decode15 x w
  | 0x16 => decode16 x w
  | 0x17 => decode17 x w
  | 0x20 => decode20 x w
  | _ => .error .badPair

/-- A word alone (R68). -/
def decodeWord (w : Word32) : Except Reject Instr :=
  match fieldOp w with
  | 0x01 => decode01 w
  | 0x02 => .ok (.addi (fieldD w) (fieldA w) (BitVec.ofNat 14 (bitsOf w 0 14)))
  | 0x03 => .ok (.andi (fieldD w) (fieldA w) (BitVec.ofNat 14 (bitsOf w 0 14)))
  | 0x04 => .ok (.ori (fieldD w) (fieldA w) (BitVec.ofNat 14 (bitsOf w 0 14)))
  | 0x05 => .ok (.xori (fieldD w) (fieldA w) (BitVec.ofNat 14 (bitsOf w 0 14)))
  | 0x06 => decode06 w
  | 0x07 => if bitsOf w 19 1 = 0 then .ok (.ldi (fieldD w) (BitVec.ofNat 19 (bitsOf w 0 19)))
            else .ok (.ldih (fieldD w) (BitVec.ofNat 19 (bitsOf w 0 19)))
  | 0x08 => decode08 w
  | 0x09 => decode09 w
  | 0x0A => decode0A w
  | 0x0B => decode0B w
  | 0x0C => .ok (.jal (fieldD w) (BitVec.ofNat 20 (bitsOf w 0 20)))
  | 0x0D => decode0D w
  | 0x0E => .ok (.dcb (fieldD w) (fieldA w) (BitVec.ofNat 14 (bitsOf w 0 14)))
  | 0x0F => decode0F w
  | 0x10 => decodeVec none w
  | 0x11 => decodeVec none w
  | 0x12 => decodeVec none w
  | 0x13 => decodeVec none w
  | 0x14 => decodeVec none w
  | 0x15 => decodeVec none w
  | 0x16 => decodeVec none w
  | 0x17 => decodeVec none w
  | 0x18 => decode18 w
  | 0x19 => decode19 w
  | 0x1A => decode1A w
  | 0x1B => decode1B w
  | 0x1C => decode1C w
  | 0x1D => decode1D w
  | 0x1E => decode1E w
  | 0x1F => decode1F w
  | 0x20 => decodeVec none w
  | _ => .error .unallocated

/-- A decoded instruction is one only if it is well formed. -/
def checked (r : Except Reject Instr) : Except Reject Instr :=
  match r with
  | .ok i => if i.wf then .ok i else .error .badOperand
  | .error e => .error e

/-- The instruction that begins with `w0`, and its length in bytes; `w1` is the word after `w0` (R64, R76). -/
def decodeWords (w0 w1 : Word32) : Except Reject (Instr × Nat) :=
  if fieldOp w0 = 0x3E then
    match decodePfx w0 with
    | .error e => .error e
    | .ok p => (checked (decodeVec (some p) w1)).map fun i => (i, 8)
  else (checked (decodeWord w0)).map fun i => (i, 4)

/-- The little-endian word at the head of a list of bytes (R3). -/
def wordOfBytes : List Byte → Option (Word32 × List Byte)
  | b0 :: b1 :: b2 :: b3 :: rest =>
    some (BitVec.ofNat 32 (b0.toNat + 2 ^ 8 * b1.toNat + 2 ^ 16 * b2.toNat + 2 ^ 24 * b3.toNat), rest)
  | _ => none

/-- The decoder over bytes in address order: the instruction and the bytes after it. -/
def decode (bs : List Byte) : Except Reject (Instr × List Byte) :=
  match wordOfBytes bs with
  | none => .error .truncated
  | some (w0, rest) =>
    if fieldOp w0 = 0x3E then
      match wordOfBytes rest with
      | none => .error .truncated
      | some (w1, rest') => (decodeWords w0 w1).map fun r => (r.1, rest')
    else (decodeWords w0 0).map fun r => (r.1, rest)

/-! The encoder. -/

def bit (b : Bool) : Nat := if b then 1 else 0

/-- A format (R59). -/
def encA (op d a b : Nat) (pa pb : Bool) (fn : Nat) : Word32 :=
  BitVec.ofNat 32 (op * 2 ^ 26 + d * 2 ^ 20 + a * 2 ^ 14 + b * 2 ^ 8 + bit pa * 2 ^ 7 + bit pb * 2 ^ 6 + fn)

/-- I, M and B formats (R59): two register fields over fourteen bits. -/
def encI (op d a imm : Nat) : Word32 := BitVec.ofNat 32 (op * 2 ^ 26 + d * 2 ^ 20 + a * 2 ^ 14 + imm)

/-- J and L formats (R59): one register field over twenty bits. -/
def encL (op d imm : Nat) : Word32 := BitVec.ofNat 32 (op * 2 ^ 26 + d * 2 ^ 20 + imm)

def encR3 (op fn : Nat) (r : R3) : Word32 := encA op r.d r.a r.b r.pa r.pb fn
def encR2 (op fn : Nat) (r : R2) : Word32 := encA op r.d r.a 0 r.pa false fn
def encCmp (op fn : Nat) (r : CmpOps) : Word32 := encA op r.d r.a r.b r.pa r.pb fn

/-- The prefix word of R64. -/
def Pfx.word (p : Pfx) : Word32 :=
  BitVec.ofNat 32 (0x3E * 2 ^ 26 + p.mask.val * 2 ^ 23 + bit p.mz * 2 ^ 22 +
    (p.rm.elim 0 RoundMode.code) * 2 ^ 19 + p.q4.val * 2 ^ 13)

/-- Major 0x1C (R74). -/
def encAtom (code : Nat) (t : AtomOps) (nr : Bool) : Word32 :=
  encI 0x1C t.d t.a (code * 2 ^ 9 + t.o.code * 2 ^ 6 + t.s.code * 2 ^ 3 + bit nr * 2 ^ 2)

/-- Major 0x1D (R75). -/
def encSync (sub imm : Nat) : Word32 := encI 0x1D 0 0 (sub * 2 ^ 10 + imm)

/-- The word of an instruction, without its prefix (R59 to R75); 0 for a step that has no encoding. -/
def Instr.word : Instr → Word32
  | .add r => encR3 0x01 0x00 r
  | .sub r => encR3 0x01 0x01 r
  | .and r => encR3 0x01 0x02 r
  | .or r => encR3 0x01 0x03 r
  | .xor r => encR3 0x01 0x04 r
  | .sll r => encR3 0x01 0x05 r
  | .srl r => encR3 0x01 0x06 r
  | .sra r => encR3 0x01 0x07 r
  | .ror r => encR3 0x01 0x08 r
  | .mul r => encR3 0x01 0x09 r
  | .mulh r => encR3 0x01 0x0A r
  | .mulhu r => encR3 0x01 0x0B r
  | .div r => encR3 0x01 0x0C r
  | .divu r => encR3 0x01 0x0D r
  | .rem r => encR3 0x01 0x0E r
  | .remu r => encR3 0x01 0x0F r
  | .slt r => encR3 0x01 0x10 r
  | .sltu r => encR3 0x01 0x11 r
  | .seq r => encR3 0x01 0x12 r
  | .min r => encR3 0x01 0x13 r
  | .max r => encR3 0x01 0x14 r
  | .minu r => encR3 0x01 0x15 r
  | .maxu r => encR3 0x01 0x16 r
  | .clz r => encR2 0x01 0x17 r
  | .ctz r => encR2 0x01 0x18 r
  | .popc r => encR2 0x01 0x19 r
  | .addi d a i => encI 0x02 d a i.toNat
  | .andi d a i => encI 0x03 d a i.toNat
  | .ori d a i => encI 0x04 d a i.toNat
  | .xori d a i => encI 0x05 d a i.toNat
  | .slli d a n => encI 0x06 d a (0 * 2 ^ 8 + n.toNat)
  | .srli d a n => encI 0x06 d a (1 * 2 ^ 8 + n.toNat)
  | .srai d a n => encI 0x06 d a (2 * 2 ^ 8 + n.toNat)
  | .rori d a n => encI 0x06 d a (3 * 2 ^ 8 + n.toNat)
  | .ldi d i => encL 0x07 d (0 * 2 ^ 19 + i.toNat)
  | .ldih d i => encL 0x07 d (1 * 2 ^ 19 + i.toNat)
  | .ldZ8 d a i => encI 0x08 d a (0 * 2 ^ 11 + i.toNat)
  | .ldZ16 d a i => encI 0x08 d a (1 * 2 ^ 11 + i.toNat)
  | .ldZ32 d a i => encI 0x08 d a (2 * 2 ^ 11 + i.toNat)
  | .ldZ64 d a i => encI 0x08 d a (3 * 2 ^ 11 + i.toNat)
  | .ldS8 d a i => encI 0x08 d a (4 * 2 ^ 11 + i.toNat)
  | .ldS16 d a i => encI 0x08 d a (5 * 2 ^ 11 + i.toNat)
  | .ldS32 d a i => encI 0x08 d a (6 * 2 ^ 11 + i.toNat)
  | .stZ8 d a i => encI 0x09 d a (0 * 2 ^ 11 + i.toNat)
  | .stZ16 d a i => encI 0x09 d a (1 * 2 ^ 11 + i.toNat)
  | .stZ32 d a i => encI 0x09 d a (2 * 2 ^ 11 + i.toNat)
  | .stZ64 d a i => encI 0x09 d a (3 * 2 ^ 11 + i.toNat)
  | .ldb d a w p => encA 0x0A d a w p false 0x00
  | .stb d a w p => encA 0x0A d a w p false 0x01
  | .beq a b s => encI 0x0B a b s.toNat
  | .bne a b s => encI 0x0B a b s.toNat
  | .bra a s => encI 0x0B a a s.toNat
  | .jal d s => encL 0x0C d s.toNat
  | .jalr r => encR2 0x0D 0x00 r
  | .jtab r => encR3 0x0D 0x01 r
  | .dcb a b s => encI 0x0E a b s.toNat
  | .csrr d c => encI 0x0F d 0 c.number
  | .csrw d a c => encI 0x0F d a (1 * 2 ^ 11 + c.number)
  | .csrs d a c => encI 0x0F d a (2 * 2 ^ 11 + c.number)
  | .csrc d a c => encI 0x0F d a (3 * 2 ^ 11 + c.number)
  | .nop => encI 0x0F 0 0 0x2000
  | .endLaunch => encI 0x0F 0 0 0x2001
  | .brk => encI 0x0F 0 0 0x2002
  | .vadd _ r => encR3 0x10 0x00 r
  | .vsub _ r => encR3 0x10 0x01 r
  | .vmul _ r => encR3 0x10 0x02 r
  | .vdiv _ r => encR3 0x10 0x03 r
  | .vfma _ r => encR3 0x10 0x04 r
  | .vfms _ r => encR3 0x10 0x05 r
  | .vfnma _ r => encR3 0x10 0x06 r
  | .vmin _ r => encR3 0x10 0x07 r
  | .vmax _ r => encR3 0x10 0x08 r
  | .vabs _ r => encR2 0x10 0x09 r
  | .vneg _ r => encR2 0x10 0x0A r
  | .vcpys _ r => encR3 0x10 0x0B r
  | .vexp2 _ r => encR2 0x11 0x00 r
  | .vlog2 _ r => encR2 0x11 0x01 r
  | .vsinpi _ r => encR2 0x11 0x02 r
  | .vcospi _ r => encR2 0x11 0x03 r
  | .vrcp _ r => encR2 0x11 0x04 r
  | .vrsqrt _ r => encR2 0x11 0x05 r
  | .vsqrt _ r => encR2 0x11 0x06 r
  | .vtanh _ r => encR2 0x11 0x07 r
  | .viadd _ r => encR3 0x12 0x00 r
  | .visub _ r => encR3 0x12 0x01 r
  | .vimul _ r => encR3 0x12 0x02 r
  | .vimin _ r => encR3 0x12 0x03 r
  | .vimax _ r => encR3 0x12 0x04 r
  | .vand _ r => encR3 0x12 0x05 r
  | .vor _ r => encR3 0x12 0x06 r
  | .vxor _ r => encR3 0x12 0x07 r
  | .vsll _ r => encR3 0x12 0x08 r
  | .vsrl _ r => encR3 0x12 0x09 r
  | .vsra _ r => encR3 0x12 0x0A r
  | .viadds _ r => encR3 0x12 0x0B r
  | .vceq _ r => encCmp 0x13 0x00 r
  | .vclt _ r => encCmp 0x13 0x01 r
  | .vcle _ r => encCmp 0x13 0x02 r
  | .viceq _ r => encCmp 0x13 0x03 r
  | .viclt _ r => encCmp 0x13 0x04 r
  | .vicltu _ r => encCmp 0x13 0x05 r
  | .vsel _ r => encR3 0x13 0x06 r
  | .mand _ d a b => encA 0x13 d a b false false 0x07
  | .mor _ d a b => encA 0x13 d a b false false 0x08
  | .mxor _ d a b => encA 0x13 d a b false false 0x09
  | .mnot _ d a => encA 0x13 d a 0 false false 0x0A
  | .mtog _ d a => encA 0x13 d a 0 false false 0x0B
  | .gtom _ d a p => encA 0x13 d a 0 p false 0x0C
  | .vcvtfi _ r => encR2 0x14 0x00 r
  | .vcvtfu _ r => encR2 0x14 0x01 r
  | .vcvtif _ r => encR2 0x14 0x02 r
  | .vcvtuf _ r => encR2 0x14 0x03 r
  | .vcvth _ r => encR2 0x14 0x04 r
  | .vcvtb _ r => encR2 0x14 0x05 r
  | .vcvte4 _ r => encR2 0x14 0x06 r
  | .vcvte5 _ r => encR2 0x14 0x07 r
  | .vwidh _ r => encR2 0x14 0x08 r
  | .vwidb _ r => encR2 0x14 0x09 r
  | .vwide4 _ r => encR2 0x14 0x0A r
  | .vwide5 _ r => encR2 0x14 0x0B r
  | .vperm _ r => encR3 0x15 0x00 r
  | .vbcast _ d a n p => encA 0x15 d a n p false 0x01
  | .vslideup _ d a n p => encA 0x15 d a n p false 0x02
  | .vslidedn _ d a n p => encA 0x15 d a n p false 0x03
  | .vzip _ r => encR3 0x15 0x04 r
  | .vunzip _ r => encR3 0x15 0x05 r
  | .vrsum _ r => encR2 0x15 0x06 r
  | .vrmax _ r => encR2 0x15 0x07 r
  | .vrmin _ r => encR2 0x15 0x08 r
  | .virsum _ r => encR2 0x15 0x09 r
  | .vldtRow _ r => encR3 0x16 0x00 r
  | .vldtCol _ r => encR3 0x16 0x01 r
  | .vsttRow _ r => encR3 0x16 0x04 r
  | .vsttCol _ r => encR3 0x16 0x05 r
  | .jseed _ r => encR2 0x17 0x00 r
  | .jconst _ r => encR2 0x17 0x01 r
  | .jext _ d a c p => encA 0x17 d a c p false 0x02
  | .jextD _ d a c p => encA 0x17 d a c p false 0x03
  | .jins _ d a c p => encA 0x17 d a c p false 0x04
  | .mcfg a p k => encA 0x18 0 a 0 p false (0x00 + k)
  | .mma r k => encR3 0x18 (0x04 + k) r
  | .mswap k => encA 0x18 0 0 0 false false (0x08 + k)
  | .mrowGet r k => encR2 0x18 (0x0C + k) r
  | .mrowPut r k => encR2 0x18 (0x10 + k) r
  | .mcolGet r k => encR2 0x18 (0x14 + k) r
  | .mcolPut r k => encR2 0x18 (0x18 + k) r
  | .mdrain r k => encR3 0x18 (0x1C + k) r
  | .mzero k => encA 0x18 0 0 0 false false (0x20 + k)
  | .cpy r k => encR3 0x19 (0x00 + k) r
  | .cpyMma r k => encR3 0x19 (0x04 + k) r
  | .cpym r k => encR3 0x19 (0x08 + k) r
  | .cpymMma r k => encR3 0x19 (0x0C + k) r
  | .qfence m => encA 0x19 0 0 m.toNat false false 0x10
  | .qwait d m => encA 0x19 d 0 m.toNat false false 0x14
  | .talloc r => encR3 0x1A 0x00 r
  | .tfree a p => encA 0x1A 0 a 0 p false 0x04
  | .tstat r => encR2 0x1A 0x08 r
  | .tsusp r => encR3 0x1B 0x00 r
  | .force a p => encA 0x1B 0 a 0 p false 0x04
  | .forceNb r => encR2 0x1B 0x08 r
  | .spark a p => encA 0x1B 0 a 0 p false 0x0C
  | .tdone => encA 0x1B 0 0 0 false false 0x10
  | .aaddZ32 t n => encAtom 0x00 t n
  | .aaddZ64 t n => encAtom 0x01 t n
  | .aminS32 t n => encAtom 0x02 t n
  | .aminS64 t n => encAtom 0x03 t n
  | .aminZ32 t n => encAtom 0x04 t n
  | .aminZ64 t n => encAtom 0x05 t n
  | .amaxS32 t n => encAtom 0x06 t n
  | .amaxS64 t n => encAtom 0x07 t n
  | .amaxZ32 t n => encAtom 0x08 t n
  | .amaxZ64 t n => encAtom 0x09 t n
  | .aandZ32 t n => encAtom 0x0A t n
  | .aandZ64 t n => encAtom 0x0B t n
  | .aorZ32 t n => encAtom 0x0C t n
  | .aorZ64 t n => encAtom 0x0D t n
  | .axorZ32 t n => encAtom 0x0E t n
  | .axorZ64 t n => encAtom 0x0F t n
  | .aswapZ32 t n => encAtom 0x10 t n
  | .aswapZ64 t n => encAtom 0x11 t n
  | .acasZ32 t => encAtom 0x12 t false
  | .acasZ64 t => encAtom 0x13 t false
  | .afaddF32 t n => encAtom 0x14 t n
  | .afaddBf16x2 t n => encAtom 0x15 t n
  | .asnapZ32 t => encAtom 0x16 t false
  | .asnapZ64 t => encAtom 0x17 t false
  | .aldZ32 t => encAtom 0x18 t false
  | .aldZ64 t => encAtom 0x19 t false
  | .astZ32 t => encAtom 0x1A t true
  | .astZ64 t => encAtom 0x1B t true
  | .fence o s => encSync 0x0 (o.code * 2 ^ 7 + s.code * 2 ^ 4)
  | .barr g => encSync 0x1 g
  | .bwait g => encSync 0x2 g
  | .phreg r g => encSync 0x3 (r.code * 2 ^ 8 + g)
  | .phsig g => encSync 0x4 g
  | .phwait g => encSync 0x5 g
  | .gang z => encSync 0x6 z.code
  | .ungang => encSync 0x7 0
  | .rangeInit r => encR3 0x1E 0x00 r
  | .glean d => encA 0x1E d 0 0 false false 0x01
  | .tryAlt a b p q => encA 0x1F 0 a b p q 0x00
  | .failBack => encA 0x1F 0 0 0 false false 0x01
  | .cutTo a p => encA 0x1F 0 a 0 p false 0x02
  | .chmark d b => encA 0x1F d 0 (if b = .base then 1 else 0) false false 0x03
  | .tst r => encR2 0x1F 0x04 r
  | .claim r => encR2 0x1F 0x05 r
  | .sow _ r => encR3 0x20 0x00 r
  | .sowIx _ r => encR3 0x20 0x01 r
  | .topk _ r => encR3 0x20 0x02 r
  | .gnorm _ r => encR2 0x20 0x03 r
  | .part _ r => encR3 0x20 0x04 r
  | .illegalInstruction _ => 0
  | .deviceReset => 0
  | .functionReady _ _ _ => 0
  | .functionFail _ _ => 0
  | .registerWrite _ _ => 0
  | .doorbell _ _ => 0
  | .takeBoundaryTrap _ => 0
  | .launchPark _ => 0
  | .launchResume _ => 0
  | .launchEnd _ => 0
  | .serviceResume _ => 0
  | .serviceAbort _ => 0
  | .serviceHalt _ => 0
  | .faultRingRead _ _ => 0
  | .substituteCore _ => 0
  | .substituteBank _ => 0
  | .retireFrond _ => 0
  | .substitutionPerform => 0
  | .wearOutRemoval _ => 0
  | .rebase => 0
  | .tlbInvalidate _ => 0
  | .tlbInvalidateComplete => 0
  | .attestRequest => 0
  | .attestReportReady => 0
  | .inboundSvlRequest _ => 0
  | .homeAccess _ => 0
  | .errorResponse _ => 0
  | .storeAck _ => 0
  | .registerFill _ => 0
  | .atomicAtHome _ => 0
  | .routerMerge _ _ => 0
  | .translationWalk _ _ => 0
  | .heldWriteRelease _ => 0
  | .niPacketRelease _ => 0
  | .packetEviction _ _ => 0
  | .nackResend _ => 0
  | .rhizomeStamp _ => 0
  | .rhizomeArrival _ => 0
  | .rhizomeApply _ => 0
  | .rhizomeResend _ => 0
  | .copyStart _ _ => 0
  | .copyComplete _ _ => 0
  | .mmaPerform _ => 0
  | .mswapPerform _ => 0
  | .mzeroPerform _ => 0
  | .mdrainPerform _ => 0
  | .loftRequest _ => 0
  | .stookEvaluate _ => 0
  | .evaluationComplete _ => 0
  | .waiterWake _ => 0
  | .callFrameStart _ => 0
  | .channelRequest _ _ => 0
  | .gangForm _ => 0
  | .rangeTake _ => 0
  | .alternativeTheft _ => 0
  | .gleanResearch _ => 0
  | .gleanEmpty _ => 0
  | .svlVisibilityConfirm _ _ => 0
  | .linkLevelRetry _ => 0
  | .wearRecordUpdate _ _ _ => 0

/-- The prefix an instruction carries (R64). -/
def Instr.pfx : Instr → Option Pfx
  | .add _ => none
  | .sub _ => none
  | .and _ => none
  | .or _ => none
  | .xor _ => none
  | .sll _ => none
  | .srl _ => none
  | .sra _ => none
  | .ror _ => none
  | .mul _ => none
  | .mulh _ => none
  | .mulhu _ => none
  | .div _ => none
  | .divu _ => none
  | .rem _ => none
  | .remu _ => none
  | .slt _ => none
  | .sltu _ => none
  | .seq _ => none
  | .min _ => none
  | .max _ => none
  | .minu _ => none
  | .maxu _ => none
  | .clz _ => none
  | .ctz _ => none
  | .popc _ => none
  | .addi _ _ _ => none
  | .andi _ _ _ => none
  | .ori _ _ _ => none
  | .xori _ _ _ => none
  | .slli _ _ _ => none
  | .srli _ _ _ => none
  | .srai _ _ _ => none
  | .rori _ _ _ => none
  | .ldi _ _ => none
  | .ldih _ _ => none
  | .ldZ8 _ _ _ => none
  | .ldZ16 _ _ _ => none
  | .ldZ32 _ _ _ => none
  | .ldZ64 _ _ _ => none
  | .ldS8 _ _ _ => none
  | .ldS16 _ _ _ => none
  | .ldS32 _ _ _ => none
  | .stZ8 _ _ _ => none
  | .stZ16 _ _ _ => none
  | .stZ32 _ _ _ => none
  | .stZ64 _ _ _ => none
  | .ldb _ _ _ _ => none
  | .stb _ _ _ _ => none
  | .beq _ _ _ => none
  | .bne _ _ _ => none
  | .bra _ _ => none
  | .jal _ _ => none
  | .jalr _ => none
  | .jtab _ => none
  | .dcb _ _ _ => none
  | .csrr _ _ => none
  | .csrw _ _ _ => none
  | .csrs _ _ _ => none
  | .csrc _ _ _ => none
  | .nop => none
  | .endLaunch => none
  | .brk => none
  | .vadd x _ => x
  | .vsub x _ => x
  | .vmul x _ => x
  | .vdiv x _ => x
  | .vfma x _ => x
  | .vfms x _ => x
  | .vfnma x _ => x
  | .vmin x _ => x
  | .vmax x _ => x
  | .vabs x _ => x
  | .vneg x _ => x
  | .vcpys x _ => x
  | .vexp2 x _ => x
  | .vlog2 x _ => x
  | .vsinpi x _ => x
  | .vcospi x _ => x
  | .vrcp x _ => x
  | .vrsqrt x _ => x
  | .vsqrt x _ => x
  | .vtanh x _ => x
  | .viadd x _ => x
  | .visub x _ => x
  | .vimul x _ => x
  | .vimin x _ => x
  | .vimax x _ => x
  | .vand x _ => x
  | .vor x _ => x
  | .vxor x _ => x
  | .vsll x _ => x
  | .vsrl x _ => x
  | .vsra x _ => x
  | .viadds x _ => x
  | .vceq x _ => x
  | .vclt x _ => x
  | .vcle x _ => x
  | .viceq x _ => x
  | .viclt x _ => x
  | .vicltu x _ => x
  | .vsel x _ => x
  | .mand x _ _ _ => x
  | .mor x _ _ _ => x
  | .mxor x _ _ _ => x
  | .mnot x _ _ => x
  | .mtog x _ _ => x
  | .gtom x _ _ _ => x
  | .vcvtfi x _ => x
  | .vcvtfu x _ => x
  | .vcvtif x _ => x
  | .vcvtuf x _ => x
  | .vcvth x _ => x
  | .vcvtb x _ => x
  | .vcvte4 x _ => x
  | .vcvte5 x _ => x
  | .vwidh x _ => x
  | .vwidb x _ => x
  | .vwide4 x _ => x
  | .vwide5 x _ => x
  | .vperm x _ => x
  | .vbcast x _ _ _ _ => x
  | .vslideup x _ _ _ _ => x
  | .vslidedn x _ _ _ _ => x
  | .vzip x _ => x
  | .vunzip x _ => x
  | .vrsum x _ => x
  | .vrmax x _ => x
  | .vrmin x _ => x
  | .virsum x _ => x
  | .vldtRow x _ => x
  | .vldtCol x _ => x
  | .vsttRow x _ => x
  | .vsttCol x _ => x
  | .jseed x _ => x
  | .jconst x _ => x
  | .jext x _ _ _ _ => x
  | .jextD x _ _ _ _ => x
  | .jins x _ _ _ _ => x
  | .mcfg _ _ _ => none
  | .mma _ _ => none
  | .mswap _ => none
  | .mrowGet _ _ => none
  | .mrowPut _ _ => none
  | .mcolGet _ _ => none
  | .mcolPut _ _ => none
  | .mdrain _ _ => none
  | .mzero _ => none
  | .cpy _ _ => none
  | .cpyMma _ _ => none
  | .cpym _ _ => none
  | .cpymMma _ _ => none
  | .qfence _ => none
  | .qwait _ _ => none
  | .talloc _ => none
  | .tfree _ _ => none
  | .tstat _ => none
  | .tsusp _ => none
  | .force _ _ => none
  | .forceNb _ => none
  | .spark _ _ => none
  | .tdone => none
  | .aaddZ32 _ _ => none
  | .aaddZ64 _ _ => none
  | .aminS32 _ _ => none
  | .aminS64 _ _ => none
  | .aminZ32 _ _ => none
  | .aminZ64 _ _ => none
  | .amaxS32 _ _ => none
  | .amaxS64 _ _ => none
  | .amaxZ32 _ _ => none
  | .amaxZ64 _ _ => none
  | .aandZ32 _ _ => none
  | .aandZ64 _ _ => none
  | .aorZ32 _ _ => none
  | .aorZ64 _ _ => none
  | .axorZ32 _ _ => none
  | .axorZ64 _ _ => none
  | .aswapZ32 _ _ => none
  | .aswapZ64 _ _ => none
  | .acasZ32 _ => none
  | .acasZ64 _ => none
  | .afaddF32 _ _ => none
  | .afaddBf16x2 _ _ => none
  | .asnapZ32 _ => none
  | .asnapZ64 _ => none
  | .aldZ32 _ => none
  | .aldZ64 _ => none
  | .astZ32 _ => none
  | .astZ64 _ => none
  | .fence _ _ => none
  | .barr _ => none
  | .bwait _ => none
  | .phreg _ _ => none
  | .phsig _ => none
  | .phwait _ => none
  | .gang _ => none
  | .ungang => none
  | .rangeInit _ => none
  | .glean _ => none
  | .tryAlt _ _ _ _ => none
  | .failBack => none
  | .cutTo _ _ => none
  | .chmark _ _ => none
  | .tst _ => none
  | .claim _ => none
  | .sow x _ => x
  | .sowIx x _ => x
  | .topk x _ => x
  | .gnorm x _ => x
  | .part x _ => x
  | .illegalInstruction _ => none
  | .deviceReset => none
  | .functionReady _ _ _ => none
  | .functionFail _ _ => none
  | .registerWrite _ _ => none
  | .doorbell _ _ => none
  | .takeBoundaryTrap _ => none
  | .launchPark _ => none
  | .launchResume _ => none
  | .launchEnd _ => none
  | .serviceResume _ => none
  | .serviceAbort _ => none
  | .serviceHalt _ => none
  | .faultRingRead _ _ => none
  | .substituteCore _ => none
  | .substituteBank _ => none
  | .retireFrond _ => none
  | .substitutionPerform => none
  | .wearOutRemoval _ => none
  | .rebase => none
  | .tlbInvalidate _ => none
  | .tlbInvalidateComplete => none
  | .attestRequest => none
  | .attestReportReady => none
  | .inboundSvlRequest _ => none
  | .homeAccess _ => none
  | .errorResponse _ => none
  | .storeAck _ => none
  | .registerFill _ => none
  | .atomicAtHome _ => none
  | .routerMerge _ _ => none
  | .translationWalk _ _ => none
  | .heldWriteRelease _ => none
  | .niPacketRelease _ => none
  | .packetEviction _ _ => none
  | .nackResend _ => none
  | .rhizomeStamp _ => none
  | .rhizomeArrival _ => none
  | .rhizomeApply _ => none
  | .rhizomeResend _ => none
  | .copyStart _ _ => none
  | .copyComplete _ _ => none
  | .mmaPerform _ => none
  | .mswapPerform _ => none
  | .mzeroPerform _ => none
  | .mdrainPerform _ => none
  | .loftRequest _ => none
  | .stookEvaluate _ => none
  | .evaluationComplete _ => none
  | .waiterWake _ => none
  | .callFrameStart _ => none
  | .channelRequest _ _ => none
  | .gangForm _ => none
  | .rangeTake _ => none
  | .alternativeTheft _ => none
  | .gleanResearch _ => none
  | .gleanEmpty _ => none
  | .svlVisibilityConfirm _ _ => none
  | .linkLevelRetry _ => none
  | .wearRecordUpdate _ _ _ => none

/-- The words of an instruction in address order (R64). -/
def encode (i : Instr) : List Word32 :=
  match i.pfx with
  | none => [i.word]
  | some p => [p.word, i.word]

/-- How many bytes an instruction takes (R64). -/
def Instr.length (i : Instr) : Nat := match i.pfx with | none => 4 | some _ => 8

/-- The `tval` of an ILLEGAL_INSTRUCTION at an instruction: its words, the first in [31:0] (R78). -/
def Instr.words64 (i : Instr) : Word :=
  match i.pfx with
  | none => i.word.zeroExtend 64
  | some p => i.word ++ p.word

/-- The instruction read from bits numbered as the opcode table numbers them: bits [31:0] are the first word and
[63:32] the word after it; the bits above `nbits` are zero. -/
def decodeTableWord (nbits w : Nat) : Option Instr :=
  let v := w % 2 ^ nbits
  match decode ((List.range 8).map fun k => BitVec.ofNat 8 (v / 2 ^ (8 * k))) with
  | .ok (i, _) => some i
  | .error _ => none

end Sys2Proof
end

