-- ==== Sys2Proof/Machine/State.lean ====
section
/-! DEFINITION. The state of the package: 1,152 cores, their lofts, the memory of every home, the packets in flight,
the launches and queues, and the device control region. Plain data; every field names the rule that gives it. -/
namespace Sys2Proof.Machine

/-! ## Containers -/

/-- A sparse map: keys strictly rising; an unlisted key holds the map's default. -/
abbrev SMap (α : Type) := List (Nat × α)

/-- Bytes of memory in canonical form: addresses strictly rising, no byte equal to what an unlisted address reads as. -/
abbrev Memory := List Host.Cell

/-- A vector register: 32 lanes of 32 bits (R55). -/
abbrev VReg := Vector Word32 32

/-! ## Tiles and lofts (R105, R133, R255) -/

/-- The tile formats of R105. -/
inductive Fmt where
  | fp32 | fp16 | bf16 | e4m3 | e5m2
  | mxfp8e4m3 | mxfp8e5m2 | mxfp6e3m2 | mxfp6e2m3 | mxfp4
  | tsb4 | tsb6 | tsb8
  | s8 | s16 | s32 | s64 | z8 | z16 | z32 | z64
deriving DecidableEq, Repr

/-- The level of a tile: scratchpad, HBM4E, CXL (R139). -/
inductive Level where
  | S | H | X
deriving DecidableEq, Repr

inductive TileState where
  | free | value | suspended | blackhole
deriving DecidableEq, Repr

/-- A stook (R255). -/
structure Stook where
  /-- the operation word (R256) -/
  op     : Word
  /-- the resolved rounding mode and the `srkey` latched at TSUSP -/
  mode   : RoundMode
  srkey  : Word
  /-- operand names in the form in which TSUSP read them -/
  names  : List Word
  /-- the entry address of a CALL -/
  entry  : Word
  depth  : Nat
  /-- its index in its pool, a demand field of the tile (R255, log entry 63) -/
  index  : Nat
deriving DecidableEq, Repr

/-- A loft entry (R133, R255). -/
structure LoftEntry where
  state   : TileState
  gen     : Byte
  rows    : Nat
  cols    : Nat
  fmt     : Fmt
  level   : Level
  base    : Word
  row0    : Nat
  col0    : Nat
  stream  : Nat
  /-- the stook of a SUSPENDED or BLACKHOLE tile -/
  stook   : Option Stook
  /-- for BLACKHOLE: the owner context and its force-stack depth when the tile was blackholed -/
  owner   : Nat
  ownerDepth : Nat
  /-- the waiter list: context indexes in order of joining (R265) -/
  waiters : List Nat
deriving DecidableEq, Repr

/-- What a tile access needs of an entry: where the tile lies and how its bits are read (R135, R136). -/
structure Tile where
  rows   : Nat
  cols   : Nat
  fmt    : Fmt
  level  : Level
  base   : Word
  row0   : Nat
  col0   : Nat
  stream : Nat
  /-- the core whose scratchpad holds a level-S tile -/
  core   : Nat
deriving DecidableEq, Repr

/-! ## Packets (R274 to R289) -/

/-- One word access of a packet: the aligned word, the bits it writes (none for a read), and their values. -/
structure Part where
  addr : Nat
  mask : Word
  data : Word
deriving DecidableEq, Repr

/-- A tile slice read that is in flight (R187, R188). -/
structure Slice where
  tile   : Tile
  byRow  : Bool
  row    : Nat
  col    : Nat
  active : Word32
  mz     : Bool
  old    : VReg
  mode   : RoundMode
  srkey  : Word
deriving DecidableEq, Repr

/-- A TOPK in flight (R201). -/
structure TopkReq where
  tile : Tile
  row  : Nat
  col  : Nat
  n    : Nat
  k    : Nat
deriving DecidableEq, Repr

/-- The words of a copy's data bound for one destination: its number, its name and tile, the indexes of the words in the
tile, and their masked writes (R289). -/
structure Delivery where
  dest  : Nat
  name  : Word
  tile  : Tile
  ws    : List Nat
  parts : List Part
deriving DecidableEq, Repr

/-- An engine that makes accesses for a core: a copy queue, the force unit, or the matrix engine. -/
inductive Engine where
  | copy (k : KField)
  | force
  | matrix
deriving DecidableEq, Repr

/-- What a packet asks of its home, and what its reply does. -/
inductive PktOp where
  /-- LD: register, width in bytes, signedness, offset in the word (R100) -/
  | ld (r : Reg) (n : Nat) (signed : Bool) (off : Nat)
  /-- LDB: register, bit position, width (R146) -/
  | ldb (r : Reg) (p w : Nat)
  /-- ST; STB and VSTT, whose words have no address form of their own (`bits`) -/
  | st (bits : Bool)
  | vldt (r : Reg) (sl : Slice)
  | topk (r : Reg) (q : TopkReq)
  /-- TSTAT: register and name (R144) -/
  | tstat (r : Reg) (name : Word)
  /-- an atomic: op-type code, operand, ACAS's new value, nr, register, offset in the word (R245) -/
  | atom (code : Nat) (x y : Word) (nr : Bool) (r : Reg) (off : Nat)
  /-- TST: the new value and the swath entry that its reply writes: its address, and where its two words lie (R377) -/
  | tst (x : Word) (swath : Option (Word × Nat × Nat))
  /-- the amax merge of an MDRAIN (R236) -/
  | amax (x : Word) (off : Nat)
  /-- a copy's data for one other frond, from copy queue k (R289) -/
  | copy (k : KField) (ds : List Delivery)
  /-- words of a tile that an engine reads: which of its parties (0, or 1 for a second tile), the tile, the words -/
  | engRead (e : Engine) (party : Nat) (t : Tile) (ws : List Nat)
  /-- the step that a core's force unit makes at a loft on another frond (R263, R283) -/
  | loft
  /-- words of a tile that an engine writes on its own frond: the destination's number and name, the tile, the words -/
  | engWrite (e : Engine) (dest : Nat) (name : Word) (t : Tile) (ws : List Nat)
  /-- a result computed at issue that its producer delivers later: register, producer class, value (R169) -/
  | value (r : Reg) (cls : Nat) (v : Word)
deriving DecidableEq, Repr

/-- The stamp of a Rhizome request header (R284), and the sender's count matrix, which R290 has the stamp stand for
(log entry 20). -/
structure Stamp where
  cnt : Bool
  src : Nat
  own : BitVec 16
  dep : List (BitVec 10)
  mat : SMap (BitVec 16)
deriving DecidableEq, Repr

/-- Where a packet is. -/
inductive Stage where
  /-- a write held for the core's earlier reads (R298) -/
  | held
  /-- waiting in the network interface (R281, R288, R299) -/
  | ni
  /-- in the torus on its way to its home, or to its frond's Rhizome port -/
  | torus
  /-- evicted, its NACK on the way to the sender (R280) -/
  | evicted
  /-- stamped, on the Rhizome (R283) -/
  | stamped
  /-- in the destination's early buffer (R287) -/
  | early
  /-- a copy whose header was applicable, its body arriving under a landing entry (R289) -/
  | landing
  /-- NACKed at the destination, held at its port (R287) -/
  | nacked
  /-- merged by a router into an earlier atomic (R250) -/
  | merged
  /-- performed; the reply or acknowledgement is on its way -/
  | reply
  /-- the error response is on its way (R98) -/
  | error
deriving DecidableEq, Repr

/-- A request in flight, with its reply (R97, R274). -/
structure Packet where
  id     : Nat
  /-- its place in its core's program order: its own number, or that of the operation of an engine that it belongs to
  (R298, R308) -/
  since  : Nat
  src    : Nat
  op     : PktOp
  stage  : Stage
  /-- word accesses still to be performed, in order -/
  parts  : List Part
  /-- words read so far -/
  got    : List (Nat × Word)
  /-- the virtual address and the PC of the access (R98) -/
  va     : Word
  pc     : Word
  /-- the failing address, and the address that the access error log receives, once an error response is on its way
  (R98, R247); in the reply to a copy's write, the reason that refused it, 0 for none (R161) -/
  bad    : Word
  logged : Word
  /-- the access is to device memory: performed singly and in program order (R91) -/
  device : Bool
  /-- the frond of the home -/
  dest   : Nat
  /-- the home lies on another frond (R283) -/
  cross  : Bool
  /-- counted in `usc` (R101, R244) -/
  inUsc  : Bool
  /-- an Rd, and a Wr, of R295 -/
  rd     : Bool
  wr     : Bool
  /-- accesses the core's own scratchpad, without the network interface -/
  own    : Bool
  stamp  : Option Stamp
  /-- the counts of the home's frond when the request was performed there, which its reply carries (R285) -/
  back   : SMap (BitVec 16)
  /-- its place in the early buffer is one of the 64 shared slots (R287) -/
  shared : Bool
  evictions : Nat
  /-- atomics that a router merged into this one, in order (R250) -/
  merged : List Nat
  /-- flags that an AFADD raised at its home (R247) -/
  flags  : BitVec 5
deriving DecidableEq, Repr

/-! ## Engines (R149 to R166, R222 to R236) -/

/-- An MMA in the matrix queue, with the operands latched at its issue (R228, R231). -/
structure MmaOp where
  d    : Reg
  k    : KField
  tile : Tile
  slot : Nat
  row  : Nat
  col  : Nat
  sp   : Bool
  bfmt : Fmt
  kdim : Nat
  off  : Nat
  m    : Nat
  n    : Nat
  /-- the copy queue of the copy that handed over this follow-on (R160) -/
  origin : Option KField
  /-- packets of its core that were in flight when it entered the queue (R226, R160) -/
  after  : Nat
  /-- the address of the MMA, or of the copy that it follows (R98) -/
  pc     : Word
deriving DecidableEq, Repr

/-- An MDRAIN in the matrix queue (R235). -/
structure DrainOp where
  d     : Reg
  k     : KField
  tile  : Tile
  slot  : Nat
  row   : Nat
  col   : Nat
  mode  : RoundMode
  srkey : Word
  amax  : Word
  pc    : Word
  /-- its words have been sent; those not yet acknowledged; one met an error response (R98); the largest magnitude of the
  bank, for the merge -/
  written : Bool
  flying  : List Nat
  failed  : Bool
  largest : Word32
  /-- the amax merge is in flight as this packet -/
  merge : Option Nat
deriving DecidableEq, Repr

/-- What a queue entry waits for: the operations ahead of a join marker, by number (R164). -/
structure Marker where
  deps : List Nat
deriving DecidableEq, Repr

inductive MatItem where
  | mma (id : Nat) (o : MmaOp)
  | mswap (id : Nat) (k : KField)
  | mzero (id : Nat) (k : KField)
  | mdrain (id : Nat) (o : DrainOp)
  /-- a MATMUL that the force unit evaluates (R264) -/
  | matmul (id : Nat)
  | join (mk : Marker)
deriving DecidableEq, Repr

/-- A copy with the operands latched at its issue (R151 to R154). -/
structure CopyOp where
  id     : Nat
  d      : Reg
  k      : KField
  pc     : Word
  src    : Word
  ctl    : Word
  metaName : Word
  /-- destination names, or the weight-buffer offset -/
  dsts   : List Word
  mode   : RoundMode
  srkey  : Word
  /-- the follow-on MMA (R160) -/
  follow : Option MmaOp
  /-- packets of its own that were in flight when it was issued (R150) -/
  after  : Nat
  /-- the tile in evaluation when it was issued, by owning core and slot (R264) -/
  frame  : Option (Nat × Nat)
deriving DecidableEq, Repr

/-- A copy's source as its region needs it: the tile, the metadata tile under CMP, and the control fields (R152). -/
structure Region where
  src  : Tile
  mt   : Option Tile
  row  : Nat
  col  : Nat
  rows : Nat
  cols : Nat
deriving DecidableEq, Repr

/-- A destination tile that a copy's checks have passed: its number, its name, its tile, and where each word of it lies,
with the word's flat address and whether its page is device memory. -/
structure CopyDest where
  dest  : Nat
  name  : Word
  tile  : Tile
  homes : List (Nat × Nat × Bool)
deriving DecidableEq, Repr

/-- How far a copy has come. -/
inductive CopyPhase where
  | waiting
  /-- its source words are being read: the region, those that have arrived, keyed 2^32 × party + word, and the
  destinations that the data goes to -/
  | reading (g : Region) (got : SMap Word) (ds : List CopyDest)
  /-- its data is on its way to its destinations, or it has ended -/
  | writing
deriving DecidableEq, Repr

/-- The progress of a copy. -/
structure CopyRun where
  phase    : CopyPhase
  /-- stopped unstarted by a translation fault (R162) -/
  faulted  : Bool
  reason   : Nat
  failmask : Nat
  /-- the reason of the lowest-numbered failed destination -/
  dreasons : SMap Nat
  /-- its packets still in flight -/
  flying   : List Nat
deriving DecidableEq, Repr

inductive CopyItem where
  | copy (o : CopyOp) (r : CopyRun)
  | join (mk : Marker)
deriving DecidableEq, Repr

/-- A QWAIT in flight: its register, its mask and the operations it covers (R164). -/
structure QWait where
  d    : Reg
  mask : BitVec 5
  deps : List Nat
deriving DecidableEq, Repr

/-- The elements of one accumulator bank, keyed 64·row + column; unlisted elements are +0 (R222). -/
abbrev Bank := SMap (BitVec 40)

/-- An accumulator: its configuration word of R223 and its two banks. -/
structure Accumulator where
  cfg  : Word
  work : Bank
  vis  : Bank
deriving DecidableEq, Repr

/-! ## The force unit (R261 to R272) -/

/-- What began a chain, and what its end does. -/
inductive Root where
  /-- FORCE: the core does not issue past it (R262) -/
  | force (pc : Word)
  /-- FORCE.nb: register, address -/
  | forceNb (d : Reg) (pc : Word)
  /-- an eager TSUSP: register, name, address (R260) -/
  | eager (d : Reg) (name : Word) (pc : Word)
  /-- a spark taken by GLEAN: register, name (R270) -/
  | spark (d : Reg) (name : Word)
  /-- a FORCE inside a CALL frame (R262) -/
  | inner (pc : Word)
  /-- a FORCE.nb inside a CALL frame -/
  | innerNb (d : Reg) (pc : Word)
  /-- an eager TSUSP inside a CALL frame -/
  | innerEager (d : Reg) (name : Word) (pc : Word)
deriving DecidableEq, Repr

/-- What an entry of the force stack does next (R263). -/
inductive Phase where
  /-- force operand number i -/
  | operand (i : Nat)
  /-- evaluate the operation -/
  | evaluate
  /-- a MATMUL in the matrix queue (R264) -/
  | queued
  /-- the words of these operands are being read; the result's are being written (R263) -/
  | reading (ops : List Tile)
  | writing
  /-- a CALL frame is waiting to start, or running -/
  | callWait
  | frame
  /-- the result is written: make the tile VALUE; a loft on another frond has done so -/
  | complete
  | told
deriving DecidableEq, Repr

/-- The saved state of the stream that a CALL frame interrupts (R267). -/
structure FrameSave where
  g      : List Word
  full   : Word
  pc     : Word
  /-- the next fresh number when the frame started: what the frame issues has this number or a later one (R270) -/
  mark   : Nat
deriving DecidableEq, Repr

/-- One tile being evaluated (R261). -/
structure ForceEntry where
  /-- the owning core and slot, and the name in absolute form with its generation -/
  core  : Nat
  slot  : Nat
  name  : Word
  phase : Phase
  /-- the root or inner instruction whose push this entry is -/
  why   : Option Root
  save  : Option FrameSave
deriving DecidableEq, Repr

/-- Where the force unit stands on the tile it is forcing now (R263, R265). -/
inductive Goal where
  | none
  /-- the request to T's loft is on its way: name as resolved -/
  | ask (core slot : Nat) (name : Word) (why : Option Root)
  /-- on the waiter list of a BLACKHOLE tile -/
  | asleep (core slot : Nat) (name : Word) (why : Option Root)
  /-- T has left BLACKHOLE, as VALUE or back to SUSPENDED, and the notice is on its way -/
  | woken (core slot : Nat) (name : Word) (why : Option Root) (value : Bool)
deriving DecidableEq, Repr

structure ForceUnit where
  /-- the root of the chain, none when idle -/
  root  : Option Root
  goal  : Goal
  /-- innermost first -/
  stack : List ForceEntry
  /-- HOW of R262 for a tile found VALUE: 0, or 2 after a wait -/
  how   : Nat
  /-- abandoning a spark's frame (R270) -/
  absorbing : Bool
  /-- its packets still in flight, and the words that they have read, keyed by 2^32 × operand + word -/
  flying : List Nat
  got    : SMap Word
  /-- the place in program order of the push that it works on (R308) -/
  since  : Nat
  /-- the address of an evaluation's access that met an error response (R98, R271) -/
  failed : Option Word
deriving DecidableEq, Repr

/-! ## Gleaning and search (R358 to R365) -/

structure RangeEntry where
  lo    : Nat
  hi    : Nat
  grain : Nat
  entry : Word
deriving DecidableEq, Repr

inductive WorkKind where
  | range | spark | alternative
deriving DecidableEq, Repr

/-- A GLEAN that has not filled its pair (R361, R363). -/
structure GleanWait where
  d      : Reg
  old0   : Word
  old1   : Word
  /-- the glean LFSR before its step (R12) -/
  lfsr0  : BitVec 16
  pc     : Word
  /-- the victim and kind that the search found -/
  target : Option (Nat × WorkKind)
  /-- nothing was found; work published since -/
  idle   : Bool
  news   : Bool
deriving DecidableEq, Repr

/-! ## Groups (R328 to R340) -/

/-- What a member's core holds for a group (R337). -/
structure Member where
  a    : Word32
  w    : Word32
  role : Role
  /-- requests held at issue: a mode question or a wait has been sent -/
  asked : Bool
deriving DecidableEq, Repr

inductive GroupMode where
  | unset | barrier | phaser
deriving DecidableEq, Repr

inductive ChanOp where
  | ask (barrier : Bool)
  | arrive
  | signal
  | register (r : Role)
  | ended
deriving DecidableEq, Repr

/-- A request on its way to a group's channel, from a context (R337). -/
structure ChanReq where
  ctx : Nat
  op  : ChanOp
deriving DecidableEq, Repr

/-- A group of a launch, at its channels (R328 to R336). -/
structure Group where
  /-- member contexts -/
  members : List Nat
  mode    : GroupMode
  /-- fronds whose channel has the group's mode (R331) -/
  known   : List Nat
  /-- completed phases P -/
  phase   : Word32
  /-- barrier mode: arrivals received, by context -/
  arrived : SMap Word32
  /-- phaser mode: roles as the channel holds them, s and w, by context -/
  roles   : SMap Role
  s       : SMap Word32
  w       : SMap Word32
  /-- a PHSIG for the open phase has been received -/
  signalled : Bool
  /-- contexts whose part has ended (R339) -/
  gone    : List Nat
  queue   : List ChanReq
deriving DecidableEq, Repr

/-! ## Translation (R90 to R96) -/

/-- One page of a TLB: the leaf entry of R91 and the page it maps. -/
structure TlbEntry where
  asn   : Nat
  level : Nat
  vpage : Nat
  leaf  : Word
deriving DecidableEq, Repr

/-- What an access asks of a leaf's permission bits (R91, R242). -/
inductive Access where
  | fetch | read | write | rw
deriving DecidableEq, Repr

/-- Where a walk ended (R92); `bad`: at an entry whose home answered with an error (R89). -/
inductive WalkEnd where
  | leaf (e : TlbEntry)
  | fault
  | violation
  | bad
deriving DecidableEq, Repr

/-- A translation miss in a frond's miss queue (R95): the core, its requester (0 fetch, 1 the scalar path, 2 to 5 the copy
queues, 6 the force unit, 7 an amax merge), the address space and page table it walks, the address, and whether one of
the frond's walkers works on it. -/
structure Miss where
  core    : Nat
  req     : Nat
  asn     : Nat
  root    : Nat
  va      : Word
  walking : Bool
deriving DecidableEq, Repr

/-! ## Cores -/

/-- What a core is doing (R353, R393, R397, R404, R408). -/
inductive RunState where
  | idle
  | running
  /-- parked on a recoverable fault (R393) -/
  | parked
  /-- stopped at a boundary for pre-emption, for a debugger, or by the launch's end -/
  | preempted
  | halted
  | stopped
  /-- raised the fatal cause that ends the launch -/
  | faulted
  | ended
deriving DecidableEq, Repr

/-- A cause that waits for the next instruction boundary (R392). -/
structure Pending where
  rank  : Nat
  cause : Nat
  tval  : Word
  /-- the address that `tpc` takes where it is not the next instruction's (R271) -/
  tpc   : Option Word
  /-- the number of the packet or operation that raised it; the next fresh one where none did (R270, log entry 50) -/
  born  : Nat
deriving DecidableEq, Repr

/-- An increment of a prune word that a CUT has to make: its address, where the word lies, and whether its page is device
memory (R380). -/
structure PruneAdd where
  va     : Word
  home   : Nat
  device : Bool
deriving DecidableEq, Repr

/-- A sequence that an instruction has begun and that goes on at its next issue: a FAIL that a recoverable fault stopped, or
a CUT with increments left to send (R376, R378, R380). -/
inductive Midway where
  | fail
  | cut (adds : List PruneAdd)
deriving DecidableEq, Repr

/-- One core. Its position is its key in `State.cores`: `coord` is computed from it (R104). -/
structure Core where
  run    : RunState
  /-- the launch's key and the context index (R350) -/
  launch : Option Nat
  ctx    : Nat
  /-- PC (R391) -/
  pc     : Word
  /-- scalar file and full bits (R55) -/
  g      : Vector Word 64
  gfull  : Word
  /-- vector file and full bits -/
  v      : Vector VReg 64
  vfull  : Word
  /-- mask file -/
  m      : Vector Word32 8
  /-- CSRs (R73) -/
  fcsr   : Word
  jord   : BitVec 3
  jfl    : BitVec 40
  vstat  : BitVec 3
  gidx   : BitVec 6
  nroute : BitVec 16
  srkey  : Word
  tcause : Byte
  tval   : Word
  tpc    : Word
  usc    : BitVec 10
  lstat  : Word
  /-- accumulators (R222) -/
  acc    : Vector Accumulator 4
  /-- copy queues, matrix queue, QWAITs (R149, R164, R225) -/
  queues : Vector (List CopyItem) 4
  mqueue : List MatItem
  qwaits : List QWait
  force  : ForceUnit
  /-- spark queue, oldest first; range deque, bottom first; glean LFSR (R269, R358, R362) -/
  sparks : List Word
  deque  : List RangeEntry
  lfsr   : BitVec 16
  glean  : Option GleanWait
  /-- choice arena pointers (R368) -/
  ctop   : Nat
  sp     : Nat
  /-- the FAIL or CUT that the instruction at PC has begun (R376, R378, R380) -/
  midway : Option Midway
  /-- group counts and roles (R337) -/
  groups : SMap Member
  /-- boundary causes (R392), the halt and pre-emption requests, the attached debugger (R395); on a halted core
  `haltReq` says that the halt has still to drain (R408) -/
  pending  : List Pending
  haltReq  : Bool
  debugger : Bool
  preemptReq : Bool
  /-- the fault record of a parked core has been withdrawn (R401) -/
  withdrawn : Bool
  /-- the arena header is still to be written before the first instruction (R368) -/
  headerDue : Bool
  /-- a pending GANG (R320) -/
  gangWait : Option GangSize
  /-- packets that an acquire atomic, and that a FENCE, wait for (R243, R296) -/
  holdAtom  : List Nat
  holdFence : List Nat
  /-- SVL ports that carried writes not yet confirmed visible (R304) -/
  svlPorts  : List Nat
  /-- micro-TLB (R93); the walks that ended in a fault, by requester, each for the access that waits (R94, R95) -/
  tlb       : List TlbEntry
  ends      : SMap (Word × WalkEnd)
  /-- MODEL: the last issue attempt waited (log entry 3) -/
  stall  : Bool
deriving DecidableEq, Repr

/-! ## Launches and queues (R347 to R357) -/

inductive LaunchState where
  | running | preempting | parked | resuming | ending
deriving DecidableEq, Repr

/-- The fatal fault that a completion record names (R352). -/
structure FaultNote where
  coord : Nat
  cause : Nat
  tval  : Word
  tpc   : Word
deriving DecidableEq, Repr

structure Launch where
  key    : Nat
  state  : LaunchState
  launchid : Word32
  prio   : Nat
  /-- the partitions it holds, or held when it parked: bit 3f + b (R349) -/
  parts  : Nat
  /-- the core of each context (R350) -/
  cores  : List Nat
  variant : Nat
  reloc  : Bool
  entry  : Word
  ptroot : Nat
  asn    : Nat
  poolN  : Nat
  /-- the pool count (R259) -/
  pool   : Nat
  hwPct  : Nat
  dlim   : Nat
  gorder : Nat
  arenaBase : Word
  arenaSz   : Nat
  ctxBase   : Nat
  flagOff   : Nat
  args   : Word
  srkey  : Word
  compl  : Nat
  groups : SMap Group
  /-- the status of the launch's end, once it is ending (R352) -/
  status : Nat
  note   : Option FaultNote
  /-- contexts of a parked launch: the internal regions of their blocks (R403) -/
  saved  : SMap Core
  /-- the lofts saved with the contexts, keyed 4096·context + slot (R133) -/
  savedLoft : SMap LoftEntry
  /-- physical core numbers of its positions when it parked (R420) -/
  phys   : List Nat
deriving DecidableEq, Repr

/-- A work queue (R347). -/
structure WorkQueue where
  ringBase : BitVec 44
  log2n    : BitVec 5
  head     : Word32
  tail     : Word32
  deficit  : Nat
  quantum  : BitVec 11
  partMask : BitVec 24
  /-- the variant chosen for the head descriptor; none while the head has not passed R351 -/
  chosen   : Option Nat
deriving DecidableEq, Repr

/-- A fault record (R394), SEQ apart. -/
structure FaultRecord where
  launchid : Word32
  ctx    : Nat
  wdrawn : Bool
  coord  : Nat
  cause  : Nat
  tval   : Word
  tpc    : Word
deriving DecidableEq, Repr

/-- A frond's fault ring (R394): entries keyed by index, the count, the entries not yet marked read, and the records
whose cores wait to post. -/
structure FaultRing where
  entries : SMap FaultRecord
  count   : Word32
  unread  : List Nat
  waiting : List FaultRecord
deriving DecidableEq, Repr

/-- An access error log (R425). -/
structure ErrorLog where
  entries : SMap (List Word)
  count   : Word32
deriving DecidableEq, Repr

/-- A wear record (R418). -/
structure Wear where
  eolh    : BitVec 16
  wear    : Byte
  cecount : BitVec 24
deriving DecidableEq, Repr

/-- A TLB invalidation that has started (R96, R424): its command, its address, and the walks begun before it, by core and
requester. -/
structure Invalidation where
  cmd   : Word
  va    : Word
  walks : List (Nat × Nat)
deriving DecidableEq, Repr

/-- The substitution command that is pending, and the status word (R420). -/
structure Substitution where
  state   : Nat
  reason  : Nat
  command : Word
deriving DecidableEq, Repr

/-- Attestation (R428). -/
structure Attestation where
  nonce  : List Word
  /-- the nonce that is being signed -/
  signing : List Word
  status : Nat
  report : List Byte
deriving DecidableEq, Repr

/-- A write that a host has accepted at an SVL port and has not yet made visible on the other ports (R304): the word's key
and the masked data. -/
structure HostWrite where
  port : Nat
  key  : Nat
  mask : Word
  data : Word
deriving DecidableEq, Repr

/-- A management controller's firmware image: the digest of the key it carries, whether its signature verifies under
that key, and its security version (R426). -/
structure Image where
  digest  : List Byte
  signed  : Bool
  version : Nat
deriving DecidableEq, Repr

/-- What the package sends to an SVL port in answer to an inbound request (R423). -/
structure SvlReply where
  port  : Nat
  error : Bool
  data  : List Byte
deriving DecidableEq, Repr

/-- Which agent moves next. -/
inductive Turn where
  | issue (c : Nat)
  | event (i : Instr)
deriving DecidableEq, Repr

/-- The package. -/
structure State where
  /-- bytes at every home (R81, R87, R126, R159), under the flat addresses of Ops.lean -/
  mem     : Memory
  /-- words with an uncorrectable, and with a correctable, ECC error (R89, R129) -/
  eccBad  : List Nat
  eccOne  : List Nat
  /-- words of CXL memory that are poisoned (R88) -/
  poison  : List Nat
  cores   : SMap Core
  /-- loft entries, keyed 4096·core + slot (R133) -/
  loft    : SMap LoftEntry
  launches : List Launch
  /-- keys of parked launches in the order in which they parked (R356) -/
  resumeList : List Nat
  queues  : SMap WorkQueue
  /-- the queue last served at each priority (R356) -/
  served  : SMap Nat
  rings   : SMap FaultRing
  ready   : SMap Word
  cxl     : SMap Word
  wear    : SMap Wear
  defect  : SMap Byte
  /-- fallow banks in service: key 1024·position + fallow bank, value the logical bank (R127, R420) -/
  banks   : SMap Nat
  subst   : Substitution
  invalVa : Word
  inval   : List Invalidation
  invalDone : Word
  logs    : SMap ErrorLog
  attest  : Attestation
  /-- the fused digest and minimum version, and the controllers' images, by frond (R426) -/
  fuses   : Image
  images  : SMap Image
  /-- SVL map entries: keys 2w and 2w + 1 (R422) -/
  svlMap  : SMap Word
  svlRetry : SMap Nat
  /-- writes that hosts have accepted and not yet made visible on every port, in the order of acceptance (R304) -/
  hostPending : List HostWrite
  /-- Rhizome counts K_f[d][i], keyed 64f + 8d + i, and the counts acknowledged to s by d, keyed 8s + d (R282, R286) -/
  counts  : SMap (BitVec 16)
  acked   : SMap (BitVec 16)
  retired : List Nat
  /-- a rebase is under way: no port assigns counts (R292) -/
  rebasing : Bool
  /-- shared TLBs, and miss queues in arrival order, by frond (R93, R95) -/
  tlbs    : SMap (List TlbEntry)
  walks   : SMap (List Miss)
  net     : List Packet
  hostOut : List SvlReply
  /-- words of completion records on their way into the control region, as offset and word (R352) -/
  records : List (Nat × Word)
  /-- MODEL: the core that issues, the turns proposed from outside, the next fresh number, and the turns taken where
  nothing was proposed (log entry 3) -/
  cur     : Nat
  agenda  : List Turn
  nextId  : Nat
  beat    : Nat
deriving DecidableEq, Repr

/-! ## Reset values -/

/-- A loft entry at reset (R133). -/
def LoftEntry.reset : LoftEntry :=
  { state := .free, gen := 0, rows := 1, cols := 1, fmt := .fp32, level := .S, base := 0, row0 := 0, col0 := 0,
    stream := 0, stook := none, owner := 0, ownerDepth := 0, waiters := [] }

def VReg.zero : VReg := Vector.replicate 32 0

def Accumulator.reset : Accumulator := { cfg := 0, work := [], vis := [] }

def ForceUnit.idle : ForceUnit := { root := none, goal := .none, stack := [], how := 0, absorbing := false, flying := [], got := [], since := 0, failed := none }

def Member.reset : Member := { a := 0, w := 0, role := .withdraw, asked := false }

/-- A core at reset (R73, R174). -/
def Core.reset : Core :=
  { run := .idle, launch := none, ctx := 0, pc := 0,
    g := Vector.replicate 64 0, gfull := BitVec.allOnes 64,
    v := Vector.replicate 64 VReg.zero, vfull := BitVec.allOnes 64,
    m := Vector.replicate 8 0,
    fcsr := 1, jord := 0, jfl := 0, vstat := 0, gidx := 0, nroute := 0x3000, srkey := 0,
    tcause := 0, tval := 0, tpc := 0, usc := 0, lstat := 0,
    acc := Vector.replicate 4 Accumulator.reset,
    queues := Vector.replicate 4 [], mqueue := [], qwaits := [], force := ForceUnit.idle,
    sparks := [], deque := [], lfsr := 0, glean := none, ctop := 0, sp := 0, midway := none, groups := [],
    pending := [], haltReq := false, debugger := false, preemptReq := false, withdrawn := false, headerDue := false, gangWait := none,
    holdAtom := [], holdFence := [], svlPorts := [], tlb := [], ends := [], stall := false }

/-- A work queue at reset (R347). -/
def WorkQueue.reset : WorkQueue :=
  { ringBase := 0, log2n := 0, head := 0, tail := 0, deficit := 0, quantum := 1, partMask := 0, chosen := none }

def FaultRing.reset : FaultRing := { entries := [], count := 0, unread := [], waiting := [] }

def ErrorLog.reset : ErrorLog := { entries := [], count := 0 }

/-- A wear record at reset (R418). -/
def Wear.reset : Wear := { eolh := 0xFFFF, wear := 0, cecount := 0 }

/-- An image that the fuses accept: the reset value of a frond's image (log entry 65). -/
def Image.reset : Image := { digest := List.replicate 32 0, signed := true, version := 0 }

/-- The package right after device reset (R9). -/
def State.reset : State :=
  { mem := [], eccBad := [], eccOne := [], poison := [], cores := [], loft := [], launches := [], resumeList := [], queues := [],
    served := [], rings := [], ready := [], cxl := [], wear := [], defect := [], banks := [],
    subst := { state := 0, reason := 0, command := 0 }, invalVa := 0, inval := [], invalDone := 0, logs := [],
    attest := { nonce := [0, 0, 0, 0], signing := [0, 0, 0, 0], status := 0, report := [] }, fuses := Image.reset, images := [],
    svlMap := [], svlRetry := [], hostPending := [],
    counts := [], acked := [], retired := [], rebasing := false, tlbs := [], walks := [], net := [], hostOut := [], records := [],
    cur := 0, agenda := [], nextId := 0, beat := 0 }

/-! ## Stops -/

/-- Why the machine stops with a fault. Every mistake that the manual describes is a trap (R390), and a trap is a next
state, so nothing of the machine stops with a fault. -/
inductive Fault where
  /-- raised by no meaning: the type needs an element; safe -/
  | none
deriving DecidableEq, Repr

/-- Why an instruction has no meaning. -/
inductive Refusal where
  /-- raised by an arm of `exec` whose instruction has no meaning yet; safe -/
  | notModelled (mnemonic : String)
deriving DecidableEq, Repr

end Sys2Proof.Machine
end

