-- ==== Sys2Proof/Machine/Ops.lean ====
section
/-! DEFINITION. The named operations over the state: sparse maps, bytes and words of memory, cores and their
positions, launches, fault records, and taking a trap (R390 to R397) with the return from one (R395, R396). -/
namespace Sys2Proof.Machine

/-! ## Sparse maps -/

/-- The value at `k`; `d` where the map lists none. -/
def mapGet {α : Type} (d : α) (m : SMap α) (k : Nat) : α :=
  match m with
  | [] => d
  | (a, v) :: r => if a = k then v else mapGet d r k

/-- The map with `k` set to `v`, its keys kept rising. -/
def mapSet {α : Type} (m : SMap α) (k : Nat) (v : α) : SMap α :=
  match m with
  | [] => [(k, v)]
  | (a, w) :: r => if k < a then (k, v) :: (a, w) :: r else if a = k then (k, v) :: r else (a, w) :: mapSet r k v

/-- The map without `k`. -/
def mapErase {α : Type} (m : SMap α) (k : Nat) : SMap α := m.filter fun e => e.1 ≠ k

/-- Every listed value mapped. -/
def mapValues {α β : Type} (f : α → β) (m : SMap α) : SMap β := m.map fun e => (e.1, f e.2)

/-! ## Bytes and words of memory -/

/-- What a byte that nothing has written reads as (log entry 1). -/
def Memory.unlisted : Byte := 0

def Memory.read (m : Memory) (a : Nat) : Byte :=
  match m with
  | [] => Memory.unlisted
  | (k, v) :: r => if k = a then v else Memory.read r a

/-- One byte written, in canonical form: a byte equal to what an unlisted address reads as is not listed. -/
def Memory.write (m : Memory) (a : Nat) (b : Byte) : Memory :=
  match m with
  | [] => if b = Memory.unlisted then [] else [(a, b)]
  | (k, v) :: r =>
    if a < k then (if b = Memory.unlisted then (k, v) :: r else (a, b) :: (k, v) :: r)
    else if k = a then (if b = Memory.unlisted then r else (a, b) :: r)
    else (k, v) :: Memory.write r a b

/-- The canonical form: addresses strictly rising, no listed byte equal to what an unlisted address reads as. -/
def Memory.wf : Memory → Bool
  | [] => true
  | [(_, v)] => v != Memory.unlisted
  | (a, v) :: (b, w) :: r => v != Memory.unlisted && decide (a < b) && Memory.wf ((b, w) :: r)

/-- `n` bytes from address `a` upward, as a number: little-endian (R3). -/
def Memory.readNat (m : Memory) (a : Nat) : Nat → Nat
  | 0 => 0
  | n + 1 => (m.read a).toNat + 2 ^ 8 * Memory.readNat m (a + 1) n

/-- The aligned word at `a` (R3, R126). -/
def Memory.readWord (m : Memory) (a : Nat) : Word := BitVec.ofNat 64 (m.readNat a 8)

/-- The bytes of `v` written from address `a` upward, least significant first (R3). -/
def Memory.writeBytes (m : Memory) (a : Nat) : List Byte → Memory
  | [] => m
  | b :: r => Memory.writeBytes (m.write a b) (a + 1) r

/-- Byte `i` of a word. -/
def byteOf (w : Word) (i : Nat) : Byte := w.extractLsb' (8 * i) 8

def bytesOfWord (w : Word) : List Byte := (List.range 8).map (byteOf w)

def Memory.writeWord (m : Memory) (a : Nat) (w : Word) : Memory := m.writeBytes a (bytesOfWord w)

/-- A masked write of one aligned word: the bits set in `mask` take those of `data` (R147, R248). -/
def Memory.writeMasked (m : Memory) (a : Nat) (mask data : Word) : Memory :=
  m.writeWord a ((data &&& mask) ||| (m.readWord a &&& ~~~mask))

/-- The `n` bytes from `a` upward as nothing had written them. -/
def Memory.clearRange (m : Memory) (a n : Nat) : Memory := m.filter fun e => !(a ≤ e.1 && e.1 < a + n)

/-- The `n` bytes from `src` upward copied to `dst`. -/
def Memory.copyRange (m : Memory) (dst src n : Nat) : Memory :=
  let moved := (m.filter fun e => src ≤ e.1 && e.1 < src + n).map fun e => (e.1 - src + dst, e.2)
  m.filter (fun e => e.1 < dst) ++ moved ++ m.filter fun e => dst + n ≤ e.1

/-- The address of the aligned word that holds byte `a`. -/
def wordAddr (a : Nat) : Nat := a / 8 * 8

/-! ## Flat addresses: one number for every byte of every home -/

/-- Byte `off` of core `c`'s scratchpad (R82, R126). -/
def scratchAddr (c off : Nat) : Nat := 2 ^ 52 + c * 2 ^ 19 + off % 2 ^ 19
/-- Byte `off` of core `c`'s weight buffer (R159, R230). -/
def weightAddr (c off : Nat) : Nat := 2 ^ 53 + c * 2 ^ 17 + off % 2 ^ 17

/-! ## Bits of words -/

/-- The field [lo + n - 1 : lo] of a word as a number. -/
def fld (w : Word) (lo n : Nat) : Nat := w.toNat / 2 ^ lo % 2 ^ n

/-- Bit `i` of a word. -/
def wbit (w : Word) (i : Nat) : Bool := w.getLsbD i

def setBit (w : Word) (i : Nat) (b : Bool) : Word :=
  if b then w ||| (1#64 <<< i) else w &&& ~~~(1#64 <<< i)

/-- A field of zeros: bits [hi:lo] of `w` are 0. -/
def zeroBits (w : Word) (lo hi : Nat) : Bool := fld w lo (hi + 1 - lo) == 0

/-- A word with bit `k` set where `f k` holds, for k < 64. -/
def wordOfBits (f : Nat → Bool) : Word :=
  BitVec.ofNat 64 ((List.range 64).foldl (fun acc k => if f k then acc + 2 ^ k else acc) 0)

/-- A mask of `n` ones at bit `lo`. -/
def onesAt (lo n : Nat) : Word := BitVec.ofNat 64 ((2 ^ n - 1) * 2 ^ lo)

/-! ## Cores and positions -/

/-- The frond, y and x of a core number (R104, R395). -/
def frondOf (c : Nat) : Nat := c / 144
def yOf (c : Nat) : Nat := c % 144 / 12
def xOf (c : Nat) : Nat := c % 12
def coreAt (f y x : Nat) : Nat := 144 * f + 12 * y + x

/-- The `coord` layout (R104). -/
def coordOf (c : Nat) : Nat := frondOf c * 2 ^ 8 + yOf c * 2 ^ 4 + xOf c

/-- The partition of a core: bit 3f + b (R349). -/
def partOf (c : Nat) : Nat := 3 * frondOf c + yOf c / 4

/-- The bit of a core in the CORESET layout (R350). -/
def coreSetBit (c : Nat) : Nat := 48 * partOf c + 12 * (yOf c % 4) + xOf c

/-- The core at a bit of the CORESET layout (R350). -/
def coreOfSetBit (n : Nat) : Nat :=
  let p := n / 48
  coreAt (p / 3) (4 * (p % 3) + n % 48 / 12) (n % 12)

def State.core (s : State) (c : Nat) : Core := mapGet Core.reset s.cores c
def State.setCore (s : State) (c : Nat) (k : Core) : State := { s with cores := mapSet s.cores c k }
def State.modCore (s : State) (c : Nat) (f : Core → Core) : State := s.setCore c (f (s.core c))

/-- The core that issues. -/
def State.me (s : State) : Core := s.core s.cur
def State.modMe (s : State) (f : Core → Core) : State := s.modCore s.cur f

def State.entry (s : State) (c slot : Nat) : LoftEntry := mapGet LoftEntry.reset s.loft (4096 * c + slot)
def State.setEntry (s : State) (c slot : Nat) (e : LoftEntry) : State :=
  { s with loft := mapSet s.loft (4096 * c + slot) e }

/-- A fresh number. -/
def State.fresh (s : State) : Nat × State := (s.nextId, { s with nextId := s.nextId + 1 })

/-! ## Launches -/

def findLaunch (ls : List Launch) (k : Nat) : Option Launch := ls.find? fun l => l.key = k

def State.launch? (s : State) (k : Nat) : Option Launch := findLaunch s.launches k

/-- The launch that a core runs in. -/
def State.launchOf (s : State) (c : Nat) : Option Launch := (s.core c).launch.bind s.launch?

def State.setLaunch (s : State) (l : Launch) : State :=
  { s with launches := s.launches.map fun m => if m.key = l.key then l else m }

def State.modLaunch (s : State) (k : Nat) (f : Launch → Launch) : State :=
  { s with launches := s.launches.map fun m => if m.key = k then f m else m }

/-- Whether a launch holds the partition of a core (R85, R350). -/
def Launch.holds (l : Launch) (c : Nat) : Bool := l.parts.testBit (partOf c)

/-- Whether core `c`'s launch holds the partition of core `t` (R85, R131). -/
def State.reaches (s : State) (c t : Nat) : Bool :=
  match s.launchOf c with
  | none => false
  | some l => l.holds t

/-- The core of a context (R350). -/
def Launch.coreOf (l : Launch) (ctx : Nat) : Nat := l.cores.getD ctx 0

/-! ## Registers -/

/-- g0 reads as 0 (R55). -/
def Core.gr (k : Core) (r : Reg) : Word := if r = 0 then 0 else k.g.get r

/-- A g register written; writes to g0 are discarded (R55). -/
def Core.setG (k : Core) (r : Reg) (v : Word) : Core :=
  if r = 0 then k else { k with g := k.g.set r.val v r.isLt }

/-- g0 is always full (R56). -/
def Core.gIsFull (k : Core) (r : Reg) : Bool := r = 0 || k.gfull.getLsbD r.val

def Core.vIsFull (k : Core) (r : Reg) : Bool := k.vfull.getLsbD r.val

/-- Arming g0 arms nothing (R56). -/
def Core.armG (k : Core) (r : Reg) : Core := if r = 0 then k else { k with gfull := setBit k.gfull r.val false }
def Core.armV (k : Core) (r : Reg) : Core := { k with vfull := setBit k.vfull r.val false }

def Core.vr (k : Core) (r : Reg) : VReg := k.v.get r
def Core.setV (k : Core) (r : Reg) (x : VReg) : Core := { k with v := k.v.set r.val x r.isLt }

/-- m0 reads as all ones (R55). -/
def Core.mr (k : Core) (r : MReg) : Word32 := if r = 0 then BitVec.allOnes 32 else k.m.get r

/-- Writes to m0 are discarded (R55). -/
def Core.setM (k : Core) (r : MReg) (x : Word32) : Core :=
  if r = 0 then k else { k with m := k.m.set r.val x r.isLt }

/-- The register after `r`, `n` further up. -/
def regUp (r : Reg) (n : Nat) : Reg := ⟨(r.val + n) % 64, Nat.mod_lt _ (by decide)⟩

/-! ## Traps (R390 to R397) -/

/-- The causes of R390. -/
inductive Cause where
  | illegalInstruction | emptyRead | unarmedFill | unconfiguredAcc | loftFault | selfDependence
  | stookPoolExhausted | translationFault | accessViolation | misaligned | copyFault | swathOverflow
  | choiceOverflow | barrierMisuse | gangFault | preempt | debugHalt | rhizomeDiscard
deriving DecidableEq, Repr

/-- The codes of R390. -/
def Cause.code : Cause → Nat
  | .illegalInstruction => 0x01 | .emptyRead => 0x02 | .unarmedFill => 0x03 | .unconfiguredAcc => 0x04
  | .loftFault => 0x05 | .selfDependence => 0x06 | .stookPoolExhausted => 0x07 | .translationFault => 0x08
  | .accessViolation => 0x09 | .misaligned => 0x0A | .copyFault => 0x0B | .swathOverflow => 0x0C
  | .choiceOverflow => 0x0D | .barrierMisuse => 0x0E | .gangFault => 0x0F | .preempt => 0x10
  | .debugHalt => 0x11 | .rhizomeDiscard => 0x12

/-- The order in which the pending causes of one boundary are taken (R392). -/
def Cause.rank : Cause → Nat
  | .rhizomeDiscard => 1 | .accessViolation => 2 | .copyFault => 3 | .unarmedFill => 4 | .gangFault => 5
  | .translationFault => 6 | .debugHalt => 8 | .preempt => 9 | _ => 7

/-- A `tval` whose [39:32] hold a reason and whose [31:0] hold a name's low bits (R132, R260, R266). -/
def reasonVal (reason : Nat) (name : Word) : Word := BitVec.ofNat 64 (reason * 2 ^ 32 + fld name 0 32)

/-- Whether a fault ring's next record would overwrite one not yet marked read (R394). -/
def FaultRing.full (r : FaultRing) : Bool := r.unread.any fun n => n % 256 = r.count.toNat % 256

/-- A record written as record number COUNT (R394). -/
def FaultRing.post (r : FaultRing) (f : FaultRecord) : FaultRing :=
  { r with entries := mapSet r.entries (r.count.toNat % 256) f, unread := r.unread ++ [r.count.toNat],
           count := r.count + 1 }

/-- FAULT_RING_POST: a record for frond `f`'s ring; one that finds the ring full waits (R394). -/
def State.postRecord (s : State) (f : Nat) (rec : FaultRecord) : State :=
  let r := mapGet FaultRing.reset s.rings f
  let r' := if r.full || !r.waiting.isEmpty then { r with waiting := r.waiting ++ [rec] } else r.post rec
  { s with rings := mapSet s.rings f r' }

/-- The record of a cause at a core (R394). -/
def State.recordOf (s : State) (c cause : Nat) (tv pc : Word) : FaultRecord :=
  { launchid := (s.launchOf c).elim 0 (·.launchid), ctx := (s.core c).ctx, wdrawn := false, coord := coordOf c,
    cause := cause, tval := tv, tpc := BitVec.ofNat 64 (fld pc 0 56) }

def State.post (s : State) (c cause : Nat) (tv pc : Word) : State :=
  s.postRecord (frondOf c) (s.recordOf c cause tv pc)

/-- R391: the trap CSRs. -/
def Core.noteTrap (k : Core) (cause : Nat) (tv pc : Word) : Core :=
  { k with tcause := BitVec.ofNat 8 cause, tval := tv, tpc := BitVec.ofNat 64 (fld pc 0 56) }

/-- A record of a context's TRANSLATION_FAULT. -/
def FaultRecord.isOf (launchid : Word32) (ctx : Nat) (f : FaultRecord) : Bool :=
  f.launchid = launchid && f.ctx = ctx && f.cause = 0x08

/-- R401: the newest TRANSLATION_FAULT record of a context is marked WDRAWN, in the ring or among those that wait. -/
def FaultRing.withdraw (launchid : Word32) (ctx : Nat) (r : FaultRing) : FaultRing :=
  if r.waiting.any (·.isOf launchid ctx) then
    { r with waiting := r.waiting.map fun f => if f.isOf launchid ctx then { f with wdrawn := true } else f }
  else
    let newest := (List.range 256).filterMap fun i =>
      let e := (r.count.toNat + 511 - i) % 256
      (r.entries.find? fun x => x.1 = e ∧ x.2.isOf launchid ctx)
    match newest with
    | [] => r
    | (e, f) :: _ => { r with entries := mapSet r.entries e { f with wdrawn := true } }

/-- R401: a context parked on a recoverable fault is withdrawn by pre-emption or by its launch's end. -/
def State.withdraw (s : State) (c : Nat) : State :=
  let k := s.core c
  let r := mapGet FaultRing.reset s.rings (frondOf c)
  { s.modCore c fun k => { k with withdrawn := true } with
    rings := mapSet s.rings (frondOf c) (r.withdraw ((s.launchOf c).elim 0 (·.launchid)) k.ctx) }

/-- The force unit's chain was begun by a spark (R270). -/
def Core.sparkRoot (k : Core) : Bool := match k.force.root with | some (.spark _ _) => true | _ => false

/-- R365: a waiting GLEAN is withdrawn: its pair regains its values, full, and it issues again on resumption. A GLEAN
whose spark chain is saved keeps its pair empty. -/
def Core.withdrawGlean (k : Core) : Core :=
  match k.glean with
  | none => k
  | some w =>
    if k.sparkRoot then k
    else
      let k := (k.setG w.d w.old0).setG (regUp w.d 1) w.old1
      { k with gfull := setBit (setBit k.gfull w.d.val true) (regUp w.d 1).val true, pc := w.pc, glean := none }

/-- Whether the running instruction stands in a CALL frame (R267). -/
def Core.inFrame (k : Core) : Bool := k.force.stack.any fun e => e.phase = .frame

/-- The running frame has pushed onto the chain, and waits (R262). -/
def Core.framePushed (k : Core) : Bool :=
  k.inFrame && (k.force.goal != .none || match k.force.stack with | e :: _ => e.phase != .frame | [] => false)

/-- The instruction at PC waits for a chain that it has begun, and does not issue again: a blocking FORCE, a frame's push, or a
GLEAN whose spark the unit holds (R262, R271, R399). -/
def Core.atChain (k : Core) : Bool :=
  if k.inFrame then k.framePushed
  else match k.force.root with
    | some (.force _) => true
    | some (.spark _ _) => k.glean.isSome
    | _ => false

/-- RESUMEPC: the address at which issue resumes (R271, R404). -/
def Core.resumePc (k : Core) : Word := if k.atChain then k.pc + 4 else k.pc

/-- A CUT has taken its effect on the choice stack, and has increments left to send (R380). -/
def Core.cutting (k : Core) : Bool := match k.midway with | some (.cut _) => true | _ => false

/-- A context stops as for pre-emption, since its launch ends (R365, R397, R398). -/
def State.stopNow (s : State) (c : Nat) : State :=
  s.modCore c fun k => { k.withdrawGlean with run := .stopped, stall := false }

/-- R397: what the end of its launch does to a context. A FAIL or CUT that a running one has begun is completed first (R385);
one parked on a recoverable fault is withdrawn (R401). -/
def State.stopCore (s : State) (c : Nat) : State :=
  match (s.core c).run with
  | .parked => s.withdraw c
  | .running => if (s.core c).midway.isSome then s else s.stopNow c
  | .preempted | .halted => s.stopNow c
  | _ => s

/-- R397: the launch of a fatal cause ends; the first fault to reach the controller is the one it names (R352). -/
def State.endLaunchAs (s : State) (key status : Nat) (note : Option FaultNote) : State :=
  match s.launch? key with
  | none => s
  | some l =>
    if l.state = .ending then s
    else
      let s := s.setLaunch { l with state := .ending, status := status, note := note }
      l.cores.foldl (fun s c => if (s.core c).launch = some key then s.stopCore c else s) s

/-- The members of the gang that holds a core, leader first (R319, R321). -/
def State.gangOf (s : State) (c : Nat) : List Nat :=
  let k := s.core c
  let size := k.gidx.toNat / 16
  if size = 0 then [c] else
    let lead := c - k.gidx.toNat % 8
    (List.range (2 ^ size)).map fun i => lead + i

def Core.inGang (k : Core) : Bool := k.gidx.toNat / 16 ≠ 0

/-- A pending cause; `born` numbers the work that raised it, 0 for none (R270, log entry 50). -/
def Core.addPendingAt (k : Core) (cause : Cause) (tv : Word) (pc : Option Word) (born : Nat := 0) : Core :=
  { k with pending := k.pending ++ [{ rank := cause.rank, cause := cause.code, tval := tv, tpc := pc, born := born }] }

/-- A cause that the next boundary takes with the next instruction's address. -/
def Core.addPending (k : Core) (cause : Cause) (tv : Word) (born : Nat := 0) : Core := k.addPendingAt cause tv none born

/-- GANG_DISBAND (R324): a trap at member `c` makes GANG_FAULT, reason 0x05, pending at every other member. -/
def State.disband (s : State) (c : Nat) : State :=
  let k := s.core c
  if !k.inGang then s else
    let pos := k.gidx.toNat % 8
    (s.gangOf c).foldl (fun s t =>
      s.modCore t fun m =>
        let m := { m with gidx := 0 }
        if t = c then m else m.addPending .gangFault (BitVec.ofNat 64 (0x05 * 2 ^ 8 + pos))) s

/-- A fatal cause at core `c` (R397): the core stops, its trap CSRs and a fault record hold the cause, and its launch
ends. -/
def State.takeFatal (s : State) (c cause : Nat) (tv pc : Word) : State :=
  let s := if cause = Cause.debugHalt.code then s else s.disband c
  let s := s.post c cause tv pc
  let s := s.modCore c fun k => { k.noteTrap cause tv pc with run := .faulted, stall := false }
  match (s.core c).launch with
  | none => s
  | some key =>
    s.endLaunchAs key 0x01
      (some { coord := coordOf c, cause := cause, tval := tv, tpc := BitVec.ofNat 64 (fld pc 0 56) })

/-- A TRANSLATION_FAULT (R393): the core parks with its state in place and a record is posted. `pc` is the restart
point of R396 that `tpc` holds; the core's own pc is RESUMEPC. -/
def State.takePark (s : State) (c : Nat) (tv pc : Word) : State :=
  let s := s.disband c
  let s := s.post c Cause.translationFault.code tv pc
  s.modCore c fun k => { k.noteTrap Cause.translationFault.code tv pc with run := .parked, stall := false }

/-- R407, R408: a core with a debugger attached stops; it drains, and the fault record is posted, in
TAKE_BOUNDARY_TRAP. -/
def State.takeHalt (s : State) (c : Nat) (tv : Word) : State :=
  s.modCore c fun k =>
    let k := k.withdrawGlean
    { k.noteTrap Cause.debugHalt.code tv k.resumePc with run := .halted, haltReq := true, stall := false }

/-- R398: the core stops at a boundary for pre-emption; `tpc` is the resume address. -/
def State.takePreempt (s : State) (c : Nat) : State :=
  s.modCore c fun k =>
    let k := k.withdrawGlean
    { k.noteTrap Cause.preempt.code 0 k.resumePc with run := .preempted, preemptReq := false, stall := false }

/-- TAKING AN EXCEPTION at core `c`, with the PC that `tpc` records (R390, R393, R397). -/
def State.takeTrapAt (s : State) (c : Nat) (cause : Cause) (tv pc : Word) : State :=
  match cause with
  | .translationFault => s.takePark c tv pc
  | x => s.takeFatal c x.code tv pc

/-! ## Waiting and advancing -/

/-- An issue attempt that waits: nothing of the instruction is performed. -/
def State.wait (s : State) : State := s.modMe fun k => { k with stall := true }

/-- An instruction of `n` bytes is done; the stream goes on after it. -/
def Core.advance (k : Core) (n : Nat) : Core := { k with pc := k.pc + BitVec.ofNat 64 n, stall := false }

def State.advance (s : State) (n : Nat) : State := s.modMe fun k => k.advance n

end Sys2Proof.Machine
end

