-- ==== Sys2Proof/Machine/Flags.lean ====
section
/-! DEFINITION. Flags and their registers: `fcsr`, `jfl`, `vstat` (R117, R118, R186, R215) and the resolution of a
rounding mode (R77, R116). -/
namespace Sys2Proof.Machine

/-- The five flags in the order of `fcsr`: NV, DZ, OF, UF, NX from bit 4 down (R117). -/
abbrev FlagBits := BitVec 5

def flagNV : FlagBits := 16
def flagDZ : FlagBits := 8
def flagOF : FlagBits := 4
def flagUF : FlagBits := 2
def flagNX : FlagBits := 1

/-- Flags ORed into `fcsr`[8:4] (R117). -/
def Core.raise (k : Core) (f : FlagBits) : Core := { k with fcsr := k.fcsr ||| (f.zeroExtend 64 <<< 4) }

/-- Flags ORed into field C`c` of `jfl` (R215). -/
def Core.raiseJet (k : Core) (c : Nat) (f : FlagBits) : Core := { k with jfl := k.jfl ||| (f.zeroExtend 40 <<< (5 * c)) }

/-- `vstat` bits (R186). -/
def vstatTshort : BitVec 3 := 4
def vstatIsat : BitVec 3 := 2
def vstatGate : BitVec 3 := 1

def Core.raiseVstat (k : Core) (b : BitVec 3) : Core := { k with vstat := k.vstat ||| b }

/-- The mode that `fcsr`.RM holds; none for 0b000 and 0b111 (R116, R117). -/
def Core.fcsrMode (k : Core) : Option RoundMode := modeOfCode (fld k.fcsr 0 3)

/-- The mode of an instruction that rounds: the prefix's rm, else `fcsr`.RM (R185, R77 step 2). -/
def Core.modeOf (k : Core) (x : Option Pfx) : Option RoundMode :=
  match x.bind (·.rm) with
  | some m => some m
  | none => k.fcsrMode

end Sys2Proof.Machine
end

