-- ==== Sys2Proof/Machine/Operands.lean ====
section
/-! DEFINITION. Operand forms: which registers an instruction examines, the order of the checks at issue (R63, R77),
the empty-policy bits (R62), the wait for destinations (R168), immediates (R60, R69), and how a trap of the running
instruction is raised. -/
namespace Sys2Proof.Machine

/-- A register that carries a full bit. -/
inductive RegRef where
  | g (r : Reg)
  | v (r : Reg)
deriving DecidableEq, Repr

def Core.isFull (k : Core) : RegRef → Bool
  | .g r => k.gIsFull r
  | .v r => k.vIsFull r

/-- The `tval` of EMPTY_READ: file in [7:6], register in [5:0] (R63). -/
def RegRef.tval : RegRef → Word
  | .g r => BitVec.ofNat 64 r.val
  | .v r => BitVec.ofNat 64 (64 + r.val)

/-- Whether the running instruction stands in a CALL frame that runs for a spark's chain (R270). -/
def Core.inSparkFrame (k : Core) : Bool :=
  k.sparkRoot && k.force.stack.any fun e => e.phase = .frame

/-- What a spark's chain absorbs: causes of work that its outermost frame, or one within, issued (R270, log entry 50). -/
def Core.absorbs (k : Core) (born : Nat) : Bool :=
  k.sparkRoot && match (k.force.stack.filterMap (·.save)).getLast? with
    | some f => decide (f.mark ≤ born)
    | none => false

/-- A trap of an instruction at core `c`. In a CALL frame of a spark's chain it is absorbed: the frame is abandoned
(R270). -/
def State.trapOf (s : State) (c : Nat) (cause : Cause) (tv : Word) : State :=
  if (s.core c).inSparkFrame then
    s.modCore c fun k => { k with force := { k.force with absorbing := true }, stall := false }
  else s.takeTrapAt c cause tv (s.core c).pc

/-- A trap of the instruction that issues. -/
def State.trap (s : State) (cause : Cause) (tv : Word) : State := s.trapOf s.cur cause tv

/-- An instruction's registers at issue: those read under the trapping policy, in the order of R63, and every register
that it reads or writes and that must be full before it is performed. -/
structure Uses where
  traps : List RegRef
  waits : List RegRef
deriving DecidableEq, Repr

/-- R63, R77 steps 3 and 4, R168: an empty register read under the trapping policy raises EMPTY_READ; the instruction
waits while any register it reads or writes is empty; else it is performed. -/
def State.issue (s : State) (u : Uses) (body : State → State) : State :=
  match u.traps.find? fun r => !s.me.isFull r with
  | some r => s.trap .emptyRead r.tval
  | none => if u.waits.all s.me.isFull then body s else s.wait

/-- R76, R77 step 1: an instruction that CSRs make illegal. -/
def State.issueLegal (s : State) (i : Instr) (legal : Bool) (u : Uses) (body : State → State) : State :=
  if legal then s.issue u body else s.trap .illegalInstruction i.words64

/-- A source under its policy bit (R62). -/
def policy (p : Bool) (rs : List RegRef) : List RegRef := if p then rs else []

/-- d := op(a, b) over g registers. -/
def uses3 (r : R3) : Uses :=
  { traps := policy r.pa [.g r.a] ++ policy r.pb [.g r.b], waits := [.g r.a, .g r.b, .g r.d] }

/-- d := op(a) over g registers. -/
def uses2 (r : R2) : Uses := { traps := policy r.pa [.g r.a], waits := [.g r.a, .g r.d] }

/-- A g destination and one g source, both blocking (formats I, M, B, J and L, R62). -/
def gUses (rs : List Reg) : Uses := { traps := [], waits := rs.map RegRef.g }

/-- R69, R60: immediates. -/
def sext (n : Nat) (i : BitVec n) : Word := i.signExtend 64
def zext (n : Nat) (i : BitVec n) : Word := i.zeroExtend 64

/-- A word displacement: 4 × disp (R60). -/
def wordDisp (n : Nat) (i : BitVec n) : Word := sext n i <<< 2

end Sys2Proof.Machine
end

