-- ==== Sys2Proof/Machine/Scalar.lean ====
section
/-! DEFINITION. The scalar arithmetic of R178 to R180 and LDI, LDIH (R69). -/
namespace Sys2Proof.Machine

abbrev Out := Host.Outcome State Fault Refusal

/-! ## The operations of R179 -/

def aluRor (x : Word) (n : Nat) : Word := if n = 0 then x else (x >>> n) ||| (x <<< (64 - n))
def aluMulh (x y : Word) : Word := BitVec.ofInt 64 (x.toInt * y.toInt / 2 ^ 64)
def aluMulhu (x y : Word) : Word := BitVec.ofNat 64 (x.toNat * y.toNat / 2 ^ 64)
/-- Signed division truncated toward zero (R12); −1 for y = 0; −2^63 for −2^63 / −1. -/
def aluDiv (x y : Word) : Word := if y = 0 then BitVec.allOnes 64 else BitVec.ofInt 64 (x.toInt.tdiv y.toInt)
def aluDivu (x y : Word) : Word := if y = 0 then BitVec.allOnes 64 else BitVec.ofNat 64 (x.toNat / y.toNat)
/-- The remainder has the sign of the dividend (R12); x for y = 0. -/
def aluRem (x y : Word) : Word := if y = 0 then x else BitVec.ofInt 64 (x.toInt.tmod y.toInt)
def aluRemu (x y : Word) : Word := if y = 0 then x else BitVec.ofNat 64 (x.toNat % y.toNat)
def flag64 (b : Bool) : Word := if b then 1 else 0
def aluMin (x y : Word) : Word := if x.slt y then x else y
def aluMax (x y : Word) : Word := if x.slt y then y else x
def aluMinu (x y : Word) : Word := if x.ult y then x else y
def aluMaxu (x y : Word) : Word := if x.ult y then y else x
def aluClz (x : Word) : Word := BitVec.ofNat 64 (if x = 0 then 64 else 63 - Nat.log2 x.toNat)
def aluCtz (x : Word) : Word :=
  BitVec.ofNat 64 (((List.range 64).find? fun i => x.getLsbD i).getD 64)
def aluPopc (x : Word) : Word := BitVec.ofNat 64 ((List.range 64).countP fun i => x.getLsbD i)
/-- s := y[5:0] (R179). -/
def shiftCount (y : Word) : Nat := y.toNat % 64

/-! ## The two shapes -/

/-- A fixed-latency write of g[d], and the stream goes on (R170). -/
def State.retireG (s : State) (d : Reg) (v : Word) : State := s.modMe fun k => (k.setG d v).advance 4

/-- g[d] := f(g[a], g[b]) (R179). -/
def scalar3 (f : Word → Word → Word) (r : R3) (s : State) : State :=
  s.issue (uses3 r) fun s => s.retireG r.d (f (s.me.gr r.a) (s.me.gr r.b))

/-- g[d] := f(g[a]) (R179). -/
def scalar2 (f : Word → Word) (r : R2) (s : State) : State :=
  s.issue (uses2 r) fun s => s.retireG r.d (f (s.me.gr r.a))

/-- g[d] := f(g[a], y) for an immediate y (R180). -/
def scalarImm (f : Word → Word → Word) (d a : Reg) (y : Word) (s : State) : State :=
  s.issue (gUses [a, d]) fun s => s.retireG d (f (s.me.gr a) y)

/-! ## Meanings -/

def execAdd (r : R3) (s : State) : Out := .next (scalar3 (fun x y => x + y) r s)
def execSub (r : R3) (s : State) : Out := .next (scalar3 (fun x y => x - y) r s)
def execAnd (r : R3) (s : State) : Out := .next (scalar3 (fun x y => x &&& y) r s)
def execOr (r : R3) (s : State) : Out := .next (scalar3 (fun x y => x ||| y) r s)
def execXor (r : R3) (s : State) : Out := .next (scalar3 (fun x y => x ^^^ y) r s)
def execSll (r : R3) (s : State) : Out := .next (scalar3 (fun x y => x <<< shiftCount y) r s)
def execSrl (r : R3) (s : State) : Out := .next (scalar3 (fun x y => x >>> shiftCount y) r s)
def execSra (r : R3) (s : State) : Out := .next (scalar3 (fun x y => x.sshiftRight (shiftCount y)) r s)
def execRor (r : R3) (s : State) : Out := .next (scalar3 (fun x y => aluRor x (shiftCount y)) r s)
def execMul (r : R3) (s : State) : Out := .next (scalar3 (fun x y => x * y) r s)
def execMulh (r : R3) (s : State) : Out := .next (scalar3 aluMulh r s)
def execMulhu (r : R3) (s : State) : Out := .next (scalar3 aluMulhu r s)
def execDiv (r : R3) (s : State) : Out := .next (scalar3 aluDiv r s)
def execDivu (r : R3) (s : State) : Out := .next (scalar3 aluDivu r s)
def execRem (r : R3) (s : State) : Out := .next (scalar3 aluRem r s)
def execRemu (r : R3) (s : State) : Out := .next (scalar3 aluRemu r s)
def execSlt (r : R3) (s : State) : Out := .next (scalar3 (fun x y => flag64 (x.slt y)) r s)
def execSltu (r : R3) (s : State) : Out := .next (scalar3 (fun x y => flag64 (x.ult y)) r s)
def execSeq (r : R3) (s : State) : Out := .next (scalar3 (fun x y => flag64 (x == y)) r s)
def execMin (r : R3) (s : State) : Out := .next (scalar3 aluMin r s)
def execMax (r : R3) (s : State) : Out := .next (scalar3 aluMax r s)
def execMinu (r : R3) (s : State) : Out := .next (scalar3 aluMinu r s)
def execMaxu (r : R3) (s : State) : Out := .next (scalar3 aluMaxu r s)
def execClz (r : R2) (s : State) : Out := .next (scalar2 aluClz r s)
def execCtz (r : R2) (s : State) : Out := .next (scalar2 aluCtz r s)
def execPopc (r : R2) (s : State) : Out := .next (scalar2 aluPopc r s)

def execAddi (d a : Reg) (i : BitVec 14) (s : State) : Out := .next (scalarImm (fun x y => x + y) d a (sext 14 i) s)
def execAndi (d a : Reg) (i : BitVec 14) (s : State) : Out := .next (scalarImm (fun x y => x &&& y) d a (zext 14 i) s)
def execOri (d a : Reg) (i : BitVec 14) (s : State) : Out := .next (scalarImm (fun x y => x ||| y) d a (zext 14 i) s)
def execXori (d a : Reg) (i : BitVec 14) (s : State) : Out := .next (scalarImm (fun x y => x ^^^ y) d a (zext 14 i) s)
def execSlli (d a : Reg) (n : BitVec 6) (s : State) : Out := .next (scalarImm (fun x _ => x <<< n.toNat) d a 0 s)
def execSrli (d a : Reg) (n : BitVec 6) (s : State) : Out := .next (scalarImm (fun x _ => x >>> n.toNat) d a 0 s)
def execSrai (d a : Reg) (n : BitVec 6) (s : State) : Out :=
  .next (scalarImm (fun x _ => x.sshiftRight n.toNat) d a 0 s)
def execRori (d a : Reg) (n : BitVec 6) (s : State) : Out := .next (scalarImm (fun x _ => aluRor x n.toNat) d a 0 s)

/-- R69: g[d] := SignExt(imm20[18:0]). -/
def execLdi (d : Reg) (i : BitVec 19) (s : State) : Out :=
  .next (s.issue (gUses [d]) fun s => s.retireG d (sext 19 i))
/-- R69: g[d] := g[d] << 19 | imm20[18:0]; g[d] is read under the blocking rule. -/
def execLdih (d : Reg) (i : BitVec 19) (s : State) : Out :=
  .next (s.issue (gUses [d]) fun s => s.retireG d (s.me.gr d <<< 19 ||| zext 19 i))

end Sys2Proof.Machine
end

