-- ==== Sys2Proof/Machine/Flow.lean ====
section
/-! DEFINITION. Branches and jumps (R313 to R315), CSR access (R175 to R177), NOP, END (R318) and BREAK (R407). -/
namespace Sys2Proof.Machine

/-! ## Branches and jumps -/

/-- The stream goes on at an address. -/
def Core.goto (k : Core) (t : Word) : Core := { k with pc := t, stall := false }

/-- PC + 4 × disp (R60, R313). -/
def Core.branchTarget (k : Core) (n : Nat) (disp : BitVec n) : Word := k.pc + wordDisp n disp

/-- BEQ, BNE (R313): the branch is taken where `f g[a] g[b]` holds. -/
def branchIf (f : Word → Word → Bool) (a b : Reg) (disp : BitVec 14) (s : State) : State :=
  s.issue (gUses [a, b]) fun s => s.modMe fun k =>
    if f (k.gr a) (k.gr b) then k.goto (k.branchTarget 14 disp) else k.advance 4

/-- R322: a gang's leader alone decides each condition and target; a core outside a gang decides its own. -/
def Core.decides (k : Core) : Bool := k.gidx.toNat % 8 == 0

/-- JALR, JTAB (R313): the sources are read before the link is written; a target off a word boundary raises MISALIGNED
at the jump (R79). A gang's follower takes its leader's target (R322). -/
def jumpTo (u : Uses) (d : Reg) (f : Core → Word) (s : State) : State :=
  s.issue u fun s =>
    let t := f s.me
    if t.toNat % 4 ≠ 0 && s.me.decides then s.trap .misaligned t
    else s.modMe fun k => (k.setG d (k.pc + 4)).goto t

def execBeq (a b : Reg) (disp : BitVec 14) (s : State) : Out := .next (branchIf (fun x y => x == y) a b disp s)
def execBne (a b : Reg) (disp : BitVec 14) (s : State) : Out := .next (branchIf (fun x y => x != y) a b disp s)
/-- BRA reads nothing, whatever its a = b holds (R313). -/
def execBra (_a : Reg) (disp : BitVec 14) (s : State) : Out :=
  .next (s.modMe fun k => k.goto (k.branchTarget 14 disp))
def execJal (d : Reg) (disp : BitVec 20) (s : State) : Out :=
  .next (s.issue (gUses [d]) fun s => s.modMe fun k => (k.setG d (k.pc + 4)).goto (k.branchTarget 20 disp))
def execJalr (r : R2) (s : State) : Out := .next (jumpTo (uses2 r) r.d (fun k => k.gr r.a) s)
def execJtab (r : R3) (s : State) : Out :=
  .next (jumpTo (uses3 r) r.d (fun k => k.gr r.a + (k.gr r.b <<< 2)) s)
/-- DCB (R313, R314): the comparison reads the decremented counter. -/
def execDcb (a b : Reg) (disp : BitVec 14) (s : State) : Out :=
  .next (s.issue (gUses [a, b]) fun s => s.modMe fun k =>
    let k' := k.setG a (k.gr a - 1)
    if k'.gr a ≠ k'.gr b then k'.goto (k.branchTarget 14 disp) else k'.advance 4)

/-! ## CSRs (R73, R176) -/

/-- The bits of a CSR that a program may write, and those that it clears by writing 1 (R73, R117, R186, R204, R215,
R277). -/
def csrRw : Csr → Word
  | .fcsr => 0x1F7
  | .jord => 7
  | .nroute => 0xFF03
  | .srkey => BitVec.allOnes 64
  | _ => 0
def csrW1c : Csr → Word
  | .jfl => onesAt 0 40
  | .vstat => 7
  | _ => 0

/-- A CSR read at core number `c` (R73, R104). -/
def Core.csrValue (k : Core) (c : Nat) : Csr → Word
  | .fcsr => k.fcsr
  | .jord => k.jord.zeroExtend 64
  | .jfl => k.jfl.zeroExtend 64
  | .acfg n => (k.acc.get n).cfg
  | .vstat => k.vstat.zeroExtend 64
  | .gidx => k.gidx.zeroExtend 64
  | .coord => BitVec.ofNat 64 (coordOf c)
  | .nroute => k.nroute.zeroExtend 64
  | .srkey => k.srkey
  | .tcause => k.tcause.zeroExtend 64
  | .tval => k.tval
  | .tpc => k.tpc
  | .usc => k.usc.zeroExtend 64
  | .lstat => k.lstat

/-- A CSR set to a value of its fields; the read-only CSRs keep theirs. -/
def Core.setCsr (k : Core) (x : Csr) (w : Word) : Core :=
  match x with
  | .fcsr => { k with fcsr := w }
  | .jord => { k with jord := w.setWidth 3 }
  | .jfl => { k with jfl := w.setWidth 40 }
  | .vstat => { k with vstat := w.setWidth 3 }
  | .nroute => { k with nroute := w.setWidth 16 }
  | .srkey => { k with srkey := w }
  | _ => k

/-- R176: the three writes. -/
def csrWritten (x : Csr) (old w : Word) : Word :=
  ((old &&& ~~~csrRw x) ||| (w &&& csrRw x)) &&& ~~~(w &&& csrW1c x)
def csrSet (x : Csr) (old w : Word) : Word := old ||| (w &&& csrRw x)
def csrClear (x : Csr) (old w : Word) : Word := old &&& ~~~(w &&& (csrRw x ||| csrW1c x))

/-- A matrix operation of a queue that may set DIRTY of accumulator `n` (R223). -/
def MatItem.dirties (n : KField) : MatItem → Bool
  | .mma _ o => o.k == n
  | _ => false

def CopyItem.follows (n : KField) : CopyItem → Bool
  | .copy o _ => match o.follow with | some m => m.k == n | none => false
  | .join _ => false

/-- A packet whose reply may set flags of `fcsr`: a slice read's, or that of an AFADD that returns its value (R247). -/
def PktOp.setsFcsr : PktOp → Bool
  | .vldt _ _ => true
  | .atom code _ _ nr _ _ => !nr && (code == 0x14 || code == 0x15)
  | _ => false

/-- R72, R177: whether an earlier instruction of the core has still to update a CSR. Slice reads and AFADDs set flags, and
TOPK sets TSHORT, when their data arrives; an MMA sets DIRTY when it is performed. -/
def State.csrPending (s : State) (c : Nat) (x : Csr) : Bool :=
  match x with
  | .fcsr => s.net.any fun p => p.src == c && p.op.setsFcsr
  | .vstat => s.net.any fun p => p.src == c && (match p.op with | .topk _ _ => true | _ => false)
  | .acfg n =>
    let k := s.core c
    k.mqueue.any (·.dirties n) || k.queues.toList.any fun q => q.any (·.follows n)
  | _ => false

/-- A CSR access (R176): `f` gives the CSR's new value, `rs` are the g registers it names. -/
def csrAccess (rs : List Reg) (d : Reg) (x : Csr) (f : Word → Core → Word) (s : State) : State :=
  s.issue (gUses rs) fun s =>
    if s.csrPending s.cur x then s.wait
    else
      let old := s.me.csrValue s.cur x
      s.modMe fun k => ((k.setCsr x (f old k)).setG d old).advance 4

def execCsrr (d : Reg) (x : Csr) (s : State) : Out := .next (csrAccess [d] d x (fun old _ => old) s)
def execCsrw (d a : Reg) (x : Csr) (s : State) : Out :=
  .next (csrAccess [a, d] d x (fun old k => csrWritten x old (k.gr a)) s)
def execCsrs (d a : Reg) (x : Csr) (s : State) : Out :=
  .next (csrAccess [a, d] d x (fun old k => csrSet x old (k.gr a)) s)
def execCsrc (d a : Reg) (x : Csr) (s : State) : Out :=
  .next (csrAccess [a, d] d x (fun old k => csrClear x old (k.gr a)) s)

/-! ## NOP, END, BREAK, and words that are not instructions -/

def execNop (s : State) : Out := .next (s.advance 4)

/-- A packet that has not been performed at its home. -/
def Packet.unperformed (p : Packet) : Bool :=
  match p.stage with
  | .reply | .error => false
  | _ => true

/-- The packets of core `c`. -/
def State.mine (s : State) (c : Nat) : List Packet := s.net.filter fun p => p.src = c

/-- Whether a write of the core is held, or on its way to its home or to its own scratchpad (R297, R298). -/
def State.writesOut (s : State) (c : Nat) : Bool := (s.mine c).any fun p => p.wr && p.unperformed

/-- R318: nothing of the core is outstanding, but a write that R298 holds. -/
def Core.quiet (k : Core) : Bool :=
  k.queues.toList.all (·.isEmpty) && k.mqueue.isEmpty && k.usc == 0 && k.gfull ||| 1 == BitVec.allOnes 64 &&
    k.vfull == BitVec.allOnes 64 && k.force.root.isNone

/-- R318, R298: nothing of core `c` is outstanding. -/
def State.quiet (s : State) (c : Nat) : Bool := (s.core c).quiet && !s.writesOut c

/-- R339: a member's end is sent to its group's channel. -/
def Group.leave (ctx : Nat) (g : Group) : Group :=
  if g.members.contains ctx then { g with queue := g.queue ++ [{ ctx := ctx, op := .ended }] } else g

/-- R339: the end of a context's part in its groups is sent to their channels; R318: its thread stops, and a gang
ends with it (R323). -/
def State.endPart (s : State) (c : Nat) : State :=
  let k := s.core c
  let s := match k.launch with
    | none => s
    | some key =>
      s.modLaunch key fun l => { l with groups := mapValues (Group.leave k.ctx) l.groups }
  s.modCore c fun k => { k with run := .ended, gidx := 0, stall := false }

/-- END (R318). Inside a CALL frame it raises LOFT_FAULT. -/
def execEndLaunch (s : State) : Out :=
  .next (if s.me.inFrame then s.trap .loftFault (reasonVal 0x1B 0)
    else if s.quiet s.cur then s.endPart s.cur else s.wait)

/-- BREAK (R407): with a debugger attached to the core, or to a member of its gang (log entry 14), the core halts at
RESUMEPC = tpc + 4. -/
def execBrk (s : State) : Out :=
  .next (if (s.gangOf s.cur).any fun c => (s.core c).debugger then
      (s.takeHalt s.cur 0).modMe fun k => { k with pc := k.pc + 4 }
    else s.takeTrapAt s.cur .debugHalt 1 s.me.pc)

/-- ILLEGAL_INSTRUCTION (R76, R78): `tv` holds the word, and for a prefix pair the word after it. -/
def execIllegalInstruction (tv : Word) (s : State) : Out := .next (s.trap .illegalInstruction tv)

end Sys2Proof.Machine
end

