-- ==== Sys2Proof/Config.lean ====
section
/-! DEFINITION. What a part fixes and this manual does not state: values that no proof can see.
Each is an opaque constant: a statement that holds of the model holds whatever it is (log entries 10 and 11). -/
namespace Sys2Proof.Config

/-- STEPMAJ and STEPMIN of the identity page (R427: "per part"). -/
opaque stepping : BitVec 16
/-- FWFIX, ERRSEQ and FWSVN of the identity page (R427: "per firmware"). -/
opaque firmwareWord : Word
/-- Byte `i` of the identity public key IDPK (R427: "per part"). -/
opaque idKey : Nat → Byte
/-- Byte `i` of the SHAKE256 digest of frond `f`'s running firmware image (R428). -/
opaque imageDigest : Nat → Nat → Byte
/-- Byte `i` of the SLH-DSA signature over a report whose bytes are given (R428). -/
opaque reportSignature : List Byte → Nat → Byte
/-- Byte `i` of "the signature of the 24 partitions' signatures" in a report (R428 gives neither its length nor its
form); the arguments are the 24 signatures of R421. -/
opaque partitionSignature : List Word → Nat → Byte
/-- The index in its pool of a stook that TSUSP takes, given the indexes in use (R255; log entry 63). -/
opaque poolIndex : List Nat → Nat
/-- The word that a walk, or a management controller, is given for a word whose home answers with an error (R89, R417;
log entry 19), by its flat address. -/
opaque badWord : Nat → Word

end Sys2Proof.Config
end

