-- ==== Sys2Proof/Machine/Region.lean ====
section
/-! DEFINITION. The device control region as it reads (R414), and what its words govern: readiness (R416, R417), the CXL
decode words (R431), wear and defect maps (R418, R419), signatures (R421) and the SVL map (R422, R423). -/
namespace Sys2Proof.Machine

/-! ## Readiness -/

def State.readyBit (s : State) (f i : Nat) : Bool := wbit (mapGet 0 s.ready f) i
def State.stackReady (s : State) (st : Nat) : Bool := s.readyBit (st / 2) (1 + st % 2)
def State.portReady (s : State) (p : Nat) : Bool := s.readyBit (p / 18) (4 + p % 18)
def State.partReady (s : State) (p : Nat) : Bool := s.readyBit (p / 3) (29 + p % 3)
/-- The bit of frond `f`'s readiness word that stands for its link to frond `j` (R416). -/
def rhzBit (f j : Nat) : Nat := 22 + if j < f then j else j - 1
def State.linkReady (s : State) (f j : Nat) : Bool := s.readyBit f (rhzBit f j) && s.readyBit j (rhzBit j f)

/-! ## Defect maps, wear and signatures -/

/-- The byte of the defect map: the physical core that serves a logical position, 0xFF for none (R418, R419). -/
def State.defectByte (s : State) (c : Nat) : Byte := mapGet (BitVec.ofNat 8 (c % 144)) s.defect c

/-- The wear record of core `c`'s physical core, by its place in the block of R418; none where no core serves. -/
def State.coreWearKey (s : State) (c : Nat) : Option Nat :=
  if s.defectByte c = 0xFF then none else some (160 * frondOf c + (s.defectByte c).toNat)
def stackWearKey (st : Nat) : Nat := 1536 + st
def portWearKey (p : Nat) : Nat := 1568 + p

/-- Which words of the wear block exist (R418). -/
def wearKeyValid (k : Nat) : Bool := k < 1280 || (1536 ≤ k && k < 1552) || (1568 ≤ k && k < 1712)

def State.wearOf (s : State) (k : Nat) : Wear := mapGet Wear.reset s.wear k

def Wear.word (w : Wear) : Word :=
  BitVec.ofNat 64 (w.eolh.toNat * 2 ^ 32 + w.wear.toNat * 2 ^ 24 + w.cecount.toNat)

/-- A corrected error counted, saturating (R129, R418). -/
def State.countCorrected (s : State) (k : Nat) : State :=
  let w := s.wearOf k
  { s with wear := mapSet s.wear k { w with cecount := if w.cecount = BitVec.allOnes 24 then w.cecount else w.cecount + 1 } }

/-- SUBMASK of a partition (R421). -/
def State.submask (s : State) (p : Nat) : Nat :=
  (List.range 48).foldl (fun acc i =>
    let pos := 12 * (4 * (p % 3) + i / 12) + i % 12
    if (s.defectByte (144 * (p / 3) + pos)).toNat = pos then acc else acc + 2 ^ i) 0

/-- The signature of a partition set (R421). -/
def State.signature (s : State) (parts : Nat) : Word :=
  (List.range 24).foldl (fun sig p =>
    if parts.testBit p then
      let r := 41 * p % 64
      let m := BitVec.ofNat 64 (s.submask p)
      sig ^^^ ((m <<< r) ||| (m >>> (64 - r)))
    else sig) 0

/-! ## The SVL map -/

/-- Where a byte of the SVL aperture is reached (R422, R423): its port, its remote address, the word ATOM, and the
memory behind the window's first port. -/
structure SvlRoute where
  port  : Nat
  raddr : Nat
  peer  : Bool
  atomOps : Nat
  /-- flat address of the remote byte (log entry 16) -/
  key   : Nat
deriving DecidableEq, Repr

def State.svlRoute (s : State) (pa : Nat) : Option SvlRoute :=
  let o := pa - 2 ^ 51
  let w := o / 2 ^ 43
  let w0 := mapGet 0 s.svlMap (2 * w)
  let w1 := mapGet 0 s.svlMap (2 * w + 1)
  if !wbit w0 63 then none
  else
    let nports := if fld w0 36 8 = 0 then 1 else fld w0 36 8
    let raddr := (w1.toNat + o % 2 ^ 43) % 2 ^ 64
    let peer := wbit w0 62
    some { port := (fld w0 44 8 + o / 2 ^ 6 % 2 ^ 10 % nports) % 144, raddr := raddr, peer := peer,
           atomOps := fld w0 0 28,
           key := 2 ^ 64 * (1 + 2 * fld w0 44 8 + if peer then 1 else 0) + raddr }

/-! ## The words of the region -/

def listWord (bs : List Byte) (i : Nat) : Word :=
  (List.range 8).foldr (fun j acc => (acc <<< 8) ||| (bs.getD (i + j) 0).zeroExtend 64) 0

/-- A word gathered from a byte function. -/
def wordFrom (f : Nat → Byte) (i : Nat) : Word :=
  (List.range 8).foldr (fun j acc => (acc <<< 8) ||| (f (i + j)).zeroExtend 64) 0

/-- The identity page (R427). -/
def identityWord (off : Nat) : Option Word :=
  if off = 0 then some (0x11520000#64 ||| Config.stepping.zeroExtend 64)
  else if off = 8 then some Config.firmwareWord
  else if 0x40 ≤ off ∧ off < 0x80 then some (wordFrom Config.idKey (off - 0x40))
  else none

def WorkQueue.word (q : WorkQueue) : Nat → Word
  | 0 => (q.ringBase.zeroExtend 64 <<< 8) ||| q.log2n.zeroExtend 64
  | 1 => (q.head.zeroExtend 64 <<< 32) ||| q.tail.zeroExtend 64
  | 2 => (BitVec.ofNat 64 (q.deficit % 2 ^ 16) <<< 32) ||| q.quantum.zeroExtend 64
  | _ => q.partMask.zeroExtend 64

/-- A fault record's words (R394); `seq` is its number. -/
def FaultRecord.word (f : FaultRecord) (seq : Nat) : Nat → Word
  | 0 => BitVec.ofNat 64 (f.launchid.toNat * 2 ^ 32 + f.ctx % 2 ^ 12 * 2 ^ 20 + (if f.wdrawn then 2 ^ 19 else 0) +
      f.coord % 2 ^ 11 * 2 ^ 8 + f.cause % 2 ^ 8)
  | 1 => f.tval
  | 2 => f.tpc
  | _ => BitVec.ofNat 64 seq

/-- The number of the record that lies in entry `e` of a ring. -/
def FaultRing.seqAt (r : FaultRing) (e : Nat) : Nat :=
  let last := (r.count - 1).toNat
  (last + 2 ^ 32 - (last + 2 ^ 32 - e) % 256) % 2 ^ 32

def FaultRing.entryWord (r : FaultRing) (e i : Nat) : Word :=
  match r.entries.find? fun x => x.1 = e with
  | none => 0
  | some (_, f) => f.word (r.seqAt e) i

/-- The body of an attestation report, followed by the signatures of the 24 partitions (R428). -/
def State.reportBytes (s : State) : List Byte :=
  let words := fun ws : List Word => ws.flatMap bytesOfWord
  words s.attest.signing ++ words [0x11520000#64 ||| Config.stepping.zeroExtend 64, Config.firmwareWord] ++
    (List.range 8).flatMap (fun f =>
      (List.range 32).map (Config.imageDigest f) ++ bytesOfWord (mapGet 0 s.ready f)) ++
    words ((List.range 24).map fun p => s.signature (2 ^ p))

/-- A word of the report area, at an offset from 0x10_0100 (R428). -/
def Attestation.reportWord (a : Attestation) (off : Nat) : Word :=
  if off < 368 then listWord a.report off
  else if off < 0x700 then
    wordFrom (Config.partitionSignature ((List.range 24).map fun p => listWord a.report (368 + 8 * p))) (off - 368)
  else wordFrom (Config.reportSignature a.report) (off - 0x700)

/-- The word at an aligned offset of the device control region; none where no block covers it (R414, log entry 15).
WO words read 0, and so, by the model's choice (DESIGN CHOICE, log entry 79), do the doorbell words (R347, R348) and the read
words of the fault rings (R394), to which the manual gives no access code. -/
def State.ctrlRead (s : State) (off : Nat) : Option Word :=
  if off < 0x1000 then identityWord off
  else if off < 0x1040 then some (mapGet 0 s.ready ((off - 0x1000) / 8))
  else if off < 0x1080 then some (mapGet 0 s.cxl ((off - 0x1040) / 8))
  else if off < 0x10000 then none
  else if off < 0x20000 then
    if wearKeyValid ((off - 0x10000) / 8) then some (s.wearOf ((off - 0x10000) / 8)).word else none
  else if off < 0x20800 then
    if off % 256 < 144 then some (wordFrom (fun i => s.defectByte (144 * ((off - 0x20000) / 256) + i)) (off % 256))
    else none
  else if off = 0x21000 then some 0
  else if off = 0x21008 then some (BitVec.ofNat 64 (s.subst.state + s.subst.reason * 2 ^ 8))
  else if off < 0x30000 then none
  else if off = 0x30000 ∨ off = 0x30008 then some 0
  else if off = 0x30010 then some s.invalDone
  else if off < 0x40000 then none
  else if off < 0x44000 then
    let l := mapGet ErrorLog.reset s.logs ((off - 0x40000) / 0x800)
    some ((mapGet [] l.entries (off % 0x800 / 32)).getD (off % 32 / 8) 0)
  else if off < 0x44040 then some ((mapGet ErrorLog.reset s.logs ((off - 0x44000) / 8)).count.zeroExtend 64)
  else if off < 0x100000 then none
  else if off < 0x100020 then some (s.attest.nonce.getD ((off - 0x100000) / 8) 0)
  else if off = 0x100020 then some 0
  else if off = 0x100028 then some (BitVec.ofNat 64 s.attest.status)
  else if off < 0x100100 then none
  else if off < 0x100800 + 29792 then some (s.attest.reportWord (off - 0x100100))
  else if off < 0x1000000 then none
  else if off < 0x1080000 then some 0
  else if off < 0x2000000 then none
  else if off < 0x2200000 then
    some ((mapGet WorkQueue.reset s.queues ((off - 0x2000000) / 32)).word (off % 32 / 8))
  else if off < 0x3000000 then none
  else if off < 0x3010000 then
    some ((mapGet FaultRing.reset s.rings ((off - 0x3000000) / 0x2000)).entryWord (off % 0x2000 / 32) (off % 32 / 8))
  else if off < 0x3010040 then some ((mapGet FaultRing.reset s.rings ((off - 0x3010000) / 8)).count.zeroExtend 64)
  else if off < 0x3010080 then some 0
  else if off < 0x4000000 then none
  else if off < 0x4002400 then some 0
  else if off < 0x5000000 then none
  else if off < 0x5001000 then some (mapGet 0 s.svlMap ((off - 0x5000000) / 8))
  else none

end Sys2Proof.Machine
end

