-- ==== Sys2Proof/Machine/Home.lean ====
section
/-! DEFINITION. Homes: where an address is performed (R81, R87), which accesses meet an error there (R88, R89, R97, R129,
R417), and reads and writes of the words of memory. -/
namespace Sys2Proof.Machine

inductive HomeKind where
  | scratch (c : Nat)
  | hbm (stack : Nat)
  | cxl (f : Nat)
  | control (off : Nat)
  | svl (r : SvlRoute)
  | none
deriving DecidableEq, Repr

/-- The home of a flat address (R81, R87). -/
def State.homeKind (s : State) (a : Nat) : HomeKind :=
  if a < 2 ^ 40 then .hbm (a / 2 ^ 36)
  else if 2 ^ 52 ≤ a then .scratch ((a - 2 ^ 52) / 2 ^ 19)
  else if 2 ^ 48 ≤ a ∧ a < 2 ^ 48 + 2 ^ 47 then .cxl ((a - 2 ^ 48) / 2 ^ 44)
  else if 2 ^ 49 ≤ a ∧ a < 2 ^ 49 + 2 ^ 32 then .control (a - 2 ^ 49)
  else if 2 ^ 51 ≤ a then
    match s.svlRoute a with
    | some r => .svl r
    | Option.none => .none
  else .none

/-- The frond of a home, for an access of core `c` (R81, R247). A home over SVL is reached without a Rhizome count
(R290, R304). -/
def HomeKind.frond (c : Nat) : HomeKind → Nat
  | .scratch t => frondOf t
  | .hbm st => st / 2
  | .cxl f => f
  | .control _ => 0
  | .svl _ => frondOf c
  | .none => frondOf c

/-- Whether a function answers an access at all (R88, R417, R422). -/
def State.homeAnswers (s : State) (a : Nat) : HomeKind → Bool
  | .scratch _ => true
  | .hbm st => s.stackReady st
  | .cxl f => s.readyBit f 3 && (a - 2 ^ 48) % 2 ^ 44 < fld (mapGet 0 s.cxl f) 0 45
  | .control off => (s.ctrlRead (off / 8 * 8)).isSome
  | .svl r => s.portReady r.port
  | .none => false

/-- The flat address under which the byte of a home is kept. -/
def HomeKind.key (a : Nat) : HomeKind → Nat
  | .svl r => r.key
  | _ => a

/-- The wear record that counts the corrected errors of a home (R89, R129). -/
def State.homeWear (s : State) : HomeKind → Option Nat
  | .scratch c => s.coreWearKey c
  | .hbm st => some (stackWearKey st)
  | _ => Option.none

/-- Whether every access of a word meets an uncorrectable error (R89, R129); R88: poison is reported on reads alone. -/
def State.spoilt (s : State) (a : Nat) (read : Bool) (h : HomeKind) : Bool :=
  let k := wordAddr (h.key a)
  s.eccBad.contains k || (read && s.poison.contains k && match h with | .cxl _ => true | _ => false)

/-- The word at key `k` with the writes of a list that host memory has accepted, in order (R304). -/
def overlaid (w : Word) (k : Nat) : List HostWrite → Word
  | [] => w
  | x :: r => overlaid (if x.key = k then (x.data &&& x.mask) ||| (w &&& ~~~x.mask) else w) k r

/-- The word of memory at a home. Host memory reads at a port as the writes accepted there leave it; with `latest`, as all
accepted writes leave it (R304, log entry 66). -/
def State.homeWord (s : State) (a : Nat) (latest : Bool) (h : HomeKind) : Word :=
  let k := wordAddr (h.key a)
  let w := s.mem.readWord k
  match h with
  | .svl r => if r.peer then w else overlaid w k (s.hostPending.filter fun x => latest || x.port == r.port)
  | _ => w

/-- A read of the aligned word that holds flat address `a`, with `latest` as an atomic reads it: none for an error response
(R97). -/
def State.readHomeAs (s : State) (latest : Bool) (a : Nat) : Option Word :=
  let h := s.homeKind a
  if !s.homeAnswers a h then none
  else match h with
    | .control off => s.ctrlRead (off / 8 * 8)
    | h => if s.spoilt a true h then none else some (s.homeWord a latest h)

/-- A read of the aligned word that holds flat address `a`: none for an error response (R97). -/
def State.readHome (s : State) (a : Nat) : Option Word := s.readHomeAs false a

/-- A flit received whole ends a port's run of retries (R422). -/
def State.linkGood (s : State) (p : Nat) : State := { s with svlRetry := mapErase s.svlRetry p }

/-- What a read at its home notes: the port it went through has answered (R422); a single-bit error that it met is counted,
CORRECTED_ERROR_COUNT (R129). -/
def State.noteRead (s : State) (a : Nat) : State :=
  let h := s.homeKind a
  let s := match h with
    | .svl r => s.linkGood r.port
    | _ => s
  if s.eccOne.contains (wordAddr (h.key a)) then
    match s.homeWear h with
    | some k => s.countCorrected k
    | none => s
  else s

/-- A masked write of the aligned word at key `k` of memory. -/
def State.writeMem (s : State) (k : Nat) (mask data : Word) : State := { s with mem := s.mem.writeMasked k mask data }

/-- A write at the memory of a home. Host memory accepts it at its port and makes it visible on the others later (R304). -/
def State.writeKept (s : State) (a : Nat) (mask data : Word) (h : HomeKind) : State :=
  let k := wordAddr (h.key a)
  match h with
  | .svl r => if r.peer then s.writeMem k mask data else { s with hostPending := s.hostPending ++ [⟨r.port, k, mask, data⟩] }
  | _ => s.writeMem k mask data

/-- Words that host memory has accepted, made visible on every port (R304). -/
def State.showWrites (s : State) : List HostWrite → State
  | [] => s
  | x :: r => (s.writeMem x.key x.mask x.data).showWrites r

/-- The accepted writes that a confirmation of port `p` makes visible: those of the port, and those that were accepted
before one of them at its word (R304). -/
def shownBy (p : Nat) : List HostWrite → List HostWrite
  | [] => []
  | x :: r => if x.port = p || r.any (fun y => y.port = p && y.key = x.key) then x :: shownBy p r else shownBy p r

/-- The accepted writes that a confirmation of port `p` leaves. -/
def keptBy (p : Nat) : List HostWrite → List HostWrite
  | [] => []
  | x :: r => if x.port = p || r.any (fun y => y.port = p && y.key = x.key) then keptBy p r else x :: keptBy p r

def State.showPort (s : State) (p : Nat) : State :=
  { s.showWrites (shownBy p s.hostPending) with hostPending := keptBy p s.hostPending }

/-- No read has anything to note: no word has a single-bit error, and no port a run of retries. -/
def State.nothingToNote (s : State) : Bool := s.eccOne.isEmpty && s.svlRetry.isEmpty

/-- What reads of a list of words note: the corrected errors that they met, and the ports that answered (R129, R422). -/
def State.noteReads (s : State) : List Nat → State
  | [] => s
  | a :: r => (if (s.readHome a).isSome then s.noteRead a else s).noteReads r

/-- What the reads of `n` words by a controller note, from a physical address upward (R89, R422). -/
def State.noteRange (s : State) (pa n : Nat) : State :=
  if s.nothingToNote then s else s.noteReads ((List.range n).map fun i => pa + 8 * i)

/-! ## Words that management and engines read and write at physical addresses -/

/-- The word at a physical address as a management controller reads it; a value that nothing fixes where its home answers
with an error (log entry 19). -/
def State.physWord (s : State) (pa : Nat) : Word := (s.readHome (wordAddr pa)).getD (Config.badWord (wordAddr pa))

/-- A word written at a physical address of HBM4E, which takes nothing where its home answers with an error (R97). -/
def State.setPhysWord (s : State) (pa : Nat) (w : Word) : State :=
  let h := s.homeKind pa
  if s.homeAnswers pa h && !s.spoilt pa false h then s.writeMem (wordAddr pa) (BitVec.allOnes 64) w else s

end Sys2Proof.Machine
end

