-- ==== Sys2Proof/Machine/Translate.lean ====
section
/-! DEFINITION. Addresses: the forms of R80, the scratchpad window of R82 to R85, the page walk of R90 to R92, and the
micro-TLBs, shared TLBs, miss queues and walkers of R93 to R95. -/
namespace Sys2Proof.Machine

/-! ## Address forms and the window -/

/-- R80: bits [63:56] are 0 and [55:48] is not 0xFF. -/
def addrForm (va : Word) : Bool := fld va 56 8 == 0 && fld va 48 8 != 0xFF

/-- R80: [55:48] names a form of the scratchpad window. -/
def isWindow (va : Word) : Bool := fld va 48 8 == 0xFD || fld va 48 8 == 0xFE

/-- A signed field as an integer. -/
def sfld (w : Word) (lo n : Nat) : Int :=
  let v := fld w lo n
  if v ≥ 2 ^ (n - 1) then (v : Int) - 2 ^ n else v

/-- R83: the position at signed distances from a core, wrapping at the torus. -/
def relCore (c : Nat) (df dy dx : Int) : Nat :=
  coreAt (((frondOf c : Int) + df) % 8).toNat (((yOf c : Int) + dy) % 12).toNat (((xOf c : Int) + dx) % 12).toNat

/-- R82, R83: the core that a window address names for the issuing core `c`. -/
def windowCore (c : Nat) (va : Word) : Option Nat :=
  if fld va 19 18 ≠ 0 then none
  else if fld va 48 8 = 0xFE then
    if fld va 41 4 < 12 ∧ fld va 37 4 < 12 then some (coreAt (fld va 45 3) (fld va 41 4) (fld va 37 4)) else none
  else some (relCore c (sfld va 45 3) (sfld va 41 4) (sfld va 37 4))

/-- The byte offset of a window address (R82). -/
def windowOff (va : Word) : Nat := fld va 0 19

/-- R82 to R85: the flat address of a window access of core `c`; none where it raises ACCESS_VIOLATION. -/
def windowHome (s : State) (c : Nat) (va : Word) : Option Nat :=
  match windowCore c va with
  | none => none
  | some t => if s.reaches c t then some (scratchAddr t (windowOff va)) else none

/-! ## Page tables -/

/-- The size of a page that a leaf at a level maps (R90). -/
def pageBits : Nat → Nat
  | 0 => 16
  | 1 => 21
  | 2 => 30
  | 3 => 39
  | _ => 48

/-- The index of a level (R90). -/
def tableIndex (level : Nat) (va : Word) : Nat :=
  match level with
  | 0 => fld va 16 5
  | 1 => fld va 21 9
  | 2 => fld va 30 9
  | 3 => fld va 39 9
  | _ => fld va 48 8

def pteValid (e : Word) : Bool := wbit e 0
def pteLeaf (e : Word) : Bool := wbit e 1
def pteRd (e : Word) : Bool := wbit e 2
def pteWr (e : Word) : Bool := wbit e 3
def pteEx (e : Word) : Bool := wbit e 4
def pteAttr (e : Word) : Nat := fld e 6 2
def ptePa (e : Word) : Nat := fld e 12 40 * 2 ^ 12

/-- HBM4E (R87). -/
def inHbm (pa : Nat) : Bool := pa < 2 ^ 40

/-- R92: a malformed entry at a level: a nonzero RZ field, a reserved ATTR, WR without RD, a leaf where no page size
exists or misaligned to its size, a non-leaf at level 0, or a table outside HBM4E. -/
def pteMalformed (level : Nat) (e : Word) : Bool :=
  fld e 52 12 != 0 || fld e 8 4 != 0 || wbit e 5 || pteAttr e ≥ 2 || (pteWr e && !pteRd e) ||
    (if pteLeaf e then level > 2 || ptePa e % 2 ^ pageBits level != 0
     else level == 0 || !inHbm (ptePa e))

/-- R92: what an entry read at a level leads to: the end of the walk, or the next table. -/
def walkEntry (asn : Nat) (va : Word) (level : Nat) (e : Word) : WalkEnd ⊕ Nat :=
  if !pteValid e then .inl .fault
  else if pteMalformed level e then .inl .violation
  else if pteLeaf e then .inl (.leaf { asn := asn, level := level, vpage := va.toNat / 2 ^ pageBits level, leaf := e })
  else .inr (ptePa e)

/-- R92: the walk from a table at a level downward, and the entries that it reads. An entry whose home answers with an
error ends it (R89, log entry 19). -/
def State.walkFrom (s : State) (asn : Nat) (va : Word) : Nat → Nat → WalkEnd × List Nat
  | 0, table =>
    let a := table + 8 * tableIndex 0 va
    match s.readHome a with
    | none => (.bad, [a])
    | some e =>
      match walkEntry asn va 0 e with
      | .inl x => (x, [a])
      | .inr _ => (.violation, [a])
  | level + 1, table =>
    let a := table + 8 * tableIndex (level + 1) va
    match s.readHome a with
    | none => (.bad, [a])
    | some e =>
      match walkEntry asn va (level + 1) e with
      | .inl x => (x, [a])
      | .inr t => let (x, as) := s.walkFrom asn va level t; (x, a :: as)

/-- The walk of a miss (R90, R92); a root outside HBM4E is a table outside HBM4E. -/
def State.walkRoot (s : State) (asn root : Nat) (va : Word) : WalkEnd × List Nat :=
  if inHbm root then s.walkFrom asn va 4 root else (.violation, [])

/-- The walk of core `c`'s launch for an address. -/
def State.walk (s : State) (c : Nat) (va : Word) : WalkEnd × List Nat :=
  match s.launchOf c with
  | none => (.fault, [])
  | some l => s.walkRoot l.asn l.ptroot va

/-! ## TLBs -/

def TlbEntry.maps (e : TlbEntry) (asn : Nat) (va : Word) : Bool :=
  e.asn == asn && e.vpage == va.toNat / 2 ^ pageBits e.level

def findTlb (es : List TlbEntry) (asn : Nat) (va : Word) : Option TlbEntry := es.find? fun e => e.maps asn va

/-- R91: the permission an access needs. -/
def Access.allowed (a : Access) (e : Word) : Bool :=
  match a with
  | .fetch => pteEx e
  | .read => pteRd e
  | .write => pteWr e
  | .rw => pteRd e && pteWr e

/-- The physical address (R92). -/
def TlbEntry.phys (e : TlbEntry) (va : Word) : Nat := ptePa e.leaf + va.toNat % 2 ^ pageBits e.level

/-- What a translation gives: a physical address with its ATTR, a trap, or a wait for a walk. -/
inductive Tr where
  | ok (pa : Nat) (device : Bool)
  | trap (c : Cause)
  | wait
deriving DecidableEq, Repr

def trOf (a : Access) (va : Word) : WalkEnd → Tr
  | .fault => .trap .translationFault
  | .violation | .bad => .trap .accessViolation
  | .leaf e => if a.allowed e.leaf then .ok (e.phys va) (pteAttr e.leaf = 1) else .trap .accessViolation

def State.asnOf (s : State) (c : Nat) : Nat := (s.launchOf c).elim 0 (·.asn)

def State.sharedTlb (s : State) (c : Nat) : List TlbEntry := mapGet [] s.tlbs (frondOf c)

/-- R93: an entry enters the core's micro-TLB of 64 entries, newest first (log entry 6). -/
def State.fillMicro (s : State) (c : Nat) (e : TlbEntry) : State :=
  s.modCore c fun k => { k with tlb := (e :: k.tlb).take 64 }

/-- R93: an entry enters the frond's shared TLB of 8,192 entries. -/
def State.fillShared (s : State) (c : Nat) (e : TlbEntry) : State :=
  { s with tlbs := mapSet s.tlbs (frondOf c) ((e :: s.sharedTlb c).take 8192) }

/-- A TLB hit of core `c`, with the micro-TLB filled from the shared TLB (R94). -/
def State.lookup (s : State) (c : Nat) (va : Word) : Option TlbEntry × State :=
  match findTlb (s.core c).tlb (s.asnOf c) va with
  | some e => (some e, s)
  | none =>
    match findTlb (s.sharedTlb c) (s.asnOf c) va with
    | some e => (some e, s.fillMicro c e)
    | none => (none, s)

/-! ## Misses (R95) -/

/-- The requesters of a core (R95). -/
def reqFetch : Nat := 0
def reqScalar : Nat := 1
def reqCopy (q : KField) : Nat := 2 + q.val
def reqForce : Nat := 6
def reqAmax : Nat := 7

/-- The page whose walk a miss waits for: the smallest page that holds the address, in its address space. -/
def Miss.page (m : Miss) : Nat × Nat := (m.asn, m.va.toNat / 2 ^ pageBits 0)

/-- R95: in arrival order, a miss joins the walk of its page, or takes one of the 64 walkers; `pages` are being walked. -/
def startWalks (pages : List (Nat × Nat)) : List Miss → List Miss
  | [] => []
  | m :: r =>
    if m.walking then m :: startWalks pages r
    else if pages.contains m.page then { m with walking := true } :: startWalks pages r
    else if pages.length < 64 then { m with walking := true } :: startWalks (m.page :: pages) r
    else m :: startWalks pages r

/-- The misses of a frond with their walkers given out. -/
def walkers (ms : List Miss) : List Miss := startWalks ((ms.filter (·.walking)).map Miss.page).eraseDups ms

def State.misses (s : State) (f : Nat) : List Miss := mapGet [] s.walks f

def State.setMisses (s : State) (f : Nat) (ms : List Miss) : State := { s with walks := mapSet s.walks f (walkers ms) }

/-- A requester of core `c` presents a miss, one at a time (R95). -/
def State.addMiss (s : State) (c req : Nat) (va : Word) : State :=
  let ms := s.misses (frondOf c)
  if ms.any fun m => m.core = c && m.req = req then s
  else
    let (asn, root) := (s.launchOf c).elim (0, 2 ^ 52) fun l => (l.asn, l.ptroot)
    s.setMisses (frondOf c) (ms ++ [{ core := c, req := req, asn := asn, root := root, va := va, walking := false }])

/-- The misses that `p` names are withdrawn, and the walks that worked on them for nobody else end (R96). -/
def State.withdrawMisses (s : State) (f : Nat) (p : Miss → Bool) : State :=
  let gone := (s.misses f).filter p
  let left := fun x : Nat × Nat => !gone.any fun m => m.core = x.1 && m.req = x.2
  let s := s.setMisses f ((s.misses f).filter fun m => !p m)
  { s with inval := s.inval.map fun i => { i with walks := i.walks.filter left } }

/-- R94, R95: a translation for a requester of core `c`: a TLB entry, else a miss that waits for its walk. A walk that ended
in a fault serves once, the access that waited for it. -/
def State.translateReq (s : State) (c req : Nat) (va : Word) (a : Access) : Tr × State :=
  match s.lookup c va with
  | (some e, s) => (trOf a va (.leaf e), s)
  | (none, s) =>
    match (s.core c).ends.find? (fun e => e.1 = req) with
    | some (_, w, e) =>
      let s := s.modCore c fun k => { k with ends := mapErase k.ends req }
      if w = va then (trOf a va e, s) else (.wait, s.addMiss c req va)
    | none => (.wait, s.addMiss c req va)

/-- An address of core `c` translated for a requester: its form, its window (R80 to R85), then its page. -/
def State.translateVa (s : State) (c req : Nat) (va : Word) (a : Access) : Tr × State :=
  if !addrForm va then (.trap .accessViolation, s)
  else if isWindow va then
    match windowHome s c va with
    | some h => (.ok h false, s)
    | none => (.trap .accessViolation, s)
  else s.translateReq c req va a

/-- R94, R316: the translation of an instruction fetch; a window address raises ACCESS_VIOLATION (R92). -/
def State.translateFetch (s : State) (va : Word) : Tr × State :=
  if !addrForm va || isWindow va then (.trap .accessViolation, s) else s.translateReq s.cur reqFetch va .fetch

/-- What an address translates to where a walk has not to be waited for, and the entries that are read: a TLB entry, else the
tables as they stand. Of one access this is asked: a search's look at a victim's records (R362), which presents no miss (log
entry 43). -/
def State.translateNow (s : State) (c : Nat) (va : Word) (a : Access) : Tr × List Nat :=
  if !addrForm va then (.trap .accessViolation, [])
  else if isWindow va then
    match windowHome s c va with
    | some h => (.ok h false, [])
    | none => (.trap .accessViolation, [])
  else match s.lookup c va with
    | (some e, _) => (trOf a va (.leaf e), [])
    | (none, _) => (trOf a va (s.walk c va).1, (s.walk c va).2)

/-- R425: an entry of a frond's access error log. -/
def State.logError (s : State) (c : Nat) (va pc : Word) : State :=
  let l := mapGet ErrorLog.reset s.logs (frondOf c)
  let launchid := (s.launchOf c).elim 0 (·.launchid)
  let e := [va, BitVec.ofNat 64 (fld pc 0 56), BitVec.ofNat 64 (coordOf c), launchid.zeroExtend 64 <<< 32]
  let l := { l with entries := mapSet l.entries (l.count.toNat % 64) e, count := l.count + 1 }
  { s with logs := mapSet s.logs (frondOf c) l }

/-- The end of a walk reaches a miss: a leaf enters the core's micro-TLB; any other end is kept for the access that waits,
one at an entry whose home answered with an error being logged (R98). -/
def State.missEnds (s : State) (e : WalkEnd) (m : Miss) : State :=
  match e with
  | .leaf t => s.fillMicro m.core t
  | e =>
    let s := match e with
      | .bad => s.logError m.core m.va (s.core m.core).pc
      | _ => s
    s.modCore m.core fun k => { k with ends := mapSet k.ends m.req (m.va, e) }

/-- TRANSLATION_WALK: the walk that serves a core's miss ends, for every miss that has joined it (R92, R95). A leaf enters
the frond's shared TLB; misses that wait then take the walker. -/
def State.walkDone (s : State) (c req : Nat) : State :=
  let f := frondOf c
  match (s.misses f).find? (fun m => m.core = c && m.req = req && m.walking) with
  | none => s
  | some m =>
    let (e, as) := s.walkRoot m.asn m.root m.va
    let joined := fun x : Miss => x.walking && x.page == m.page
    let served := (s.misses f).filter joined
    let s := (s.noteReads as).withdrawMisses f joined
    let s := match e with
      | .leaf t => s.fillShared c t
      | _ => s
    served.foldl (fun s x => s.missEnds e x) s

def execTranslationWalk (c : CoreNo) (req : Fin 8) (s : State) : Host.Outcome State Fault Refusal :=
  .next (s.walkDone c.val req.val)

/-- R242, R100: where an access of the issuing core goes, its form, alignment, window and translation checked in that
order; `n` is its width in bytes. -/
inductive Target where
  | at (flat : Nat) (device : Bool)
  | trap (c : Cause)
  | wait
deriving DecidableEq, Repr

def State.target (s : State) (va : Word) (n : Nat) (a : Access) : Target × State :=
  if !addrForm va then (.trap .accessViolation, s)
  else if va.toNat % n ≠ 0 then (.trap .misaligned, s)
  else if isWindow va then
    match windowHome s s.cur va with
    | some h => (.at h false, s)
    | none => (.trap .accessViolation, s)
  else match s.translateReq s.cur reqScalar va a with
    | (.ok pa d, s) => (.at pa d, s)
    | (.trap c, s) => (.trap c, s)
    | (.wait, s) => (.wait, s)

end Sys2Proof.Machine
end

