-- ==== Sys2Proof/Machine/Sched.lean ====
section
/-! DEFINITION. Work queues, the launch descriptor and its checks, dispatch, and selection with pre-emption (R347 to R357,
R432, R417, R421). -/
namespace Sys2Proof.Machine

/-! ## Words at physical addresses -/

/-- A store by a management controller at a physical address: a home that does not answer takes nothing; a word of the
control region is on its way there (log entry 23); a port that has carried one has no run of retries behind it (R422). -/
def State.physStore (s : State) (pa : Nat) (w : Word) : State :=
  match s.homeKind pa with
  | .control off => { s with records := s.records ++ [(off, w)] }
  | h =>
    if s.homeAnswers pa h && !s.spoilt pa false h then
      let s := s.writeKept pa (BitVec.allOnes 64) w h
      match h with
      | .svl r => s.linkGood r.port
      | _ => s
    else s

/-! ## The descriptor (R349, R350) -/

/-- A launch descriptor, or an image header: its words. -/
abbrev Words := List Word

def wordAt (d : Words) (i : Nat) : Word := d.getD i 0

def State.readWords (s : State) (pa n : Nat) : Words := (List.range n).map fun i => s.physWord (pa + 8 * i)

/-- The cores of a set in the CORESET layout, in ascending bit order (R350): 18 words. -/
def coresOf (ws : Words) : List Nat :=
  (List.range 1152).filterMap fun n => if wbit (wordAt ws (n / 64)) (n % 64) then some (coreOfSetBit n) else none

def coreSet (d : Words) : List Nat := coresOf (d.drop 14)

/-- The value of a field whose 0 means the image's (R349). -/
def orImage (v image : Nat) : Nat := if v = 0 then image else v

/-- A descriptor with the header of its image. -/
structure Request where
  d : Words
  h : Words
deriving DecidableEq, Repr

def Request.parts (r : Request) : Nat := fld (wordAt r.d 0) 0 24
def Request.prio (r : Request) : Nat := if wbit (wordAt r.d 0) 31 then fld (wordAt r.d 0) 24 6 else fld (wordAt r.h 1) 24 6
def Request.cores (r : Request) : List Nat := coreSet r.d
def Request.compl (r : Request) : Nat := fld (wordAt r.d 12) 5 47 * 2 ^ 5
def Request.launchid (r : Request) : Word32 := BitVec.ofNat 32 (fld (wordAt r.d 0) 32 32)
def Request.arenaSz (r : Request) : Nat :=
  if wbit (wordAt r.d 7) 63 then fld (wordAt r.d 7) 0 33 else fld (wordAt r.h 2) 0 33
def Request.nvar (r : Request) : Nat := fld (wordAt r.h 0) 32 5
def Request.sig (r : Request) (v : Nat) : Word := wordAt r.h (8 + 2 * v)
def Request.reloc (r : Request) (v : Nat) : Bool := wbit (wordAt r.h (9 + 2 * v)) 63
def Request.entry (r : Request) (v : Nat) : Word := BitVec.ofNat 64 (fld (wordAt r.h (9 + 2 * v)) 0 56)

/-- Where the group table lies; 0 when every group is empty (R349, R432). -/
def Request.gtab (r : Request) : Nat := orImage (fld (wordAt r.d 3) 0 52) (fld (wordAt r.h 3) 0 52)

/-- The words of a header that are read, by its word 0: those up to its last variant, of at most 16 (R432). -/
def headerWords (w0 : Word) : Nat := 8 + 2 * min (fld w0 32 5) 16

/-- The head descriptor of a queue, with its image's header (R348, R432). -/
def State.headRequest (s : State) (q : WorkQueue) : Request :=
  let d := s.readWords (q.ringBase.toNat * 2 ^ 8 + 256 * (q.head.toNat % 2 ^ q.log2n.toNat)) 32
  let pa := fld (wordAt d 1) 0 52
  { d := d, h := s.readWords pa (headerWords (s.physWord pa)) }

/-- The non-empty groups of a request: number and members, as positions in the core set (R350). -/
def State.groupsOf (s : State) (r : Request) : List (Nat × List Nat) :=
  if r.gtab = 0 then []
  else (List.range 256).filterMap fun g =>
    match coresOf (s.readWords (r.gtab + 144 * g) 18) with
    | [] => none
    | ms => some (g, ms)

/-! ## Dispatch checks (R351) -/

/-- RZ fields, ranges and alignments of a descriptor (R349). -/
def descriptorOk (d : Words) : Bool :=
  let w := wordAt d
  !wbit (w 0) 30 && zeroBits (w 1) 52 63 && fld (w 1) 0 52 % 64 == 0 && inHbm (fld (w 1) 0 52) &&
    zeroBits (w 2) 52 63 && zeroBits (w 3) 52 63 && fld (w 3) 0 52 % 8 == 0 &&
    zeroBits (w 4) 52 63 && zeroBits (w 4) 0 5 &&
    zeroBits (w 5) 51 63 && zeroBits (w 5) 46 47 && zeroBits (w 5) 25 31 &&
    fld (w 5) 40 6 ≤ 32 && fld (w 5) 32 8 ≤ 100 && fld (w 5) 0 25 ≤ 2 ^ 24 && fld (w 5) 48 3 < 6 &&
    zeroBits (w 6) 56 63 && fld (w 6) 0 56 % 64 == 0 &&
    zeroBits (w 7) 33 62 && fld (w 7) 0 33 % 64 == 0 && fld (w 7) 0 33 ≤ 2 ^ 32 &&
    zeroBits (w 8) 52 63 && zeroBits (w 8) 0 5 && zeroBits (w 9) 36 63 && zeroBits (w 9) 0 5 &&
    zeroBits (w 10) 56 63 && zeroBits (w 12) 52 63 && zeroBits (w 12) 0 4 && w 13 == 0

/-- RZ fields, ranges and alignments of an image header (R432, R52). -/
def headerOk (h : Words) : Bool :=
  let w := wordAt h
  let nvar := fld (w 0) 32 5
  zeroBits (w 0) 37 63 && 1 ≤ nvar && nvar ≤ 16 && zeroBits (w 0) 25 31 &&
    1 ≤ fld (w 0) 0 25 && fld (w 0) 0 25 ≤ 2 ^ 24 &&
    zeroBits (w 1) 46 63 && 1 ≤ fld (w 1) 40 6 && fld (w 1) 40 6 ≤ 32 &&
    1 ≤ fld (w 1) 32 8 && fld (w 1) 32 8 ≤ 100 && zeroBits (w 1) 30 31 && zeroBits (w 1) 0 23 &&
    zeroBits (w 2) 33 63 && fld (w 2) 0 33 % 64 == 0 && fld (w 2) 0 33 ≤ 2 ^ 32 &&
    zeroBits (w 3) 52 63 && fld (w 3) 0 52 % 8 == 0 && w 4 == 0 && w 5 == 0 && w 6 == 0 && w 7 == 0 &&
    (List.range nvar).all fun v =>
      zeroBits (w (9 + 2 * v)) 56 62 && fld (w (9 + 2 * v)) 0 56 % 4 == 0

/-- The partitions that a set of cores touches. -/
def partsOfCores (cs : List Nat) : Nat := cs.foldl (fun acc c => acc ||| 2 ^ partOf c) 0

/-- Whether one bit set lies within another. -/
def subset (a b : Nat) : Bool := a &&& b == a

/-- How many of some groups have a member on frond `f` (R329). -/
def groupsOn (gs : List (Nat × List Nat)) (f : Nat) : Nat := gs.countP fun g => g.2.any fun c => frondOf c == f

/-- R351: the variant of a request, or the STATUS that refuses it. -/
def State.checkRequest (s : State) (q : WorkQueue) (r : Request) : Nat ⊕ Nat :=
  let cores := r.cores
  let gs := s.groupsOf r
  if !descriptorOk r.d || !headerOk r.h || r.parts = 0 || !subset r.parts q.partMask.toNat || cores.isEmpty ||
      !subset (partsOfCores cores) r.parts || gs.any (fun g => g.2.any fun c => !cores.contains c) ||
      cores.any (fun c => 4 < gs.countP fun g => g.2.contains c) then .inl 0x03
  else if (List.range 8).any fun f => 32 < groupsOn gs f then .inl 0x04
  else
    let vs := List.range r.nvar
    match vs.find? fun v => !r.reloc v && r.sig v == s.signature r.parts with
    | some v => .inr v
    | none => match vs.find? r.reloc with
      | some v => .inr v
      | none => .inl 0x02

/-! ## Completion records (R352) -/

def State.writeCompletion (s : State) (pa : Nat) (launchid : Word32) (status variant : Nat) (n : Option FaultNote) :
    State :=
  let w0 := BitVec.ofNat 64 (launchid.toNat * 2 ^ 32 + status % 2 ^ 8 * 2 ^ 8 + 2 ^ 7 + variant % 2 ^ 4)
  let (w1, w2, w3) := match n with
    | none => (0, 0, 0)
    | some f => (BitVec.ofNat 64 (f.coord % 2 ^ 11 * 2 ^ 8 + f.cause % 2 ^ 8), f.tval, f.tpc)
  (((s.physStore (pa + 8) w1).physStore (pa + 16) w2).physStore (pa + 24) w3).physStore pa w0

/-! ## Holding partitions and channels -/

/-- The partitions that no candidate may take (R355). -/
def State.heldParts (s : State) : Nat :=
  s.launches.foldl (fun acc l => if l.state = .parked then acc else acc ||| l.parts) 0

/-- The groups of a launch as positions. -/
def Launch.groupCores (l : Launch) : List (Nat × List Nat) := mapValues (fun g => g.members.map l.coreOf) l.groups

/-- R329: whether enough channels are free on every frond; a parked launch holds none (log entry 17). -/
def State.channelsFree (s : State) (gs : List (Nat × List Nat)) : Bool :=
  (List.range 8).all fun f =>
    groupsOn gs f + (s.launches.map fun l => if l.state = .parked then 0 else groupsOn l.groupCores f).sum ≤ 32

/-- R417: the links between the fronds of a set of partitions are up. -/
def State.linksReady (s : State) (ps : List Nat) : Bool :=
  ps.all fun p => ps.all fun p' => p / 3 == p' / 3 || s.linkReady (p / 3) (p' / 3)

/-- R417: the partitions of a request are ready, and the links between its fronds. -/
def State.partsReady (s : State) (parts : Nat) : Bool :=
  let ps := (List.range 24).filter parts.testBit
  ps.all s.partReady && s.linksReady ps

/-! ## Dispatch (R353, R174, R368) -/

def Group.start (members : List Nat) : Group :=
  { members := members, mode := .unset, known := [], phase := 0, arrived := [], roles := [], s := [], w := [],
    signalled := false, gone := [], queue := [] }

/-- A core at a launch's first instruction (R174, R354, R362, R368). -/
def Core.start (old : Core) (c key ctx : Nat) (entry args srkey : Word) (arenaSz : Nat) : Core :=
  { Core.reset with
    run := .running, launch := some key, ctx := ctx, pc := entry, srkey := srkey, lstat := args,
    lfsr := BitVec.ofNat 16 (0x8000 + coordOf c), sp := arenaSz, headerDue := arenaSz ≠ 0, tlb := old.tlb }

/-- Positions of a launch's contexts. -/
def contextOf (cores : List Nat) (c : Nat) : Nat := cores.findIdx (· == c)

/-- LAUNCH_DISPATCH (R353): the launch of a request that passed its check, on the partitions it names. Each core writes its
arena header before its first instruction (R368). -/
def State.dispatch (s : State) (r : Request) (v : Nat) : State :=
  let cores := r.cores
  let key := s.nextId
  let gs := s.groupsOf r
  let d := r.d
  let l : Launch :=
    { key := key, state := .running, launchid := r.launchid, prio := r.prio, parts := r.parts, cores := cores,
      variant := v, reloc := r.reloc v, entry := r.entry v,
      ptroot := fld (wordAt d 2) 12 40 * 2 ^ 12, asn := fld (wordAt d 2) 0 12,
      poolN := orImage (fld (wordAt d 5) 0 25) (fld (wordAt r.h 0) 0 25), pool := 0,
      hwPct := orImage (fld (wordAt d 5) 32 8) (fld (wordAt r.h 1) 32 8),
      dlim := orImage (fld (wordAt d 5) 40 6) (fld (wordAt r.h 1) 40 6),
      gorder := fld (wordAt d 5) 48 3, arenaBase := BitVec.ofNat 64 (fld (wordAt d 6) 0 56), arenaSz := r.arenaSz,
      ctxBase := fld (wordAt d 8) 0 52, flagOff := fld (wordAt d 9) 0 36,
      args := BitVec.ofNat 64 (fld (wordAt d 10) 0 56), srkey := wordAt d 11, compl := r.compl,
      groups := gs.map fun g => (g.1, Group.start (g.2.map (contextOf cores))),
      status := 0, note := none, saved := [], savedLoft := [], phys := [] }
  let s := { s with launches := s.launches ++ [l], nextId := s.nextId + 1 }
  cores.foldl (fun s c =>
    let k := Core.start (s.core c) c key (contextOf cores c) l.entry l.args l.srkey l.arenaSz
    let k := { k with groups := (gs.filter fun g => g.2.contains c).map fun g => (g.1, Member.reset) }
    { s.setCore c k with mem := s.mem.clearRange (weightAddr c 0) (2 ^ 17) }) s

/-! ## Resumption and pre-emption (R357) -/

/-- R357, R420: a position of a parked launch lies on a retired frond, or is served by another physical core than when the
launch parked. -/
def State.moved (s : State) (l : Launch) : Bool :=
  l.cores.any (fun c => s.retired.contains (frondOf c)) || l.phys != l.cores.map fun c => (s.defectByte c).toNat

/-- R357: the partitions that a parked launch takes to resume, as pairs of old and new; none while there are too few. A free
partition that is held for a waiting candidate of higher priority may be taken: it is free in R355's sense (DEDUCED, log
entry 87). -/
def State.placementOf (s : State) (l : Launch) : Option (List (Nat × Nat)) :=
  let held := s.heldParts
  let usable := fun p => !held.testBit p && s.partReady p
  let own := (List.range 24).filter l.parts.testBit
  if own.all usable then some (own.map fun p => (p, p))
  else if !l.reloc then none
  else
    let kept := own.filter usable
    let others := (List.range 24).filter fun p => usable p && !l.parts.testBit p
    let need := own.filter fun p => !usable p
    if others.length < need.length then none else some (kept.map (fun p => (p, p)) ++ need.zip others)

/-- R357, R417: the partitions on which a parked launch resumes, with the links between their fronds up; none while it
cannot. -/
def State.placement (s : State) (l : Launch) : Option (List (Nat × Nat)) :=
  (s.placementOf l).filter fun m => s.linksReady (m.map (·.2))

/-- A core of a moved partition keeps x and y mod 4 (R357). -/
def moveCore (m : List (Nat × Nat)) (c : Nat) : Nat :=
  match m.find? fun e => e.1 = partOf c with
  | none => c
  | some (_, p) => coreAt (p / 3) (4 * (p % 3) + yOf c % 4) (xOf c)

/-- The coordinates of an absolute name follow a moved core. -/
def moveName (m : List (Nat × Nat)) (n : Word) : Word :=
  if wbit n 23 then n
  else
    let c := moveCore m (coreAt (fld n 20 3) (fld n 16 4) (fld n 12 4))
    (n &&& ~~~(onesAt 12 11)) ||| BitVec.ofNat 64 (frondOf c * 2 ^ 20 + yOf c * 2 ^ 16 + xOf c * 2 ^ 12)

def Goal.move (m : List (Nat × Nat)) : Goal → Goal
  | .none => .none
  | .ask c n w r => .ask (moveCore m c) n (moveName m w) r
  | .asleep c n w r => .asleep (moveCore m c) n (moveName m w) r
  | .woken c n w r v => .woken (moveCore m c) n (moveName m w) r v

def Tile.move (m : List (Nat × Nat)) (t : Tile) : Tile := { t with core := moveCore m t.core }

def MmaOp.move (m : List (Nat × Nat)) (o : MmaOp) : MmaOp := { o with tile := o.tile.move m }

def CopyItem.move (m : List (Nat × Nat)) : CopyItem → CopyItem
  | .copy o r => .copy { o with follow := o.follow.map (MmaOp.move m), frame := o.frame.map fun f => (moveCore m f.1, f.2) } r
  | .join k => .join k

def MatItem.move (m : List (Nat × Nat)) : MatItem → MatItem
  | .mma id o => .mma id (o.move m)
  | .mdrain id o => .mdrain id { o with tile := o.tile.move m }
  | x => x

/-- What a saved context holds of its launch's positions follows them: the tiles on its force stack, and those of its
matrix operations and follow-ons (R357, R272, log entry 29). -/
def Core.move (m : List (Nat × Nat)) (k : Core) : Core :=
  let entry := fun e : ForceEntry => { e with core := moveCore m e.core, name := moveName m e.name }
  { k with
    force := { k.force with stack := k.force.stack.map entry, goal := k.force.goal.move m },
    queues := k.queues.map fun q => q.map (CopyItem.move m), mqueue := k.mqueue.map (MatItem.move m) }

/-- A parked launch that is selected takes its partitions; LAUNCH_RESUME loads its contexts. -/
def State.startResume (s : State) (l : Launch) (m : List (Nat × Nat)) : State :=
  let s := s.setLaunch
    { l with state := .resuming, parts := m.foldl (fun acc e => acc ||| 2 ^ e.2) 0, cores := l.cores.map (moveCore m),
             saved := mapValues (Core.move m) l.saved }
  { s with resumeList := s.resumeList.filter (· ≠ l.key) }

/-- PREEMPT_SIGNAL (R357): every context of a running launch is to stop; one parked on a recoverable fault is withdrawn
(R401). -/
def State.preemptLaunch (s : State) (l : Launch) : State :=
  if l.state ≠ .running then s
  else
    let s := s.setLaunch { l with state := .preempting }
    l.cores.foldl (fun s c =>
      match (s.core c).run with
      | .running => s.modCore c fun k => { k with preemptReq := true }
      | .parked => s.withdraw c
      | _ => s) s

/-- A parked launch ends without resuming: STATUS 0x05 (R352, R357). -/
def State.endParked (s : State) (l : Launch) : State :=
  let s := s.writeCompletion l.compl l.launchid 0x05 l.variant none
  { s with launches := s.launches.filter (·.key ≠ l.key), resumeList := s.resumeList.filter (· ≠ l.key) }

/-! ## Selection (R355, R356) -/

/-- A run of selection: the partitions held for a waiting candidate, and whether a queue is to be visited again. -/
structure Sel where
  s : State
  blocked : Nat
  again : Bool

/-- A candidate that cannot start: the launches in its way are pre-empted where all have a lower priority, and its
partitions are blocked (R355). -/
def Sel.stand (x : Sel) (parts p : Nat) : Sel :=
  let v := x.s.launches.filter fun l => l.state ≠ .parked && l.state ≠ .ending && l.parts &&& parts ≠ 0
  let s := if v.all fun l => l.prio < p then v.foldl State.preemptLaunch x.s else x.s
  { x with s := s, blocked := x.blocked ||| parts }

def State.queue (s : State) (q : Nat) : WorkQueue := mapGet WorkQueue.reset s.queues q
def State.setQueue (s : State) (q : Nat) (w : WorkQueue) : State := { s with queues := mapSet s.queues q w }

/-- N of R347: 0 for a disabled queue. -/
def WorkQueue.size (w : WorkQueue) : Nat := if w.log2n = 0 ∨ 16 < w.log2n.toNat then 0 else 2 ^ w.log2n.toNat

/-- What the reads of a head's check note: the descriptor, the words of the header that are read, and the group table (R89). -/
def State.noteRequest (s : State) (w : WorkQueue) (r : Request) : State :=
  let s := s.noteRange (w.ringBase.toNat * 2 ^ 8 + 256 * (w.head.toNat % 2 ^ w.log2n.toNat)) 32
  let s := s.noteRange (fld (wordAt r.d 1) 0 52) r.h.length
  if r.gtab = 0 then s else s.noteRange r.gtab (256 * 18)

/-- The check of a queue's head: a refused descriptor is reported and consumed, and the next is to be checked (R351). -/
def State.settleHead (s : State) (q : Nat) : State × Bool :=
  let w := s.queue q
  if w.head = w.tail then (s.setQueue q { w with deficit := 0, chosen := none }, false)
  else if w.size = 0 ∨ w.chosen.isSome then (s, false)
  else
    let r := s.headRequest w
    match s.checkRequest w r with
    | .inr v => ((s.noteRequest w r).setQueue q { w with chosen := some v }, false)
    | .inl status => (((s.noteRequest w r).writeCompletion r.compl r.launchid status 0 none).setQueue q { w with head := w.head + 1 }, true)

/-- The checks of the descriptors that reach a queue's head, up to one that stands (R351). -/
def State.settle (s : State) (q : Nat) : Nat → State
  | 0 => s
  | fuel + 1 => if (s.settleHead q).2 then (s.settleHead q).1.settle q fuel else (s.settleHead q).1

/-- A queue's candidate (R355, R417). -/
def State.candidate (s : State) (q : Nat) : Option (Request × Nat) :=
  let w := s.queue q
  if w.size = 0 ∨ w.head = w.tail then none
  else match w.chosen with
    | none => none
    | some v => let r := s.headRequest w; if s.partsReady r.parts then some (r, v) else none

/-- A visit of queue `q` at priority `p` (R356). A queue whose head is skipped for a blocked partition, as one that has been
considered is, adds no QUANTUM (DESIGN CHOICE, log entry 85). -/
def Sel.visit (p : Nat) (x : Sel) (q : Nat) : Sel :=
  match x.s.candidate q with
  | none => x
  | some (r, v) =>
    if r.prio ≠ p ∨ r.parts &&& x.blocked ≠ 0 then x
    else
      let w := x.s.queue q
      let quantum := if w.quantum = 0 then 1 else w.quantum.toNat
      let w := { w with deficit := min (w.deficit + quantum) 2304 }
      let n := r.cores.length
      if w.deficit < n then { x with s := x.s.setQueue q w, again := true }
      else if r.parts &&& x.s.heldParts = 0 ∧ x.s.channelsFree (x.s.groupsOf r) then
        let s := (x.s.dispatch r v).setQueue q { w with deficit := w.deficit - n, head := w.head + 1, chosen := none }
        { x with s := { s with served := mapSet s.served p q }.settle q 65537, again := true }
      else ({ x with s := x.s.setQueue q w }).stand r.parts p

/-- The queues of a priority in service order: cyclically after the queue last served there (R356). -/
def State.serviceOrder (s : State) (p : Nat) : List Nat :=
  let qs := s.queues.map (·.1)
  match s.served.find? fun e => e.1 = p with
  | none => qs
  | some (_, q) => qs.filter (q < ·) ++ qs.filter (· ≤ q)

/-- Visits are repeated while a head falls short only of its deficit (R356). -/
def Sel.visits (p : Nat) (qs : List Nat) : Nat → Sel → Sel
  | 0, x => x
  | fuel + 1, x =>
    let x := qs.foldl (Sel.visit p) { x with again := false }
    if x.again then Sel.visits p qs fuel x else x

/-- A parked launch considered (R355, R357). One that ends with STATUS 0x05 does so when it is considered with none of its
partitions blocked, whether they are free or not (DESIGN CHOICE, log entry 86). -/
def Sel.consider (p : Nat) (x : Sel) (key : Nat) : Sel :=
  match x.s.launch? key with
  | none => x
  | some l =>
    if l.prio ≠ p ∨ l.parts &&& x.blocked ≠ 0 then x
    else if !l.reloc && x.s.moved l then { x with s := x.s.endParked l }
    else match x.s.placement l with
      | some m =>
        if x.s.channelsFree ({ l with cores := l.cores.map (moveCore m) }).groupCores then
          { x with s := x.s.startResume l m }
        else x.stand l.parts p
      | none => x.stand l.parts p

/-- One priority: the resume list first, then the queues (R356). -/
def Sel.priority (x : Sel) (p : Nat) : Sel :=
  let x := x.s.resumeList.foldl (Sel.consider p) x
  Sel.visits p (x.s.serviceOrder p) 30000 x

/-- SELECTION (R355): the priorities from 63 down. -/
def State.select (s : State) : State :=
  let s := (s.queues.map (·.1)).foldl (fun s q => s.settle q 65537) s
  ((List.range 64).reverse.foldl Sel.priority { s := s, blocked := 0, again := false }).s

/-- DOORBELL (R348): a value out of range is ignored. -/
def State.doorbell (s : State) (q : Nat) (v : Word32) : State :=
  let w := s.queue q
  if w.size < (v - w.head).toNat then s
  else (s.setQueue q { w with tail := v }).select

end Sys2Proof.Machine
end

