-- ==== Sys2Proof/Machine/Context.lean ====
section
/-! DEFINITION. The context area (R402 to R406), what a context drains before a save (R399), parking and resumption (R398,
R133, R166, R238, R272), and the end of a launch (R353). -/
namespace Sys2Proof.Machine

/-! ## Blocks -/

/-- The block of a context (R402). -/
def Launch.block (l : Launch) (ctx : Nat) : Nat := l.ctxBase + ctx * 2 ^ 21

/-- Words stored one after another in HBM4E. -/
def State.putWords (s : State) (a : Nat) : Words → State
  | [] => s
  | w :: r => (s.setPhysWord a w).putWords (a + 8) r

/-- A word of a range of `n` bytes from `a` upward is listed. -/
def listsIn (ks : List Nat) (a n : Nat) : Bool := ks.any fun k => a ≤ k && k < a + n

/-- Every word of a range answers with no error: it lies in a core's banks or weight buffer, or in stacks that are ready. -/
def State.plainRange (s : State) (a n : Nat) : Bool :=
  (decide (2 ^ 52 ≤ a) || (decide (a + n ≤ 2 ^ 40) && s.stackReady (a / 2 ^ 36) && s.stackReady ((a + n - 1) / 2 ^ 36))) &&
    !listsIn s.eccBad a n

/-- One word of an image moved: a word whose home answers with an error gives a value that nothing fixes, or takes nothing
(R89, R417, log entry 19). -/
def State.moveWord (s : State) (dst src : Nat) : State :=
  let w := s.physWord src
  (s.noteReads [src]).setPhysWord dst w

def State.moveWords (s : State) (dst src : Nat) : Nat → State
  | 0 => s
  | n + 1 => (s.moveWord dst src).moveWords (dst + 8) (src + 8) n

/-- A range of `n` bytes copied, word by word where a word of it may meet an error. -/
def State.copyBytes (s : State) (dst src n : Nat) : State :=
  if s.plainRange src n && s.plainRange dst n && !listsIn s.eccOne src n then { s with mem := s.mem.copyRange dst src n }
  else s.moveWords dst src (n / 8)

def State.zeroWords (s : State) (a : Nat) : Nat → State
  | 0 => s
  | n + 1 => (s.setPhysWord a 0).zeroWords (a + 8) n

/-- A range of `n` bytes written 0. -/
def State.zeroBytes (s : State) (a n : Nat) : State :=
  if s.plainRange a n then { s with mem := s.mem.clearRange a n } else s.zeroWords a (n / 8)

/-- Two 32-bit values in one word, the first low. -/
def pairWord (lo hi : Word32) : Word := hi ++ lo

/-- The CSR slots of R403, in order. -/
def contextCsrs : List Csr :=
  [.fcsr, .jord, .jfl, .acfg 0, .acfg 1, .acfg 2, .acfg 3, .vstat, .gidx, .coord, .nroute, .srkey, .tcause, .tval,
   .tpc, .lstat]

/-- The header of a block (R404). -/
def Core.header (k : Core) (c state : Nat) : Words :=
  [BitVec.ofNat 64 (state * 2 ^ 12 + k.gidx.toNat), BitVec.ofNat 64 (fld k.resumePc 0 56), BitVec.ofNat 64 (coordOf c),
   if k.force.root.isSome then 1 else 0, 0, 0, 0, 0]

/-- The register part of a block, but the internal bytes 0x318 to 0x3FF (R403): words from offset 0. -/
def Core.registerWords (k : Core) (c state : Nat) : Words :=
  k.header c state ++ (List.finRange 64).map k.gr ++ [k.gfull ||| 1, k.vfull] ++
    (List.range 4).map (fun i => pairWord (k.mr ⟨2 * i % 8, Nat.mod_lt _ (by decide)⟩)
      (k.mr ⟨(2 * i + 1) % 8, Nat.mod_lt _ (by decide)⟩)) ++ [0, 0] ++
    contextCsrs.map (k.csrValue c) ++ [BitVec.ofNat 64 k.ctop, BitVec.ofNat 64 k.sp, k.lfsr.zeroExtend 64]

/-- v0 to v63, lane 0 first (R403). -/
def Core.vectorWords (k : Core) : Words :=
  (List.finRange 64).flatMap fun r => (List.range 16).map fun i =>
    let x := (k.vr r).toList
    pairWord (x.getD (2 * i) 0) (x.getD (2 * i + 1) 0)

/-! ### Accumulators (R406) -/

def Accumulator.rows (a : Accumulator) : Nat := fld a.cfg 0 6 + 1
def Accumulator.cols (a : Accumulator) : Nat := fld a.cfg 6 6 + 1
def Accumulator.configured (a : Accumulator) : Bool := wbit a.cfg 17
def Accumulator.dirty (a : Accumulator) : Bool := wbit a.cfg 18

/-- Element (r, c) of a bank. -/
def Bank.at (b : Bank) (r c : Nat) : BitVec 40 := mapGet 0 b (64 * r + c)

/-- A bank with element (r, c) set; elements equal to +0 are not listed. -/
def Bank.put (b : Bank) (r c : Nat) (x : BitVec 40) : Bank :=
  if x = 0 then mapErase b (64 * r + c) else mapSet b (64 * r + c) x

def Accumulator.bankWords (a : Accumulator) (b : Bank) : Words :=
  (List.range a.rows).flatMap fun r => (List.range a.cols).map fun c => (b.at r c).zeroExtend 64

/-- The elements of a dirty accumulator: the working bank, then the visible bank. -/
def Accumulator.words (a : Accumulator) : Words :=
  if a.configured && a.dirty then a.bankWords a.work ++ a.bankWords a.vis else []

def bankFrom (rows cols : Nat) (ws : Words) : Bank :=
  (List.range rows).foldl (fun b r =>
    (List.range cols).foldl (fun b c => b.put r c ((wordAt ws (cols * r + c)).setWidth 40)) b) []

/-- An accumulator restored from the slots of its block. -/
def Accumulator.load (a : Accumulator) (s : State) (pa : Nat) : Accumulator :=
  if a.configured && a.dirty then
    let n := a.rows * a.cols
    { a with work := bankFrom a.rows a.cols (s.readWords pa n),
             vis := bankFrom a.rows a.cols (s.readWords (pa + 8 * n) n) }
  else { a with work := [], vis := [] }

/-! ### Saving and loading -/

def accOffset (n : Nat) : Nat := 0x20000 + 0x10000 * n

/-- The register part and the accumulators of core `c`'s context, with a STATE of R404 (R403, R406, R408). -/
def State.saveRegisters (s : State) (c state : Nat) : State :=
  match s.launchOf c with
  | none => s
  | some l =>
    let k := s.core c
    let b := l.block k.ctx
    let s := (s.putWords b (k.registerWords c state)).putWords (b + 0x400) k.vectorWords
    (List.finRange 4).foldl (fun s (n : Fin 4) => s.putWords (b + accOffset n.val) (k.acc.get n).words) s

/-- The rest of the block: the scratchpad image, the weight buffer and the ranges that hold zero (R403). -/
def State.saveRest (s : State) (c : Nat) : State :=
  match s.launchOf c with
  | none => s
  | some l =>
    let b := l.block (s.core c).ctx
    ((((s.copyBytes (b + 0x80000) (scratchAddr c 0) (2 ^ 19)).copyBytes (b + 0x100000) (weightAddr c 0) (2 ^ 17)).zeroBytes
      (b + 0x18800) 0x7800).zeroBytes (b + 0x120000) 0xE0000)

/-- R405: the registers of a saved context as its block holds them: the g, v and mask registers with their full bits,
CTOP, SP, and the CSR slots that a program may write. -/
def Core.loadRegisters (k : Core) (s : State) (b : Nat) : Core :=
  let w := fun off => s.physWord (b + off)
  let half := fun off => if off % 8 = 0 then (w off).setWidth 32 else (w (off - 4)).extractLsb' 32 32
  { k with
    g := Vector.ofFn fun r => if r.val = 0 then 0 else w (0x40 + 8 * r.val)
    gfull := w 0x240 ||| 1
    v := Vector.ofFn fun r => Vector.ofFn fun i => half (0x400 + 128 * r.val + 4 * i.val)
    vfull := w 0x248
    m := Vector.ofFn fun r => if r.val = 0 then 0 else half (0x250 + 4 * r.val)
    fcsr := w 0x280 &&& 0x1F7
    jord := (w 0x288).setWidth 3
    jfl := (w 0x290).setWidth 40
    vstat := (w 0x2B8).setWidth 3
    nroute := (w 0x2D0).setWidth 16 &&& 0xFF03
    srkey := w 0x2D8
    ctop := fld (w 0x300) 0 33
    sp := fld (w 0x308) 0 33
    acc := Vector.ofFn fun n : Fin 4 => (k.acc.get n).load s (b + accOffset n.val) }

/-! ## Draining (R399) -/

/-- A copy that has started. -/
def CopyItem.active : CopyItem → Bool
  | .copy _ r => r.phase != .waiting
  | .join _ => false

/-- A copy that a translation fault stopped unstarted (R162). -/
def CopyItem.stopped : CopyItem → Bool
  | .copy _ r => r.faulted
  | .join _ => false

def MatItem.isJoin : MatItem → Bool
  | .join _ => true
  | _ => false

/-- The operations that an entry of a copy queue stands for or waits for. -/
def CopyItem.ids : CopyItem → List Nat
  | .copy o _ => [o.id]
  | .join m => m.deps

def CopyItem.isOne (ids : List Nat) : CopyItem → Bool
  | .copy o _ => ids.contains o.id
  | .join _ => false

/-- What the copies `ids` of a queue need: themselves, and what stands ahead of them (R149, R164). -/
def aheadOf (ids : List Nat) (q : List CopyItem) : List Nat :=
  (q.reverse.dropWhile fun i => !i.isOne ids).flatMap CopyItem.ids

/-- The operations that must complete before the operations `ids` of core `k` can: at most 64 copies are queued. -/
def Core.needed (k : Core) : Nat → List Nat → List Nat
  | 0, ids => ids
  | n + 1, ids => k.needed n (ids ++ k.queues.toList.flatMap (aheadOf ids)).eraseDups

/-- The operations that the matrix operations of a queue wait for: those of the joins ahead of the last of them. -/
def matrixNeeds (q : List MatItem) : List Nat :=
  (q.reverse.dropWhile MatItem.isJoin).flatMap fun
    | .join m => m.deps
    | _ => []

/-- A copy of `ids` that a translation fault stopped (R162). -/
def Core.stoppedAmong (k : Core) (ids : List Nat) : Bool :=
  k.queues.toList.any fun q => q.any fun i => i.isOne ids && i.stopped

/-- The matrix queue has drained: it holds no operation, or none that does not wait for a copy that R162 stopped, with which
it is saved (log entry 29). -/
def Core.matrixDrained (k : Core) : Bool :=
  match k.mqueue with
  | .join m :: r => r.all MatItem.isJoin || k.stoppedAmong (k.needed 64 m.deps)
  | q => q.isEmpty

/-- R166, R399: a copy that has to start in a drain, since a matrix operation waits for it (log entry 28). -/
def Core.neededCopy (k : Core) (id : Nat) : Bool := (k.needed 64 (matrixNeeds k.mqueue)).contains id

/-- The accesses of an evaluation have been handed to the engines, and it has still to take their end (R272). -/
def ForceUnit.accessing (u : ForceUnit) : Bool :=
  !u.absorbing && match u.stack with
    | e :: _ => match e.phase with
      | .reading _ | .writing => true
      | _ => false
    | [] => false

/-- R399, R392: nothing that must be complete before core `c`'s save is outstanding. A context parked on a recoverable
fault does not drain the faulting access, which has not been sent. -/
def State.drained (s : State) (c : Nat) : Bool :=
  let k := s.core c
  s.net.all (fun p => p.src != c) && k.queues.toList.all (fun q => !q.any CopyItem.active) && k.matrixDrained &&
    !k.force.accessing && k.pending.isEmpty

/-- The STATE that a save records (R404). -/
def RunState.saveCode : RunState → Nat
  | .parked => 2
  | .ended => 3
  | .stopped => 4
  | .faulted => 5
  | .halted => 6
  | _ => 1

/-- Whether a context has stopped issuing. -/
def RunState.stoppedIssue : RunState → Bool
  | .idle | .running => false
  | _ => true

/-- R272: a context pre-empted in a wait on a tile leaves the waiter list; the attempt is made again. -/
def Goal.withdraw : Goal → Goal
  | .asleep c n w r => .ask c n w r
  | .woken c n w r _ => .ask c n w r
  | g => g

/-- R340: a wait at a group's count is asked again. -/
def Member.withdraw (m : Member) : Member := { m with asked := false }

/-- What a save withdraws (R320, R340, R365, R272, R94). -/
def Core.withdrawWaits (k : Core) : Core :=
  let k := k.withdrawGlean
  { k with gangWait := none, force := { k.force with goal := k.force.goal.withdraw },
           groups := mapValues Member.withdraw k.groups, ends := [], holdAtom := [], holdFence := [], stall := false, preemptReq := false }

/-- The misses of core `c` are withdrawn. -/
def State.leaveWalks (s : State) (c : Nat) : State := s.withdrawMisses (frondOf c) fun m => m.core = c

/-- A context leaves every waiter list of its launch (R272). -/
def State.leaveWaiters (s : State) (l : Launch) (ctx : Nat) : State :=
  { s with loft := s.loft.map fun e =>
      if l.holds (e.1 / 4096) then (e.1, { e.2 with waiters := e.2.waiters.filter (· ≠ ctx) }) else e }

def LoftEntry.free (e : LoftEntry) : LoftEntry :=
  { e with state := .free, gen := e.gen + 1, stook := none, owner := 0, ownerDepth := 0, waiters := [] }

/-- A demanded tile: SUSPENDED or BLACKHOLE. -/
def LoftEntry.demanded (e : LoftEntry) : Bool := e.state == .suspended || e.state == .blackhole

/-- R133, R272: the SUSPENDED and BLACKHOLE entries of a launch's cores become FREE. -/
def State.freeDemanded (s : State) (cores : List Nat) : State :=
  { s with loft := s.loft.map fun e =>
      if cores.contains (e.1 / 4096) && e.2.demanded then (e.1, e.2.free) else e }

/-! ## Parking (R398) -/

/-- R398: PREEMPT in the trap CSRs of a context that stops; one that has ended, or raised the fatal cause, keeps its own. -/
def Core.notePreempt (k : Core) : Core :=
  match k.run with
  | .ended | .faulted => k
  | _ => k.noteTrap Cause.preempt.code 0 k.resumePc

/-- R401: the record of a context that is parked on a recoverable fault when it is saved is withdrawn. -/
def State.withdrawParked (s : State) (c : Nat) : State :=
  if (s.core c).run = .parked ∧ !(s.core c).withdrawn then s.withdraw c else s

/-- One context saved: its block, and what its internal regions hold. A halted context's register part was saved when
it halted (R408). -/
def State.saveContext (s : State) (l : Launch) (c : Nat) : State :=
  let s := ((s.leaveWaiters l (s.core c).ctx).leaveWalks c).withdrawParked c
  let s := s.modCore c fun k => k.withdrawWaits.notePreempt
  let run := (s.core c).run
  let s := if run = .halted then s else s.saveRegisters c run.saveCode
  s.saveRest c

/-- The entries of a core's loft, keyed for a context. -/
def State.loftOf (s : State) (c ctx : Nat) : SMap LoftEntry :=
  s.loft.filterMap fun e => if e.1 / 4096 = c then some (4096 * ctx + e.1 % 4096, e.2) else none

/-- The entries of `c`'s loft replaced. -/
def State.setLoft (s : State) (c : Nat) (es : List (Nat × LoftEntry)) : State :=
  let others := s.loft.filter fun e => e.1 / 4096 ≠ c
  { s with loft := es.foldl (fun m e => mapSet m (4096 * c + e.1 % 4096) e.2) others }

/-- The launch parks: contexts kept, cores freed, demanded entries freed in the cores, and the resume list extended. -/
def State.park (s : State) (l : Launch) : State :=
  let s := l.cores.foldl (fun s c => s.saveContext l c) s
  let saved := l.cores.map fun c => ((s.core c).ctx, s.core c)
  let lofts := l.cores.flatMap fun c => s.loftOf c (s.core c).ctx
  let s := s.setLaunch
    { l with state := .parked, saved := saved, savedLoft := lofts,
             phys := l.cores.map fun c => (s.defectByte c).toNat }
  let s := s.freeDemanded l.cores
  let s := l.cores.foldl (fun s c => s.setCore c { Core.reset with tlb := (s.core c).tlb }) s
  { s with resumeList := s.resumeList ++ [l.key] }

/-- Whether a launch that is being pre-empted has drained, its halted contexts saved (R398, R408). -/
def State.canPark (s : State) (l : Launch) : Bool :=
  l.state == .preempting && l.cores.any (fun c => (s.core c).run != .ended) &&
    l.cores.all fun c => (s.core c).run.stoppedIssue && s.drained c && !((s.core c).run == .halted && (s.core c).haltReq)

/-! ## Resumption (R398, R166, R238, R357) -/

def RunState.resumed : RunState → RunState
  | .ended => .ended
  | .halted => .halted
  | _ => .running

/-- R166, R396: copies stopped by R162 are performed from the start. -/
def CopyItem.restart : CopyItem → CopyItem
  | .copy o r => .copy o { r with faulted := false }
  | i => i

/-- A context loaded onto core `c`. -/
def State.loadContext (s : State) (l : Launch) (c : Nat) : State :=
  let ctx := contextOf l.cores c
  match l.saved.find? fun e => e.1 = ctx with
  | none => s
  | some (_, k) =>
    let b := l.block ctx
    let k := k.loadRegisters s b
    let k := { k with run := k.run.resumed, withdrawn := false, tlb := (s.core c).tlb,
                      queues := k.queues.map fun q => q.map CopyItem.restart }
    let s := (s.setCore c k).noteRange b (2 ^ 16)
    let s := s.copyBytes (scratchAddr c 0) (b + 0x80000) (2 ^ 19)
    let s := s.copyBytes (weightAddr c 0) (b + 0x100000) (2 ^ 17)
    s.setLoft c (l.savedLoft.filter fun e => e.1 / 4096 = ctx)

/-- Every context has loaded its block; all contexts issue again. -/
def State.resume (s : State) (l : Launch) : State :=
  let s := l.cores.foldl (fun s c => s.loadContext l c) s
  s.setLaunch { l with state := .running, saved := [], savedLoft := [], phys := [] }

/-! ## The end of a launch (R353) -/

/-- Whether a launch can end: every context has performed END, or the launch is ending and has drained (R353, R397). -/
def State.canEnd (s : State) (l : Launch) : Bool :=
  (l.state == .running || l.state == .preempting || l.state == .ending) &&
    l.cores.all fun c =>
      let k := s.core c
      s.drained c && (k.run == .ended || (l.state == .ending && k.run.stoppedIssue))

/-- R397: the blocks of a launch that a fatal cause ended. -/
def State.saveAll (s : State) (l : Launch) : State :=
  if l.state = .ending then l.cores.foldl (fun s c => s.saveContext l c) s else s

/-- R353, steps 1 to 4: the loft entries and the pool are released, and the completion record is written. -/
def State.report (s : State) (l : Launch) : State :=
  ((s.saveAll l).freeDemanded l.cores).writeCompletion l.compl l.launchid l.status l.variant l.note

/-- R353, step 5: the cores are idle, and the partitions are freed. -/
def State.finish (s : State) (l : Launch) : State :=
  let s := l.cores.foldl (fun s c => s.modCore c fun k =>
    { k with run := .idle, launch := none, debugger := false, haltReq := false, preemptReq := false, sparks := [],
             deque := [], force := ForceUnit.idle, glean := none, groups := [], withdrawn := false,
             queues := Vector.replicate 4 [], qwaits := [], ends := [], midway := none }) s
  let s := l.cores.foldl State.leaveWalks s
  { s with launches := s.launches.filter (·.key ≠ l.key) }

end Sys2Proof.Machine
end

