-- ==== Sys2Proof/Machine/Service.lean ====
section
/-! DEFINITION. What system software and management do through the control region and at events of the package: service of
faults (R393 to R396), readiness (R416, R417), substitution, wear and retirement (R418 to R420, R291, R292), TLB
invalidation (R424), attestation (R428), parking, resumption and the end of launches. -/
namespace Sys2Proof.Machine

/-! ## Substitution (R420) -/

/-- A substitution of a core: its partition (R420). -/
def Substitution.pos (x : Substitution) : Nat := coreAt (fld x.command 8 3) (fld x.command 4 4) (fld x.command 0 4)
def Substitution.op (x : Substitution) : Nat := fld x.command 34 2
def Substitution.target (x : Substitution) : Nat := fld x.command 24 10

/-- Whether a launch holds the partition of a core (R420). A parked launch holds none (R355, log entry 32). -/
def State.partHeld (s : State) (c : Nat) : Bool := s.launches.any fun l => l.state != .parked && l.holds c

/-- A pending core or bank substitution performed once no launch holds the partition (R127, R420): a new core starts
with a FREE loft at generation 0 and zeroed banks. A logical bank is served by the fallow bank that was named last for it;
its words stay as they were (DESIGN CHOICE, log entry 80). -/
def State.performSubstitution (s : State) : State :=
  let x := s.subst
  let c := x.pos
  if x.state ≠ 1 ∨ s.partHeld c then s
  else
    let s := { s with subst := { x with state := 2 } }
    if x.op = 1 then
      let s := { s with defect := mapSet s.defect c (BitVec.ofNat 8 x.target),
                        loft := s.loft.filter (fun e => e.1 / 4096 ≠ c),
                        banks := s.banks.filter fun e => e.1 / 1024 ≠ c }
      let s := { s with mem := s.mem.clearRange (scratchAddr c 0) (2 ^ 19) }
      let mine := fun k => scratchAddr c 0 ≤ k && k < scratchAddr c 0 + 2 ^ 19
      let s := { s with eccBad := s.eccBad.filter (fun k => !mine k), eccOne := s.eccOne.filter fun k => !mine k }
      s.setCore c Core.reset
    else
      let lbank := fld x.command 15 9
      { s with banks := mapSet (s.banks.filter fun e => !(e.1 / 1024 == c && e.2 == lbank)) (1024 * c + x.target) lbank }

def execSubstitutionPerform (s : State) : Out := .next s.performSubstitution

/-! ## Service words and fault rings (R394 to R396, R408) -/

/-- A core of a launch whose record still waits for room in the ring stays parked (R394). -/
def State.recordWaits (s : State) (c : Nat) : Bool :=
  (mapGet FaultRing.reset s.rings (frondOf c)).waiting.any fun f => f.coord == coordOf c

/-- R396: a core that RESUME restarts: a copy stopped by R162 is performed from the start, and a chain that waits on a tile
makes its attempt again, since the walk of R265 has not seen its wait. -/
def Core.restarted (k : Core) : Core :=
  { k with run := .running, queues := k.queues.map fun q => q.map CopyItem.restart,
           force := { k.force with goal := k.force.goal.withdraw } }

/-- SERVICE_RESUME (R395, R396, R408): a parked core issues again; a halted one reloads the registers of its block. One whose
launch is being pre-empted stops for that at its next boundary (R398). -/
def State.serviceResume (s : State) (c : Nat) : State :=
  match s.launchOf c with
  | none => s
  | some l =>
    let k := s.core c
    if k.run = .parked ∧ !k.withdrawn ∧ !s.recordWaits c then
      (s.leaveWaiters l k.ctx).modCore c fun k => { k.restarted with preemptReq := k.preemptReq || l.state == .preempting }
    else if k.run = .halted ∧ !k.haltReq ∧ !s.recordWaits c then
      (s.leaveWaiters l k.ctx).setCore c
        { (k.loadRegisters s (l.block k.ctx)).restarted with preemptReq := l.state == .preempting }
    else s

def execServiceResume (c : CoreNo) (s : State) : Out := .next (s.serviceResume c.val)

/-- SERVICE_ABORT (R393): the launch ends with STATUS 0x01 and CAUSE 0x08. R395 lets it act on a core that is parked on a
recoverable trap; a core halted for a debugger is none (DESIGN CHOICE, log entry 89). -/
def State.serviceAbort (s : State) (c : Nat) : State :=
  let k := s.core c
  match k.launch with
  | none => s
  | some key =>
    if k.run = .parked ∧ !k.withdrawn then
      (s.modCore c fun k => { k with run := .faulted }).endLaunchAs key 0x01
        (some { coord := coordOf c, cause := 0x08, tval := k.tval, tpc := k.tpc })
    else s

def execServiceAbort (c : CoreNo) (s : State) : Out := .next (s.serviceAbort c.val)

/-- SERVICE_HALT (R395): a debug halt is requested and a debugger attached until the launch ends. -/
def State.serviceHalt (s : State) (c : Nat) : State :=
  match s.launchOf c with
  | none => s
  | some _ => s.modCore c fun k =>
    { k with debugger := true, haltReq := k.haltReq || k.run == .running || k.run == .parked || k.run == .preempted }

def execServiceHalt (c : CoreNo) (s : State) : Out := .next (s.serviceHalt c.val)

/-- Records that waited are posted while the ring has room (R394). -/
def FaultRing.drain (r : FaultRing) : List FaultRecord → FaultRing
  | [] => { r with waiting := [] }
  | f :: fs => if r.full then { r with waiting := f :: fs } else (r.post f).drain fs

/-- FAULT_RING_READ (R394): the record whose SEQ is written is marked read. -/
def State.faultRingRead (s : State) (f : Nat) (v : Word32) : State :=
  let r := mapGet FaultRing.reset s.rings f
  let r := { r with unread := r.unread.filter (· ≠ v.toNat) }
  { s with rings := mapSet s.rings f (r.drain r.waiting) }

def execFaultRingRead (f : Frond) (v : Word32) (s : State) : Out := .next (s.faultRingRead f.val v)

/-! ## Retirement (R291, R292) -/

/-- The count of a 10-bit DEP slot, read near an applied count (R285). -/
def depCount (slot : BitVec 10) (applied : BitVec 16) : Nat :=
  let base := applied.toNat + 2 ^ 16 - 511
  (base + (slot.toNat + 2 ^ 16 - base % 2 ^ 10) % 2 ^ 10) % 2 ^ 16

/-- K_f[d][i] (R282). -/
def State.count (s : State) (f d i : Nat) : BitVec 16 := mapGet 0 s.counts (64 * f + 8 * d + i)

/-- A comparison of two counts: the sign of their 16-bit difference (R282). -/
def countLe (a b : BitVec 16) : Bool := !(b - a).msb

/-- The slot of a stamp for frond `i` (R284). -/
def Stamp.slot (x : Stamp) (i : Nat) : BitVec 10 := x.dep.getD (if i < x.src then i else i - 1) 0

/-- A counted packet of frond `i` to frond `d` with a count up to `v` is still on its way. -/
def State.onTheWay (s : State) (i d : Nat) (v : BitVec 16) : Bool :=
  s.net.any fun q => q.unperformed && q.dest == d && match q.stamp with
    | some y => y.cnt && y.src == i && countLe y.own v
    | none => false

/-- Whether frond `d` has applied frond `i`'s packets up to count `v` (R285). Frond `i` may have retired (R291); and while
the survivors rebase, every such packet may have been applied or discarded (R292, log entry 67). -/
def State.reached (s : State) (d i : Nat) (v : BitVec 16) : Bool :=
  countLe v (s.count d d i) || s.retired.contains i || (s.rebasing && !s.onTheWay i d v)

/-- R285: the dependency of a stamp on frond `i` is met at frond `d`. -/
def State.depMet (s : State) (x : Stamp) (d i : Nat) : Bool :=
  i == x.src || i == d || s.reached d i (BitVec.ofNat 16 (depCount (x.slot i) (s.count d d i)))

/-- The reason for which a packet is discarded when frond `q` retires (R291), with the counts as they stand; none where it
stays. -/
def State.discardReason (s : State) (q : Nat) (p : Packet) : Option Nat :=
  if !p.cross || !p.unperformed then none
  else if p.dest = q then some 0x02
  else if frondOf p.src = q then some 0x01
  else match p.stamp with
    | some x => if s.depMet x p.dest q then none else some 0x01
    | none => none

/-- A copy's packet is no longer in flight. -/
def CopyItem.landed (id : Nat) : CopyItem → CopyItem
  | .copy o r => .copy o { r with flying := r.flying.filter (· ≠ id) }
  | .join m => .join m

/-- An MDRAIN whose packet was discarded, or met an error response: it has failed, and leaves its queue when it is next
performed (R98, R236, R291). -/
def MatItem.fail (id : Nat) : MatItem → MatItem
  | .mdrain n o =>
    if o.merge = some id ∨ o.flying.contains id then
      .mdrain n { o with merge := none, flying := o.flying.filter (· ≠ id), failed := true }
    else .mdrain n o
  | x => x

def Core.drainFailed (k : Core) (id : Nat) : Core := { k with mqueue := k.mqueue.map (MatItem.fail id) }

/-- The `tval` of RHIZOME_DISCARD (R291). -/
def discardVal (reason dest q : Nat) : Word := BitVec.ofNat 64 (reason * 2 ^ 8 + dest * 2 ^ 4 + q)

/-- RHIZOME_DISCARD (R291): pending at the packet's core while its launch runs. -/
def State.discard (s : State) (q : Nat) (p : Packet) (reason : Nat) : State :=
  s.modCore p.src fun k =>
    let k := { k with usc := if p.inUsc then k.usc - 1 else k.usc,
                      queues := k.queues.map (List.map (CopyItem.landed p.id)),
                      holdAtom := k.holdAtom.filter (· ≠ p.id), holdFence := k.holdFence.filter (· ≠ p.id),
                      mqueue := k.mqueue.map (MatItem.fail p.id),
                      force := { k.force with flying := k.force.flying.filter (· ≠ p.id) } }
    if k.launch.isSome then
      k.addPending .rhizomeDiscard (discardVal reason p.dest q) p.id
    else k

/-- A count of which row or column `q` of a frond's matrix is gone (R291). -/
def countOf (q key : Nat) : Bool := key / 64 == q || key / 8 % 8 == q || key % 8 == q

/-- Retirement of a frond (R291, R420): its packets are discarded, its rows and columns of counts retired, its readiness bits
cleared, and a rebase begins. -/
def State.retireFrond (s : State) (q : Nat) : State :=
  let gone := s.net.filterMap fun p => (s.discardReason q p).map fun r => (p, r)
  let s := gone.foldl (fun s e => s.discard q e.1 e.2) s
  let dead := gone.map fun e => e.1.id
  { s with net := s.net.filter fun p => !dead.contains p.id
           counts := s.counts.filter fun e => !countOf q e.1
           acked := s.acked.filter fun e => e.1 / 8 != q && e.1 % 8 != q
           retired := if s.retired.contains q then s.retired else s.retired ++ [q]
           ready := mapSet s.ready q 0
           rebasing := true }

/-- Whether every stamped packet has been applied and answered (R292). -/
def State.settled (s : State) : Bool := s.net.all fun p => p.stamp.isNone

/-- REBASE (R292): every count and window base becomes 0, and the ports resume. -/
def State.rebase (s : State) : State :=
  if s.rebasing && s.settled then { s with counts := [], acked := [], rebasing := false } else s

def execRebase (s : State) : Out := .next s.rebase

/-! ## Substitution commands (R420) -/

def validPos (c : Word) : Bool := fld c 4 4 < 12 && fld c 0 4 < 12

/-- Whether a fallow core serves a position of frond `f` already. -/
def State.fallowServes (s : State) (f t : Nat) : Bool :=
  (List.range 144).any fun i => (s.defectByte (144 * f + i)).toNat == t

def State.commandRefused (s : State) (v : Word) : Option Nat :=
  let x : Substitution := { state := 1, reason := 0, command := v }
  if x.op = 1 then
    if !validPos v || x.target < 144 || 160 ≤ x.target then some 2
    else if s.fallowServes (fld v 8 3) x.target then some 1 else none
  else if !validPos v || x.target < 512 || 520 ≤ x.target then some 2
  else if s.banks.any fun e => e.1 = 1024 * x.pos + x.target then some 1 else none

/-- A write of the command word: one that finds a command pending is ignored. -/
def State.substitute (s : State) (v : Word) : State :=
  if s.subst.state = 1 then s
  else match fld v 34 2 with
    | 0 => s
    | 3 => { s.retireFrond (fld v 8 3) with subst := { state := 2, reason := 0, command := v } }
    | _ =>
      match s.commandRefused v with
      | some r => { s with subst := { state := 3, reason := r, command := v } }
      | none => ({ s with subst := { state := 1, reason := 0, command := v } }).performSubstitution

/-- A command word of a given OP. -/
def withOp (v : Word) (op : Nat) : Word := (v &&& ~~~(onesAt 34 2)) ||| BitVec.ofNat 64 (op * 2 ^ 34)

def execSubstituteCore (v : Word) (s : State) : Out := .next (s.substitute (withOp v 1))
def execSubstituteBank (v : Word) (s : State) : Out := .next (s.substitute (withOp v 2))
def execRetireFrond (v : Word) (s : State) : Out := .next (s.substitute (withOp v 3))

/-! ## Readiness and wear (R416 to R418, R420, R422) -/

/-- R426: the fuses accept the image of a frond's controller: its key's digest, its signature and its security version. -/
def State.imageAccepted (s : State) (f : Nat) : Bool :=
  let i := mapGet Image.reset s.images f
  i.digest == s.fuses.digest && i.signed && s.fuses.version ≤ i.version

/-- Whether a function may become ready (R417, R426, R431): frond 0's controller comes first, then each frond's own. -/
def State.mayReady (s : State) (f bit : Nat) (decoded : Word) : Bool :=
  bit < 32 && !s.retired.contains f &&
    (if bit = 0 then s.imageAccepted f && (f == 0 || s.readyBit 0 0) else s.readyBit f 0) &&
    (bit != 3 || (!s.readyBit f 3 && decoded.toNat % 2 ^ 28 == 0 && decoded.toNat ≤ 2 ^ 44))

/-- FUNCTION_READY (R416): CXL_DECODE writes the decode word before the CXL bit sets (R431); a port that has been trained
again has no run of retries behind it (R422). -/
def State.functionReady (s : State) (f bit : Nat) (decoded : Word) : State :=
  if s.mayReady f bit decoded then
    let s := if bit = 3 then { s with cxl := mapSet s.cxl f decoded } else s
    let s := if 4 ≤ bit ∧ bit < 22 then s.linkGood (18 * f + bit - 4) else s
    { s with ready := mapSet s.ready f (setBit (mapGet 0 s.ready f) bit true) }
  else s

def execFunctionReady (f : Frond) (bit : Fin 64) (decoded : Word) (s : State) : Out :=
  .next (s.functionReady f.val bit.val decoded)

/-- A readiness bit clears (R417). -/
def State.clearReady (s : State) (f bit : Nat) : State :=
  { s with ready := mapSet s.ready f (setBit (mapGet 0 s.ready f) bit false) }

/-- FUNCTION_FAIL (R417): the bit clears, so that requests in flight to the function meet error responses at its home;
a Rhizome link fails at both its ends, and retires the frond of the higher number (R291). -/
def State.functionFail (s : State) (f bit : Nat) : State :=
  let s := s.clearReady f bit
  if 22 ≤ bit ∧ bit < 29 then
    let j := if bit - 22 < f then bit - 22 else bit - 21
    (s.clearReady j (rhzBit j f)).retireFrond (max f j)
  else s

def execFunctionFail (f : Frond) (bit : Fin 64) (s : State) : Out := .next (s.functionFail f.val bit.val)

/-- Whether frond `f` keeps a fallow core that neither serves nor is worn out (R417). -/
def State.fallowLeft (s : State) (f : Nat) : Bool :=
  (List.range 16).any fun i => !s.fallowServes f (144 + i) && (s.wearOf (160 * f + 144 + i)).wear != 255

/-- WEAR_OUT_REMOVAL (R420, R417): a position worn to 255 is out of service once no launch holds its partition. -/
def State.wearOut (s : State) (c : Nat) : State :=
  match s.coreWearKey c with
  | none => s
  | some k =>
    if (s.wearOf k).wear ≠ 255 ∨ s.partHeld c then s
    else if s.subst.state = 1 ∧ s.subst.op = 1 ∧ s.subst.pos = c then s
    else
      let s := { s with defect := mapSet s.defect c 0xFF }
      if s.fallowLeft (frondOf c) then s
      else
        let f := frondOf c
        s.clearReady f (29 + partOf c % 3)

def execWearOutRemoval (c : CoreNo) (s : State) : Out := .next (s.wearOut c.val)

/-- WEAR_RECORD_UPDATE (R418): WEAR never decreases. -/
def State.wearUpdate (s : State) (k : Nat) (wear : Byte) (eolh : BitVec 16) : State :=
  let w := s.wearOf k
  if wearKeyValid k then
    { s with wear := mapSet s.wear k { w with wear := if w.wear.ult wear then wear else w.wear, eolh := eolh } }
  else s

def execWearRecordUpdate (u : Nat) (wear : Byte) (eolh : BitVec 16) (s : State) : Out := .next (s.wearUpdate u wear eolh)

/-- LINK_LEVEL_RETRY (R422): the sixteenth consecutive retry clears the port's readiness bit. -/
def State.linkRetry (s : State) (p : Nat) : State :=
  let n := mapGet 0 s.svlRetry p + 1
  let s := { s with svlRetry := mapSet s.svlRetry p n }
  if 16 ≤ n then s.clearReady (p / 18) (4 + p % 18) else s

def execLinkLevelRetry (port : Nat) (s : State) : Out := .next (if port < 144 then s.linkRetry port else s)

/-- DEVICE_RESET (R9): every field at its reset value; the bytes of memory, the host's too, have none and stay, as do the
fuses and the images in the flash (R426). -/
def execDeviceReset (s : State) : Out :=
  .next { State.reset with
    mem := s.mem, eccBad := s.eccBad, eccOne := s.eccOne, poison := s.poison, hostPending := s.hostPending,
    fuses := s.fuses, images := s.images, agenda := s.agenda, nextId := s.nextId }

/-! ## TLB invalidation (R96, R424) -/

def Invalidation.names (i : Invalidation) (f : Nat) : Bool := wbit i.cmd (16 + f)
def Invalidation.size (i : Invalidation) : Nat := fld i.cmd 14 2
def Invalidation.asn (i : Invalidation) : Nat := fld i.cmd 0 12

/-- Whether a TLB entry overlaps the page that an invalidation names (R424). -/
def Invalidation.hits (i : Invalidation) (e : TlbEntry) : Bool :=
  e.asn == i.asn &&
    (i.size == 3 ||
      (let n := pageBits i.size
       let m := pageBits e.level
       let k := max n m
       i.va.toNat / 2 ^ k == e.vpage * 2 ^ m / 2 ^ k))

/-- TLB_INVALIDATE (R424): the walks begun before it are those in progress on the named fronds. -/
def State.tlbInvalidate (s : State) (v : Word) : State :=
  if fld v 24 40 ≠ 0 ∨ fld v 12 2 ≠ 0 then s
  else
    let i : Invalidation := { cmd := v, va := s.invalVa, walks := [] }
    let walks := s.walks.flatMap fun e =>
      if i.names e.1 then (e.2.filter (·.walking)).map fun m => (m.core, m.req) else []
    { s with inval := s.inval ++ [{ i with walks := walks }] }

def execTlbInvalidate (v : Word) (s : State) : Out := .next (s.tlbInvalidate v)

/-- TLB_INVALIDATE_COMPLETE (R96): the oldest invalidation, once its walks have ended: the matching entries of every
TLB of the named fronds are gone, as are the walks that ended in a fault there, and the count rises. -/
def State.tlbInvalidateDone (s : State) : State :=
  match s.inval with
  | [] => s
  | i :: rest =>
    if !i.walks.isEmpty then s
    else
      let keep := fun es : List TlbEntry => es.filter fun e => !i.hits e
      { s with
        inval := rest, invalDone := s.invalDone + 1,
        tlbs := s.tlbs.map fun e => if i.names e.1 then (e.1, keep e.2) else e,
        cores := s.cores.map fun e => if i.names (frondOf e.1) then (e.1, { e.2 with tlb := keep e.2.tlb, ends := [] }) else e }

def execTlbInvalidateComplete (s : State) : Out := .next s.tlbInvalidateDone

/-! ## Attestation (R428) -/

def State.attestRequest (s : State) : State :=
  if s.attest.status = 1 then s else { s with attest := { s.attest with status := 1, signing := s.attest.nonce } }

def execAttestRequest (s : State) : Out := .next s.attestRequest

def State.attestReady (s : State) : State :=
  if s.attest.status = 1 then { s with attest := { s.attest with status := 2, report := s.reportBytes } } else s

def execAttestReportReady (s : State) : Out := .next s.attestReady

/-! ## Writes of the control region (R7, R414) -/

/-- The words with no behaviour of their own (R7): queue table, SVL map, nonce, and the latched address of an
invalidation. Other words keep their value. -/
def State.plainWrite (s : State) (off : Nat) (v : Word) : State :=
  if off = 0x30000 then { s with invalVa := v }
  else if 0x100000 ≤ off ∧ off < 0x100020 then
    { s with attest := { s.attest with nonce := s.attest.nonce.set ((off - 0x100000) / 8) v } }
  else if 0x2000000 ≤ off ∧ off < 0x2200000 then
    let q := (off - 0x2000000) / 32
    let w := s.queue q
    match off % 32 / 8 with
    | 0 =>
      if w.head = w.tail then
        s.setQueue q { w with ringBase := BitVec.ofNat 44 (fld v 8 44), log2n := BitVec.ofNat 5 (fld v 0 5) }
      else s
    | 2 => s.setQueue q { w with quantum := BitVec.ofNat 11 (fld v 0 11) }
    | 3 => s.setQueue q { w with partMask := BitVec.ofNat 24 (fld v 0 24) }
    | _ => s
  else if 0x5000000 ≤ off ∧ off < 0x5001000 then
    let i := (off - 0x5000000) / 8
    let v := if i % 2 = 0 then v &&& ~~~(onesAt 52 10) &&& ~~~(onesAt 28 8) else v
    { s with svlMap := mapSet s.svlMap i v }
  else s

def execRegisterWrite (off : Nat) (v : Word) (s : State) : Out := .next (s.plainWrite (off / 8 * 8) v)

/-- A masked write of a word of the region, with what the word does (R7, R348, R394, R395, R420, R424, R428). -/
def State.ctrlWrite (s : State) (off : Nat) (mask data : Word) : State :=
  let v := (data &&& mask) ||| ((s.ctrlRead off).getD 0 &&& ~~~mask)
  if 0x1000000 ≤ off ∧ off < 0x1080000 then
    if fld mask 0 32 = 0 then s else s.doorbell ((off - 0x1000000) / 8) (v.setWidth 32)
  else if 0x3010040 ≤ off ∧ off < 0x3010080 then
    if fld mask 0 32 = 0 then s else s.faultRingRead ((off - 0x3010040) / 8) (v.setWidth 32)
  else if 0x4000000 ≤ off ∧ off < 0x4002400 then
    let c := (off - 0x4000000) / 8
    match fld v 0 2 with
    | 1 => s.serviceResume c
    | 2 => s.serviceAbort c
    | 3 => s.serviceHalt c
    | _ => s
  else if off = 0x21000 then s.substitute v
  else if off = 0x30008 then s.tlbInvalidate v
  else if off = 0x100020 then if v = 1 then s.attestRequest else s
  else s.plainWrite off v

/-- The words of completion records that are on their way into the region arrive, in order (R352). -/
def State.arriveRecords (s : State) : Nat → State
  | 0 => s
  | fuel + 1 =>
    match s.records with
    | [] => s
    | (off, w) :: r => ({ s with records := r }.ctrlWrite (off / 8 * 8) (BitVec.allOnes 64) w).arriveRecords fuel

def State.flushRecords (s : State) : State := s.arriveRecords 4096

/-- A masked write of the aligned word that holds flat address `a`: none for an error response (R97, R98). -/
def State.writeHome (s : State) (a : Nat) (mask data : Word) : Option State :=
  let h := s.homeKind a
  if !s.homeAnswers a h then none
  else match h with
    | .control off => some (s.ctrlWrite (off / 8 * 8) mask data).flushRecords
    | .svl r => if s.spoilt a false h then none else some ((s.writeKept a mask data h).linkGood r.port)
    | h => if s.spoilt a false h then none else some (s.writeKept a mask data h)

/-! ## Doorbells, and launches that park, resume and end -/

/-- Queue 65,535 is the last (R347). -/
def execDoorbell (q : Nat) (v : Word32) (s : State) : Host.Outcome State Fault Refusal :=
  .next (if q < 65536 then (s.doorbell q v).flushRecords else s)

/-- What follows when a launch's partitions have been freed: a substitution that waited for them is performed, and positions
that are worn out are taken out of service (R420), before selection runs (R355). -/
def State.freed (s : State) (l : Launch) : State :=
  let s := s.performSubstitution
  let s := if s.wear.all (fun e => e.2.wear ≠ 255) then s
    else (List.range 1152).foldl (fun s c => if l.holds c then s.wearOut c else s) s
  s.select.flushRecords

/-- LAUNCH_PARK (R398). -/
def State.launchPark (s : State) (key : Nat) : State :=
  match s.launch? key with
  | none => s
  | some l => if s.canPark l then (s.park l).freed l else s

def execLaunchPark (l : Nat) (s : State) : Out := .next (s.launchPark l)

/-- LAUNCH_RESUME (R398): the pre-emption completes, and selection follows (R355). -/
def State.launchResume (s : State) (key : Nat) : State :=
  match s.launch? key with
  | none => s
  | some l => if l.state = .resuming then (s.resume l).select.flushRecords else s

def execLaunchResume (l : Nat) (s : State) : Out := .next (s.launchResume l)

/-- LAUNCH_END (R353): the completion record is written, in the control region too, before the partitions are freed. -/
def State.launchEnd (s : State) (key : Nat) : State :=
  match s.launch? key with
  | none => s
  | some l => if s.canEnd l then ((s.report l).flushRecords.finish l).freed l else s

def execLaunchEnd (l : Nat) (s : State) : Out := .next (s.launchEnd l)

end Sys2Proof.Machine
end

