-- ==== Sys2Proof/Machine/Floats.lean ====
section
/-! DEFINITION. Floating-point values exactly: the element formats of R106 and R115, decoding, rounding under the six
modes of R116 with the flags of R118, and IEEE 754 arithmetic over exact numbers. -/
namespace Sys2Proof.Machine

/-- Whether a format has infinities and NaNs (R106). -/
inductive FKind where
  | ieee | e4m3 | finite
deriving DecidableEq, Repr

/-- A floating-point element format: sign, then `ebits` of exponent, then `fbits` of fraction (R106). -/
structure FloatFmt where
  ebits : Nat
  fbits : Nat
  bias  : Nat
  kind  : FKind
deriving DecidableEq, Repr

def fmtFP32 : FloatFmt := ⟨8, 23, 127, .ieee⟩
def fmtFP16 : FloatFmt := ⟨5, 10, 15, .ieee⟩
def fmtBF16 : FloatFmt := ⟨8, 7, 127, .ieee⟩
def fmtE4M3 : FloatFmt := ⟨4, 3, 7, .e4m3⟩
def fmtE5M2 : FloatFmt := ⟨5, 2, 15, .ieee⟩
def fmtE3M2 : FloatFmt := ⟨3, 2, 3, .finite⟩
def fmtE2M3 : FloatFmt := ⟨2, 3, 1, .finite⟩
def fmtE2M1 : FloatFmt := ⟨2, 1, 1, .finite⟩
/-- R115: wide32. -/
def fmtWide : FloatFmt := ⟨8, 31, 127, .ieee⟩

/-- A NaN: its sign, whether it signals, and its fraction of `fbits` bits. `bare` marks the NaNs that have no sign or
payload of their own (R123). -/
structure NaNVal where
  neg   : Bool
  sig   : Bool
  frac  : Nat
  fbits : Nat
  bare  : Bool
deriving DecidableEq, Repr

/-- A decoded element: (−1)^neg × m × 2^e, an infinity, or a NaN. -/
inductive FVal where
  | num (neg : Bool) (m : Nat) (e : Int)
  | inf (neg : Bool)
  | nan (n : NaNVal)
deriving DecidableEq, Repr

def FVal.isNaN : FVal → Bool
  | .nan _ => true
  | _ => false

def FVal.isSig : FVal → Bool
  | .nan n => n.sig
  | _ => false

def FVal.negate : FVal → FVal
  | .num s m e => .num (!s) m e
  | .inf s => .inf (!s)
  | .nan n => .nan n

/-- The NaN without sign or payload (R110, R112). -/
def FVal.bareNaN : FVal := .nan ⟨false, false, 0, 0, true⟩

/-- The exponent of a format's least quantum: its smallest subnormal is 2^that (R106). -/
def FloatFmt.qmin (f : FloatFmt) : Int := 1 - (f.bias : Int) - f.fbits

/-- The encoding, sign apart, of the largest finite value (R106). -/
def FloatFmt.maxBits (f : FloatFmt) : Nat :=
  match f.kind with
  | .ieee => (2 ^ f.ebits - 1) * 2 ^ f.fbits - 1
  | .e4m3 => 2 ^ (f.ebits + f.fbits) - 2
  | .finite => 2 ^ (f.ebits + f.fbits) - 1

def FloatFmt.signBit (f : FloatFmt) (neg : Bool) : Nat := if neg then 2 ^ (f.ebits + f.fbits) else 0

/-- The encoding of infinity; the largest finite where the format has none (R122). -/
def FloatFmt.infBits (f : FloatFmt) (neg : Bool) : Nat :=
  f.signBit neg + match f.kind with
    | .ieee => (2 ^ f.ebits - 1) * 2 ^ f.fbits
    | _ => f.maxBits

/-- The default NaN (R107); a format without NaN holds zero (log entry 12). -/
def FloatFmt.defaultNaN (f : FloatFmt) : Nat :=
  match f.kind with
  | .ieee => (2 ^ f.ebits - 1) * 2 ^ f.fbits + 2 ^ (f.fbits - 1)
  | .e4m3 => 2 ^ (f.ebits + f.fbits) - 1
  | .finite => 0

/-- R106, R107: the value of an encoding. -/
def FloatFmt.decode (f : FloatFmt) (bits : Nat) : FVal :=
  let neg := bits.testBit (f.ebits + f.fbits)
  let ex := bits / 2 ^ f.fbits % 2 ^ f.ebits
  let fr := bits % 2 ^ f.fbits
  if ex = 0 then .num neg fr f.qmin
  else
    let special := ex = 2 ^ f.ebits - 1
    match f.kind with
    | .ieee =>
      if special then
        if fr = 0 then .inf neg else .nan ⟨neg, fr < 2 ^ (f.fbits - 1), fr, f.fbits, false⟩
      else .num neg (2 ^ f.fbits + fr) (f.qmin + (ex - 1 : Nat))
    | .e4m3 =>
      if special ∧ fr = 2 ^ f.fbits - 1 then .nan ⟨neg, false, fr, f.fbits, false⟩
      else .num neg (2 ^ f.fbits + fr) (f.qmin + (ex - 1 : Nat))
    | .finite => .num neg (2 ^ f.fbits + fr) (f.qmin + (ex - 1 : Nat))

/-- Whether a truncated magnitude is rounded away from zero: `t` is its last place, `rem` of 2^sh what was cut off
(R116, R119). `r` is the element's draw of R120. -/
def roundsUp (mode : RoundMode) (r : Nat) (neg : Bool) (t rem sh : Nat) : Bool :=
  match mode with
  | .rne => 2 * rem > 2 ^ sh || (2 * rem == 2 ^ sh && t % 2 == 1)
  | .rtz => false
  | .rdn => neg && rem != 0
  | .rup => !neg && rem != 0
  | .rmm => rem != 0 && 2 * rem ≥ 2 ^ sh
  | .sr => rem != 0 && rem * 2 ^ 16 / 2 ^ sh + r ≥ 2 ^ 16

/-- The magnitude m × 2^e rounded to a multiple of 2^q: the multiple, and whether it is inexact. -/
def roundAt (mode : RoundMode) (r : Nat) (neg : Bool) (m : Nat) (e q : Int) : Nat × Bool :=
  if q ≤ e then (m * 2 ^ (e - q).toNat, false)
  else
    let sh := (q - e).toNat
    let t := m / 2 ^ sh
    let rem := m % 2 ^ sh
    (if roundsUp mode r neg t rem sh then t + 1 else t, rem != 0)

/-- What an overflow delivers (R116). -/
def FloatFmt.overflowBits (f : FloatFmt) (mode : RoundMode) (neg : Bool) : Nat :=
  match f.kind with
  | .ieee =>
    let toMax := match mode with
      | .rtz => true
      | .rdn => !neg
      | .rup => neg
      | _ => false
    if toMax then f.signBit neg + f.maxBits else f.infBits neg
  | _ => f.signBit neg + f.maxBits

/-- Rounding of (−1)^neg × m × 2^e to a format, with its flags (R116 to R119). -/
def FloatFmt.round (f : FloatFmt) (mode : RoundMode) (r : Nat) (neg : Bool) (m : Nat) (e : Int) : Nat × FlagBits :=
  if m = 0 then (f.signBit neg, 0)
  else
    let top := (Nat.log2 m : Int) + e
    let q0 := f.qmin
    let q := max (top - f.fbits) q0
    let (t, inexact) := roundAt mode r neg m e q
    let bits := t + (q - q0).toNat * 2 ^ f.fbits
    if bits > f.maxBits then (f.overflowBits mode neg, flagOF ||| flagNX)
    else
      let tiny := top < q0 + f.fbits &&
        !(top == q0 + f.fbits - 1 && (roundAt mode r neg m e (top - f.fbits)).1 == 2 ^ (f.fbits + 1))
      (f.signBit neg + bits, if inexact then (if tiny then flagUF ||| flagNX else flagNX) else 0)

/-- R123: a NaN delivered in a format. -/
def FloatFmt.nanBits (f : FloatFmt) (n : NaNVal) : Nat :=
  if n.bare then f.defaultNaN
  else match f.kind with
    | .ieee =>
      let keep := f.fbits - 1
      let src := n.frac % 2 ^ (n.fbits - 1)
      let low := if n.fbits - 1 ≥ keep then src / 2 ^ (n.fbits - 1 - keep) else src * 2 ^ (keep - (n.fbits - 1))
      f.signBit n.neg + f.defaultNaN + low
    | .e4m3 => f.signBit n.neg + f.defaultNaN
    | .finite => f.signBit n.neg

/-- R122, R123: a value converted to a float format, with its flags. -/
def FloatFmt.encode (f : FloatFmt) (mode : RoundMode) (r : Nat) : FVal → Nat × FlagBits
  | .num s m e => f.round mode r s m e
  | .inf s => (f.infBits s, if f.kind = .ieee then 0 else flagOF ||| flagNX)
  | .nan n => (f.nanBits n, if n.sig then flagNV else 0)

/-! ## Exact arithmetic -/

/-- The signed mantissa of a number at exponent `e` not above its own. -/
def mantAt (neg : Bool) (m : Nat) (e0 e : Int) : Int :=
  let v : Int := (m : Int) * 2 ^ (e0 - e).toNat
  if neg then -v else v

/-- The exact sum of two numbers; an exact zero has the sign IEEE 754 gives it under the mode. -/
def addNum (mode : RoundMode) (s1 : Bool) (m1 : Nat) (e1 : Int) (s2 : Bool) (m2 : Nat) (e2 : Int) : FVal :=
  let e := min e1 e2
  let v := mantAt s1 m1 e1 e + mantAt s2 m2 e2 e
  if v = 0 then
    let neg := if m1 = 0 ∧ m2 = 0 ∧ s1 = s2 then s1 else mode == .rdn
    .num neg 0 0
  else .num (v < 0) v.natAbs e

/-- A value with the flags that forming it raises; `invalid` results are the unit's default NaN. -/
abbrev Exact := Option FVal × FlagBits

/-- The sum of two values that are not NaN; none where it is invalid (∞ − ∞). -/
def addVal (mode : RoundMode) : FVal → FVal → Option FVal
  | .inf s, .inf t => if s = t then some (.inf s) else none
  | .inf s, _ => some (.inf s)
  | _, .inf t => some (.inf t)
  | .num s m e, .num t n f => some (addNum mode s m e t n f)
  | a, _ => some a

/-- The product of two values that are not NaN; none where it is invalid (0 × ∞). -/
def mulVal : FVal → FVal → Option FVal
  | .num s m e, .num t n f => some (.num (s != t) (m * n) (e + f))
  | .inf s, .num t n _ => if n = 0 then none else some (.inf (s != t))
  | .num s m _, .inf t => if m = 0 then none else some (.inf (s != t))
  | .inf s, .inf t => some (.inf (s != t))
  | a, _ => some a

/-- A quotient or root to more bits than any rounding needs: the last bit stands for what was cut off. -/
def sticky (q : Nat) (exact : Bool) (e : Int) (neg : Bool) : FVal :=
  .num neg (2 * q + if exact then 0 else 1) (e - 1)

/-- The quotient of two values that are not NaN, with DZ; none where it is invalid (0 / 0, ∞ / ∞). -/
def divVal : FVal → FVal → Option (FVal × FlagBits)
  | .num s m e, .num t n f =>
    if n = 0 then (if m = 0 then none else some (.inf (s != t), flagDZ))
    else if m = 0 then some (.num (s != t) 0 0, 0)
    else
      let k := 96 + Nat.log2 n
      some (sticky (m * 2 ^ k / n) (m * 2 ^ k % n == 0) (e - f - k) (s != t), 0)
  | .num s _ _, .inf t => some (.num (s != t) 0 0, 0)
  | .inf s, .num t _ _ => some (.inf (s != t), 0)
  | .inf _, .inf _ => none
  | a, _ => some (a, 0)

/-- The integer square root by binary digits, for arguments below 4^bits. -/
def isqrt (bits n : Nat) : Nat :=
  (List.range bits).foldl (fun r i =>
    let c := r + 2 ^ (bits - 1 - i)
    if c * c ≤ n then c else r) 0

/-- The square root of a positive number, to 96 bits and more. -/
def sqrtNum (m : Nat) (e : Int) : FVal :=
  let m := if e % 2 = 0 then m else 2 * m
  let e := if e % 2 = 0 then e else e - 1
  let n := m * 2 ^ 192
  let r := isqrt ((Nat.log2 n) / 2 + 1) n
  sticky r (r * r == n) (e / 2 - 96) false

/-- The reciprocal square root of a positive number, to 96 bits and more. -/
def rsqrtNum (m : Nat) (e : Int) : FVal :=
  let m := if e % 2 = 0 then m else 2 * m
  let e := if e % 2 = 0 then e else e - 1
  let k := 96 + Nat.log2 m
  let n := 2 ^ (2 * k) / m
  let r := isqrt ((Nat.log2 n) / 2 + 1) n
  sticky r (r * r * m == 2 ^ (2 * k)) (-(e / 2) - k) false

/-! ## Comparison -/

/-- a < b for values that are not NaN; +0 = −0. -/
def ltVal : FVal → FVal → Bool
  | .inf s, .inf t => s && !t
  | .inf s, _ => s
  | _, .inf t => !t
  | .num s m e, .num t n f =>
    let x := min e f
    decide (mantAt s m e x < mantAt t n f x)
  | _, _ => false

def eqVal (a b : FVal) : Bool := !ltVal a b && !ltVal b a

/-! ## Integers -/

/-- R122: a value rounded to an integer and saturated to [lo, hi]; a NaN gives 0. -/
def toInt (mode : RoundMode) (r : Nat) (lo hi : Int) : FVal → Int × FlagBits
  | .nan _ => (0, flagNV)
  | .inf s => (if s then lo else hi, flagNV)
  | .num s m e =>
    let (t, inexact) := roundAt mode r s m e 0
    let v : Int := if s then -(t : Int) else t
    if v < lo then (lo, flagNV) else if hi < v then (hi, flagNV) else (v, if inexact then flagNX else 0)

def ofInt (v : Int) : FVal := .num (v < 0) v.natAbs 0

/-! ## FP32 lanes (R125: the first NaN operand, quieted; else the default NaN) -/

def dec32 (x : Word32) : FVal := fmtFP32.decode x.toNat
def qnan32 : Word32 := 0x7FC00000
def quiet32 (x : Word32) : Word32 := x ||| 0x00400000

/-- The first NaN among operands, quieted, and NV where any of them signals. -/
def nanOf (xs : List Word32) : Option (Word32 × FlagBits) :=
  match xs.find? fun x => (dec32 x).isNaN with
  | none => none
  | some x => some (quiet32 x, if xs.any fun y => (dec32 y).isSig then flagNV else 0)

def round32 (mode : RoundMode) (r : Nat) (v : FVal) : Word32 × FlagBits :=
  let (b, f) := fmtFP32.encode mode r v
  (BitVec.ofNat 32 b, f)

/-- An operation without NaN operands: rounded, or invalid. -/
def finish32 (mode : RoundMode) (r : Nat) : Option FVal → Word32 × FlagBits
  | none => (qnan32, flagNV)
  | some v => round32 mode r v

def fadd32 (mode : RoundMode) (r : Nat) (a b : Word32) : Word32 × FlagBits :=
  match nanOf [a, b] with
  | some x => x
  | none => finish32 mode r (addVal mode (dec32 a) (dec32 b))

def fneg32 (x : Word32) : Word32 := x ^^^ 0x80000000
def fabs32 (x : Word32) : Word32 := x &&& 0x7FFFFFFF

/-- a − b: a NaN operand keeps its own sign. -/
def fsub32 (mode : RoundMode) (r : Nat) (a b : Word32) : Word32 × FlagBits :=
  match nanOf [a, b] with
  | some x => x
  | none => finish32 mode r (addVal mode (dec32 a) (dec32 b).negate)

def fmul32 (mode : RoundMode) (r : Nat) (a b : Word32) : Word32 × FlagBits :=
  match nanOf [a, b] with
  | some x => x
  | none => finish32 mode r (mulVal (dec32 a) (dec32 b))

def fdiv32 (mode : RoundMode) (r : Nat) (a b : Word32) : Word32 × FlagBits :=
  match nanOf [a, b] with
  | some x => x
  | none =>
    match divVal (dec32 a) (dec32 b) with
    | none => (qnan32, flagNV)
    | some (v, f) => let (x, g) := round32 mode r v; (x, f ||| g)

/-- ±(a × b) ± c with one rounding. 0 × ∞ raises NV even where c is a quiet NaN (R190). -/
def ffma32 (mode : RoundMode) (r : Nat) (negProd negC : Bool) (a b c : Word32) : Word32 × FlagBits :=
  match nanOf [a, b] with
  | some (x, f) => (x, if (dec32 c).isSig then f ||| flagNV else f)
  | none =>
    match mulVal (dec32 a) (dec32 b) with
    | none =>
      match nanOf [c] with
      | some (x, _) => (x, flagNV)
      | none => (qnan32, flagNV)
    | some p =>
      match nanOf [c] with
      | some x => x
      | none =>
        let p := if negProd then p.negate else p
        let c := if negC then (dec32 c).negate else dec32 c
        finish32 mode r (addVal mode p c)

/-- IEEE 754 minimum and maximum, with −0 < +0 (R190); a NaN operand propagates (R125). -/
def fminmax32 (wantMax : Bool) (a b : Word32) : Word32 × FlagBits :=
  match nanOf [a, b] with
  | some x => x
  | none =>
    let va := dec32 a
    let vb := dec32 b
    let less := ltVal va vb || (eqVal va vb && a.msb && !b.msb)
    (if less != wantMax then a else b, 0)

/-- FP compares (R192): 0 equal, 1 less, 2 less or equal. -/
def fcmp32 (which : Nat) (a b : Word32) : Bool × FlagBits :=
  let va := dec32 a
  let vb := dec32 b
  if va.isNaN || vb.isNaN then
    (false, if which != 0 || va.isSig || vb.isSig then flagNV else 0)
  else
    (match which with
      | 0 => eqVal va vb
      | 1 => ltVal va vb
      | _ => !ltVal vb va, 0)

end Sys2Proof.Machine
end

