-- ==== Sys2Proof/Machine/Special.lean ====
section
/-! DEFINITION. The special functions of R190, correctly rounded: each is computed in fixed point to 320 fraction
bits, far past the bits that decide an FP32 rounding, and the last bit stands for the rest (log entry 13). -/
namespace Sys2Proof.Machine

/-- Fraction bits of the fixed-point numbers of this file. -/
def fxBits : Nat := 320

/-- ⌊ln 2 × 2^320⌋ and ⌊π × 2^320⌋, from their first 400 fraction bits. -/
def ln2Fx : Nat :=
  0xb17217f7d1cf79abc9e3b39803f2f6af40f343267298b62d8a0d175b8baafa2be7b876206debac98559552fb4afa1b10ed2e / 2 ^ 80
def piFx : Nat :=
  0x3243f6a8885a308d313198a2e03707344a4093822299f31d0082efa98ec4e6c89452821e638d01377be5466cf34e90c6cc0ac / 2 ^ 80

def fxMul (a b : Nat) : Nat := a * b / 2 ^ fxBits
def fxDiv (a b : Nat) : Nat := a * 2 ^ fxBits / b
def fxOne : Nat := 2 ^ fxBits

/-- 1 + x/k · (1 + x/(k+1) · (…)): the exponential series from term k, for 0 ≤ x < 1. -/
def expTail (x : Nat) : Nat → Nat → Nat
  | 0, _ => fxOne
  | n + 1, k => fxOne + fxMul x (expTail x n (k + 1)) / k

/-- e^x for 0 ≤ x < 1. -/
def fxExp (x : Nat) : Nat := expTail x 80 1

/-- The alternating series 1 − x²/(k(k+1)) · (1 − x²/((k+2)(k+3)) · (…)), with y = x². -/
def altTail (y : Nat) : Nat → Nat → Nat
  | 0, _ => fxOne
  | n + 1, k => fxOne - fxMul y (altTail y n (k + 2)) / (k * (k + 1))

/-- sin x and cos x for 0 ≤ x ≤ π/2. -/
def fxSin (x : Nat) : Nat := fxMul x (altTail (fxMul x x) 45 2)
def fxCos (x : Nat) : Nat := altTail (fxMul x x) 45 1

/-- 1/k + z²·(1/(k+2) + …): the tail of the inverse hyperbolic tangent, with y = z². -/
def atanhTail (y : Nat) : Nat → Nat → Nat
  | 0, _ => 0
  | n + 1, k => fxOne / k + fxMul y (atanhTail y n (k + 2))

/-- ln y for 1 ≤ y < 2. -/
def fxLn (y : Nat) : Nat :=
  let z := fxDiv (y - fxOne) (y + fxOne)
  2 * fxMul z (atanhTail (fxMul z z) 110 1)

/-- m × 2^e as a fixed-point number, truncated. -/
def fxOf (m : Nat) (e : Int) : Nat :=
  if 0 ≤ e + fxBits then m * 2 ^ (e + fxBits).toNat else m / 2 ^ (-(e + fxBits)).toNat

/-- An irrational result of magnitude q / 2^320. -/
def irrational (neg : Bool) (q : Nat) : FVal := sticky q false (-(fxBits : Int)) neg

/-- A number just above and just below 1. -/
def aboveOne : FVal := irrational false fxOne
def belowOne (neg : Bool) : FVal := irrational neg (fxOne - 1)

/-- 2^a for a finite a. -/
def exp2Num (s : Bool) (m : Nat) (e : Int) : FVal :=
  if m = 0 then .num false 1 0
  else
    let top := (Nat.log2 m : Int) + e
    if 12 ≤ top then .num false 1 (if s then -5000 else 5000)
    else if top < -200 then (if s then belowOne false else aboveOne)
    else if (roundAt .rtz 0 false m e 0).2 then
      let x := fxOf m e
      let whole := x / fxOne
      let part := x % fxOne
      -- 2^(w + p), or 2^(−w − 1) · 2^(1 − p)
      let n : Int := if s then -(whole : Int) - 1 else whole
      let p := if s then fxOne - part else part
      sticky (fxExp (fxMul p ln2Fx)) false (n - fxBits) false
    else
      let w := (roundAt .rtz 0 false m e 0).1
      .num false 1 (if s then -(w : Int) else w)

/-- log2 of a positive number m × 2^e. -/
def log2Num (m : Nat) (e : Int) : FVal :=
  let k := Nat.log2 m
  let top : Int := k + e
  if m = 2 ^ k then .num (top < 0) top.natAbs 0
  else
    let l := fxDiv (fxLn (fxOf m (-(k : Int)))) ln2Fx
    let v : Int := top * fxOne + l
    irrational (v < 0) (if v < 0 then v.natAbs - 1 else v.natAbs)

/-- A magnitude m × 2^e reduced modulo 2: (k, x) with value k/2 + x / 2^320, k in 0 to 3 and x < 2^319. -/
def reduceHalf (m : Nat) (e : Int) : Nat × Nat :=
  if 2 ≤ e then (0, 0)
  else
    let x := fxOf m e % (2 * fxOne)
    (x / (fxOne / 2), x % (fxOne / 2))

/-- ± sin(π x) or ± cos(π x) of a reduced fraction 0 ≤ x < 1/2, exact at 0. -/
def sinPart (neg : Bool) (x : Nat) : FVal :=
  if x = 0 then .num neg 0 0 else irrational neg (fxSin (fxMul piFx x))

def cosPart (neg : Bool) (x : Nat) : FVal :=
  if x = 0 then .num neg 1 0
  else if x < 2 ^ (fxBits - 150) then belowOne neg
  else irrational neg (fxCos (fxMul piFx x))

/-- sin(π a). A tiny a has its own scale: sin(π a) lies just below π a. -/
def sinpiNum (s : Bool) (m : Nat) (e : Int) : FVal :=
  if m = 0 then .num s 0 0
  else
    let top := (Nat.log2 m : Int) + e
    if top < -100 then sticky (m * piFx - 1) false (e - fxBits) s
    else
      let (k, x) := reduceHalf m e
      match k with
      | 0 => sinPart s x
      | 1 => cosPart s x
      | 2 => if x = 0 then .num s 0 0 else sinPart (!s) x
      | _ => cosPart (!s) x

/-- cos(π a). -/
def cospiNum (m : Nat) (e : Int) : FVal :=
  if m = 0 then .num false 1 0
  else
    let top := (Nat.log2 m : Int) + e
    if top < -100 then belowOne false
    else
      let (k, x) := reduceHalf m e
      match k with
      | 0 => cosPart false x
      | 1 => if x = 0 then .num false 0 0 else sinPart true x
      | 2 => cosPart true x
      | _ => if x = 0 then .num false 0 0 else sinPart false x

/-- tanh a = (1 − t)/(1 + t) with t = e^(−2|a|). A tiny a has its own scale: tanh a lies just below a. -/
def tanhNum (s : Bool) (m : Nat) (e : Int) : FVal :=
  if m = 0 then .num s 0 0
  else
    let top := (Nat.log2 m : Int) + e
    if 6 ≤ top then belowOne s
    else if top < -60 then sticky (m * 2 ^ 200 - 1) false (e - 200) s
    else
      let x := fxOf m (e + 1)
      let k := x / ln2Fx
      -- e^(−x) = 2^(−k) / e^(x − k ln 2)
      let t := fxDiv fxOne (fxExp (x % ln2Fx)) / 2 ^ k
      irrational s (fxDiv (fxOne - t) (fxOne + t))

/-- The special functions of major 0x11 (R190). -/
inductive SpecialFn where
  | exp2 | log2 | sinpi | cospi | rcp | rsqrt | sqrt | tanh
deriving DecidableEq, Repr

/-- The exact value, or invalid, of a special function of a value that is not NaN (the table of R190). -/
def specialVal (fn : SpecialFn) (a : FVal) : Option (FVal × FlagBits) :=
  match fn, a with
  | .exp2, .inf s => some (if s then .num false 0 0 else .inf false, 0)
  | .exp2, .num s m e => some (exp2Num s m e, 0)
  | .log2, .inf s => if s then none else some (.inf false, 0)
  | .log2, .num s m e =>
    if m = 0 then some (.inf true, flagDZ) else if s then none else some (log2Num m e, 0)
  | .sinpi, .inf _ => none
  | .sinpi, .num s m e => some (sinpiNum s m e, 0)
  | .cospi, .inf _ => none
  | .cospi, .num _ m e => some (cospiNum m e, 0)
  | .rcp, v => divVal (.num false 1 0) v
  | .rsqrt, .inf s => if s then none else some (.num false 0 0, 0)
  | .rsqrt, .num s m e =>
    if m = 0 then some (.inf s, flagDZ) else if s then none else some (rsqrtNum m e, 0)
  | .sqrt, .inf s => if s then none else some (.inf false, 0)
  | .sqrt, .num s m e =>
    if m = 0 then some (.num s 0 0, 0) else if s then none else some (sqrtNum m e, 0)
  | .tanh, .inf s => some (.num s 1 0, 0)
  | .tanh, .num s m e => some (tanhNum s m e, 0)
  | _, .nan n => some (.nan n, 0)

/-- A special function of one lane. -/
def special32 (fn : SpecialFn) (mode : RoundMode) (r : Nat) (a : Word32) : Word32 × FlagBits :=
  match nanOf [a] with
  | some x => x
  | none =>
    match specialVal fn (dec32 a) with
    | none => (qnan32, flagNV)
    | some (v, f) => let (x, g) := round32 mode r v; (x, f ||| g)

end Sys2Proof.Machine
end

