-- ==== Sys2Proof/Machine/Tiles.lean ====
section
/-! DEFINITION. Tile formats bit for bit: codes and sizes (R105, R136), decoding of elements and blocks (R106 to R112),
encoding of elements and blocks with their flags (R111, R113, R122, R430), and the SOW generator with the draws of
stochastic rounding (R119 to R121, R199). -/
namespace Sys2Proof.Machine

/-! ## SOW (R199) -/

/-- One round: counter and key. -/
def sowRound (x : (Word32 × Word32 × Word32 × Word32) × (Word32 × Word32)) :
    (Word32 × Word32 × Word32 × Word32) × (Word32 × Word32) :=
  let ((c0, c1, c2, c3), (k0, k1)) := x
  let p0 : Word := 0xB5297A4D#64 * c0.zeroExtend 64
  let p2 : Word := 0xD1342543#64 * c2.zeroExtend 64
  ((p2.extractLsb' 32 32 ^^^ c1 ^^^ k0, p2.extractLsb' 0 32, p0.extractLsb' 32 32 ^^^ c3 ^^^ k1,
    p0.extractLsb' 0 32), (k0 + 0x9E3779B9, k1 + 0xBB67AE85))

/-- The four output words of a counter under a 64-bit key. -/
def sow (key : Word) (c0 c1 c2 c3 : Word32) : List Word32 :=
  let ((a, b, c, d), _) :=
    (List.range 10).foldl (fun x _ => sowRound x) ((c0, c1, c2, c3), (key.extractLsb' 0 32, key.extractLsb' 32 32))
  [a, b, c, d]

/-- R120, R121: the 16 random bits of an element; drawn only under SR. -/
def srDraw (mode : RoundMode) (srkey : Word) (grow gcol stream : Nat) : Nat :=
  if mode = .sr then
    ((sow srkey (BitVec.ofNat 32 gcol) (BitVec.ofNat 32 grow) (BitVec.ofNat 32 stream) 0xFFFFFF00).headD 0).toNat
      % 2 ^ 16
  else 0

/-! ## Format codes and sizes -/

/-- R105. -/
def Fmt.code : Fmt → Nat
  | .fp32 => 0x00 | .fp16 => 0x01 | .bf16 => 0x02 | .e4m3 => 0x03 | .e5m2 => 0x04
  | .mxfp8e4m3 => 0x05 | .mxfp8e5m2 => 0x06 | .mxfp6e3m2 => 0x07 | .mxfp6e2m3 => 0x08 | .mxfp4 => 0x09
  | .tsb4 => 0x0A | .tsb6 => 0x0B | .tsb8 => 0x0C
  | .s8 => 0x10 | .s16 => 0x11 | .s32 => 0x12 | .s64 => 0x13
  | .z8 => 0x14 | .z16 => 0x15 | .z32 => 0x16 | .z64 => 0x17

def allFmts : List Fmt :=
  [.fp32, .fp16, .bf16, .e4m3, .e5m2, .mxfp8e4m3, .mxfp8e5m2, .mxfp6e3m2, .mxfp6e2m3, .mxfp4, .tsb4, .tsb6, .tsb8,
   .s8, .s16, .s32, .s64, .z8, .z16, .z32, .z64]

def fmtOfCode (n : Nat) : Option Fmt := allFmts.find? fun f => f.code = n

/-- Element bits (R105). -/
def Fmt.width : Fmt → Nat
  | .fp32 => 32 | .fp16 => 16 | .bf16 => 16 | .e4m3 => 8 | .e5m2 => 8
  | .mxfp8e4m3 => 8 | .mxfp8e5m2 => 8 | .mxfp6e3m2 => 6 | .mxfp6e2m3 => 6 | .mxfp4 => 4
  | .tsb4 => 4 | .tsb6 => 6 | .tsb8 => 8
  | .s8 => 8 | .s16 => 16 | .s32 => 32 | .s64 => 64
  | .z8 => 8 | .z16 => 16 | .z32 => 32 | .z64 => 64

/-- Bytes before the elements of a block: one scale byte (R109) or two (R112); none for an element format. -/
def Fmt.scaleBytes : Fmt → Option Nat
  | .mxfp8e4m3 | .mxfp8e5m2 | .mxfp6e3m2 | .mxfp6e2m3 | .mxfp4 => some 1
  | .tsb4 | .tsb6 | .tsb8 => some 2
  | _ => none

def Fmt.isBlock (f : Fmt) : Bool := f.scaleBytes.isSome

/-- Block bytes (R105): the scale bytes and 32 elements. -/
def Fmt.blockBytes (f : Fmt) : Nat := f.scaleBytes.getD 0 + 4 * f.width

/-- The float format of an element, or of an MX block's elements (R106, R109). -/
def Fmt.float : Fmt → Option FloatFmt
  | .fp32 => some fmtFP32 | .fp16 => some fmtFP16 | .bf16 => some fmtBF16
  | .e4m3 => some fmtE4M3 | .e5m2 => some fmtE5M2
  | .mxfp8e4m3 => some fmtE4M3 | .mxfp8e5m2 => some fmtE5M2
  | .mxfp6e3m2 => some fmtE3M2 | .mxfp6e2m3 => some fmtE2M3 | .mxfp4 => some fmtE2M1
  | _ => none

/-- A signed, and an unsigned, integer format (R114). -/
def Fmt.isSigned : Fmt → Bool
  | .s8 | .s16 | .s32 | .s64 => true
  | _ => false
def Fmt.isUnsigned : Fmt → Bool
  | .z8 | .z16 | .z32 | .z64 => true
  | _ => false
def Fmt.isInt (f : Fmt) : Bool := f.isSigned || f.isUnsigned
def Fmt.is64 (f : Fmt) : Bool := f == .s64 || f == .z64

/-- Bits of one row of a tile (R136). -/
def Fmt.rowBits (f : Fmt) (cols : Nat) : Nat :=
  if f.isBlock then cols / 32 * f.blockBytes * 8 else cols * f.width

/-- The storage of a tile in bytes (R136). -/
def storageBytes (rows cols : Nat) (f : Fmt) : Nat := (rows * f.rowBits cols + 63) / 64 * 8

/-- The bit position of element (r, c): of its own bits (R136, R109, R112). -/
def Fmt.elemBit (f : Fmt) (cols r c : Nat) : Nat :=
  if f.isBlock then
    r * f.rowBits cols + c / 32 * f.blockBytes * 8 + 8 * f.scaleBytes.getD 0 + c % 32 * f.width
  else r * f.rowBits cols + c * f.width

/-- The byte at which the block of element (r, c) starts (R136). -/
def Fmt.blockByte (f : Fmt) (cols r c : Nat) : Nat := r * f.rowBits cols / 8 + c / 32 * f.blockBytes

/-! ## Reading elements -/

/-- `n` bits from bit position `p` of bytes read by `rd`, as a number (R136, R137). -/
def readBits (rd : Nat → Byte) (p n : Nat) : Nat :=
  (List.range ((p % 8 + n + 7) / 8)).foldr (fun i acc => (rd (p / 8 + i)).toNat + 2 ^ 8 * acc) 0 / 2 ^ (p % 8) % 2 ^ n

/-- An element's exact value. -/
inductive EVal where
  | int (v : Int)
  | fl (v : FVal)
deriving DecidableEq, Repr

/-- An integer read from `w` bits (R114). -/
def intOfBits (signed : Bool) (w bits : Nat) : Int :=
  if signed && bits.testBit (w - 1) then (bits : Int) - 2 ^ w else bits

/-- The bits of a two's-complement or unsigned integer. -/
def bitsOfInt (w : Nat) (v : Int) : Nat := (v % 2 ^ w).toNat

/-- A TSB element under its two scales (R112). -/
def decodeTsb (n ea eb bits : Nat) : FVal :=
  let m := bits % 2 ^ (n - 2)
  let q := bits.testBit (n - 2)
  let e := if q then eb else ea
  if e = 255 then FVal.bareNaN
  else if m = 0 then .num false 0 0
  else .num (bits.testBit (n - 1)) m ((e : Int) - 127 - (n - 3 : Nat))

/-- An MX element under its scale (R110). -/
def decodeMx (f : FloatFmt) (s bits : Nat) : FVal :=
  if s = 255 then FVal.bareNaN
  else match f.decode bits with
    | .num neg m e => .num neg m (e + s - 127)
    | v => v

/-- Element (r, c) of a tile whose bytes `rd` reads (R106 to R114). -/
def decodeElem (f : Fmt) (cols : Nat) (rd : Nat → Byte) (r c : Nat) : EVal :=
  let bits := readBits rd (f.elemBit cols r c) f.width
  let blk := f.blockByte cols r c
  match f.scaleBytes, f.float with
  | some _, some ff => .fl (decodeMx ff (rd blk).toNat bits)
  | some _, none => .fl (decodeTsb f.width (rd blk).toNat (rd (blk + 1)).toNat bits)
  | none, some ff => .fl (ff.decode bits)
  | none, none => .int (intOfBits f.isSigned f.width bits)

def EVal.toF : EVal → FVal
  | .int v => ofInt v
  | .fl v => v

/-! ## Encoding elements -/

def intRange (f : Fmt) : Int × Int :=
  if f.isSigned then (-(2 ^ (f.width - 1)), 2 ^ (f.width - 1) - 1) else (0, 2 ^ f.width - 1)

/-- R122, R123: a value encoded in an element format, with its flags. -/
def encodeElem (f : Fmt) (mode : RoundMode) (r : Nat) (v : EVal) : Nat × FlagBits :=
  match f.float with
  | some ff => ff.encode mode r v.toF
  | none =>
    let (lo, hi) := intRange f
    match v with
    | .int i =>
      if i < lo then (bitsOfInt f.width lo, flagNV)
      else if hi < i then (bitsOfInt f.width hi, flagNV) else (bitsOfInt f.width i, 0)
    | .fl x => let (i, g) := toInt mode r lo hi x; (bitsOfInt f.width i, g)

/-! ## Encoding blocks (R111, R113, R430) -/

def FVal.bad : FVal → Bool
  | .num _ _ _ => false
  | _ => true

/-- |a| < |b| for finite values. -/
def magLt (a b : FVal) : Bool :=
  match a, b with
  | .num _ m e, .num _ n f => ltVal (.num false m e) (.num false n f)
  | _, _ => false

/-- The largest magnitude among the finite values. -/
def maxMag (vs : List FVal) : FVal :=
  vs.foldl (fun a v => if !v.bad && magLt a v then v else a) (.num false 0 0)

/-- The flags that an element which is not finite raises in a block (R430). -/
def badFlags : FVal → FlagBits
  | .nan n => if n.sig then flagNV else 0
  | .inf _ => flagOF ||| flagNX
  | .num _ _ _ => 0

/-- The exponent of an element format's largest normal (R111). -/
def FloatFmt.emax (f : FloatFmt) : Int :=
  match f.kind with
  | .ieee => (2 ^ f.ebits - 2 : Nat) - (f.bias : Int)
  | _ => (2 ^ f.ebits - 1 : Nat) - (f.bias : Int)

/-- R111 step 3 and 4: one element of an MX block, saturating in every format. -/
def mxElem (f : FloatFmt) (mode : RoundMode) (r s : Nat) : FVal → Nat × FlagBits
  | .num neg m e =>
    let (b, g) := f.round mode r neg m (e - s + 127)
    if g &&& flagOF = flagOF then (f.signBit neg + f.maxBits, g) else (b, g)
  | v => (0, badFlags v)

/-- R111: the bytes of an MX block, and the OR of its elements' flags. `draw i` is element i's SR draw. -/
def encodeMx (f : FloatFmt) (w : Nat) (mode : RoundMode) (draw : Nat → Nat) (vs : List FVal) : Nat × FlagBits :=
  if vs.any FVal.bad then (255, vs.foldl (fun g v => g ||| badFlags v) 0)
  else
    let s : Nat := match maxMag vs with
      | .num _ m e =>
        if m = 0 then 0 else
          let x := (Nat.log2 m : Int) + e - f.emax + 127
          if x < 0 then 0 else if 254 < x then 254 else x.toNat
      | _ => 0
    (vs.zipIdx).foldl (fun (acc, g) (v, i) =>
      let (b, h) := mxElem f mode (draw i) s v
      (acc + b * 2 ^ (8 + w * i), g ||| h)) (s, 0)

/-- The exponent of Ulp(E) for TSB-n (R113). -/
def tsbUlp (n E : Nat) : Int := (E : Int) - 127 - (n - 3 : Nat)

/-- Round(|x| / Ulp(E), mode) (R113). -/
def tsbScaled (mode : RoundMode) (r n E : Nat) : FVal → Nat
  | .num _ m e => (roundAt mode r false m e (tsbUlp n E)).1
  | _ => 0

/-- One finite element whose scale E_q and q are chosen: its field and flags (R113, R430). -/
def tsbElem (n E : Nat) (q : Bool) (raw : Nat) (neg : Bool) (x : FVal) : Nat × FlagBits :=
  let top := 2 ^ (n - 2) - 1
  let m := min raw top
  let field := (if neg && m != 0 then 2 ^ (n - 1) else 0) + (if q then 2 ^ (n - 2) else 0) + m
  let delivered : FVal := .num false m (tsbUlp n E)
  let differs := magLt delivered x || magLt x delivered
  let ulp : FVal := .num false 1 (tsbUlp n E)
  let g := if raw > top then flagOF ||| flagNX else if differs then flagNX else 0
  (field, if differs && magLt x ulp then g ||| flagUF ||| flagNX else g)

/-- R113: the bytes of a TSB block, and the OR of its elements' flags. -/
def encodeTsb (n : Nat) (mode : RoundMode) (draw : Nat → Nat) (vs : List FVal) : Nat × FlagBits :=
  let top := 2 ^ (n - 2) - 1
  let mx := maxMag vs
  let bad := vs.any FVal.bad
  let ea := (((List.range 255).find? fun E => n - 2 ≤ E && tsbScaled .rne 0 n E mx ≤ top).getD 254)
  let eb := ea - (n - 2)
  (vs.zipIdx).foldl (fun (acc, g) (v, i) =>
    let (field, h) := match v with
      | .num neg _ _ =>
        if bad then tsbElem n ea true (tsbScaled mode (draw i) n ea v) neg v
        else
          let mb := tsbScaled mode (draw i) n eb v
          if mb ≤ top then tsbElem n eb true mb neg v
          else tsbElem n ea false (tsbScaled mode (draw i) n ea v) neg v
      | _ => (0, badFlags v)
    (acc + field * 2 ^ (16 + n * i), g ||| h))
    (if bad then (255 + 2 ^ 8 * ea, 0) else (ea + 2 ^ 8 * eb, 0))

/-- A block of 32 values encoded in a block format: the block as a number, byte 0 lowest, and its flags. -/
def encodeBlock (f : Fmt) (mode : RoundMode) (draw : Nat → Nat) (vs : List FVal) : Nat × FlagBits :=
  match f.float with
  | some ff => encodeMx ff f.width mode draw vs
  | none => encodeTsb f.width mode draw vs

/-! ## Writes into a tile's storage -/

/-- A run of bits: position, width, value. -/
structure BitWrite where
  pos : Nat
  len : Nat
  val : Nat
deriving DecidableEq, Repr

/-- The masked word writes of a run of bits: word index (from the storage base), mask and data (R137, R147). -/
def BitWrite.parts (b : BitWrite) : List (Nat × Word × Word) :=
  (List.range ((b.pos % 64 + b.len + 63) / 64)).map fun i =>
    let all := (2 ^ b.len - 1) * 2 ^ (b.pos % 64)
    let data := b.val * 2 ^ (b.pos % 64)
    (b.pos / 64 + i, BitVec.ofNat 64 (all / 2 ^ (64 * i)), BitVec.ofNat 64 (data / 2 ^ (64 * i)))

/-- Runs of bits gathered into one masked write for each word they touch, later runs last. -/
def gatherWrites (bs : List BitWrite) : SMap (Word × Word) :=
  bs.foldl (fun acc b =>
    b.parts.foldl (fun acc (w, mask, data) =>
      let (m0, d0) := mapGet (0, 0) acc w
      mapSet acc w (m0 ||| mask, (d0 &&& ~~~mask) ||| (data &&& mask))) acc) []

/-- The runs that write `rows × cols` values from (r0, c0) of a tile, a whole block at a time for a block format
(R111, R113, R122), with the flags of the conversions. `val` gives the value for element (i, j) of the region. -/
def encodeRegion (t : Tile) (mode : RoundMode) (srkey : Word) (r0 c0 rows cols : Nat) (val : Nat → Nat → EVal) :
    List BitWrite × FlagBits :=
  let draw (r c : Nat) := srDraw mode srkey (t.row0 + r) (t.col0 + c) t.stream
  if t.fmt.isBlock then
    (List.range rows).foldl (fun acc i =>
      (List.range (cols / 32)).foldl (fun (ws, g) b =>
        let c := c0 + 32 * b
        let (n, h) := encodeBlock t.fmt mode (fun j => draw (r0 + i) (c + j))
          ((List.range 32).map fun j => (val i (32 * b + j)).toF)
        (ws ++ [⟨8 * t.fmt.blockByte t.cols (r0 + i) c, 8 * t.fmt.blockBytes, n⟩], g ||| h)) acc) ([], 0)
  else
    (List.range rows).foldl (fun acc i =>
      (List.range cols).foldl (fun (ws, g) j =>
        let (n, h) := encodeElem t.fmt mode (draw (r0 + i) (c0 + j)) (val i j)
        (ws ++ [⟨t.fmt.elemBit t.cols (r0 + i) (c0 + j), t.fmt.width, n⟩], g ||| h)) acc) ([], 0)

/-! ## Lanes (R188) -/

/-- A lane's 32 bits decoded from an element: integers extended, `fp32` bit for bit, other floats exact in FP32 but for
an MX value outside its range. `raw` are the element's own bits. -/
def laneOfElem (f : Fmt) (mode : RoundMode) (r raw : Nat) (v : EVal) : Word32 × FlagBits :=
  match v with
  | .int i => (BitVec.ofInt 32 i, 0)
  | .fl x => if f = .fp32 then (BitVec.ofNat 32 raw, 0) else round32 mode r x

/-- A lane read as the source of an element of a format: s32 or z32 for an integer format, else FP32 (R188). -/
def elemOfLane (f : Fmt) (x : Word32) : EVal :=
  if f.isSigned then .int x.toInt else if f.isUnsigned then .int x.toNat else .fl (dec32 x)

end Sys2Proof.Machine
end

