-- ==== Sys2Proof/Machine/LoftOps.lean ====
section
/-! DEFINITION. Handle names and the checks made on them (R130, R131), loft entries as tiles, storage and occupancy (R136,
R138), the tile in evaluation (R264), and the bytes of a tile at any level. -/
namespace Sys2Proof.Machine

/-! ## Names (R130) -/

def nameSlot (n : Word) : Nat := fld n 0 12
def nameGen (n : Word) : Byte := BitVec.ofNat 8 (fld n 24 8)

/-- R131, first check: [63:32] nonzero, or an absolute name with Y or X from 12 to 15. -/
def nameMalformed (n : Word) : Bool :=
  fld n 32 32 != 0 || (!wbit n 23 && (12 ≤ fld n 16 4 || 12 ≤ fld n 12 4))

/-- R131: the owner of a name that core `c` resolves. -/
def nameOwner (c : Nat) (n : Word) : Nat :=
  if wbit n 23 then relCore c (sfld n 20 3) (sfld n 16 4) (sfld n 12 4)
  else coreAt (fld n 20 3) (fld n 16 4) (fld n 12 4)

/-- The name of a slot in absolute form (R130). -/
def absName (c slot : Nat) (gen : Byte) : Word :=
  BitVec.ofNat 64 (gen.toNat * 2 ^ 24 + frondOf c * 2 ^ 20 + yOf c * 2 ^ 16 + xOf c * 2 ^ 12 + slot)

/-- A trap with its `tval`. -/
abbrev TrapVal := Cause × Word

def loftFault (reason : Nat) (name : Word) : TrapVal := (.loftFault, reasonVal reason name)

/-- R131, the checks made at issue by core `c`: the owner and slot of a name. -/
def State.resolve (s : State) (c : Nat) (n : Word) : TrapVal ⊕ (Nat × Nat) :=
  if nameMalformed n then .inl (loftFault 0x08 n)
  else
    let t := nameOwner c n
    if s.reaches c t then .inr (t, nameSlot n) else .inl (.accessViolation, n)

/-- R131 for an instruction that acts only on the issuing core's loft, with the generation. -/
def State.resolveLocal (s : State) (c : Nat) (n : Word) : TrapVal ⊕ Nat :=
  match s.resolve c n with
  | .inl t => .inl t
  | .inr (t, slot) =>
    if t ≠ c then .inl (loftFault 0x04 n)
    else if (s.entry c slot).gen ≠ nameGen n then .inl (loftFault 0x05 n) else .inr slot

/-! ## Entries as tiles -/

def LoftEntry.tile (e : LoftEntry) (core : Nat) : Tile :=
  { rows := e.rows, cols := e.cols, fmt := e.fmt, level := e.level, base := e.base, row0 := e.row0, col0 := e.col0,
    stream := e.stream, core := core }

def Tile.bytes (t : Tile) : Nat := storageBytes t.rows t.cols t.fmt

def LoftEntry.live (e : LoftEntry) : Bool := e.state != .free

/-- R138: level-S storage [base, base + n) of core `c` overlaps a live tile's words. -/
def State.occupied (s : State) (c base n : Nat) : Bool :=
  s.loft.any fun (k, e) =>
    k / 4096 == c && e.live && e.level == .S &&
      (let b := e.base.toNat
       let m := storageBytes e.rows e.cols e.fmt
       decide (b < base + n ∧ base < b + m))

/-- The occupancy bit of word `w` of core `c`'s scratchpad (R138). -/
def State.occupancy (s : State) (c w : Nat) : Bool := s.occupied c (8 * w) 8

/-- R264: the tile in evaluation that a program's copies, slices and drains may write: the innermost frame's own. What
the force unit itself writes is no access of these. -/
def Core.evalTile (k : Core) : Option (Nat × Nat) :=
  (k.force.stack.find? fun x => x.phase == .frame).map fun x => (x.core, x.slot)

/-- A tile that core `c` may write: VALUE, or BLACKHOLE and in evaluation by it (R188, R231). -/
def State.writable (s : State) (c t slot : Nat) : Bool :=
  let e := s.entry t slot
  e.state == .value || (e.state == .blackhole && (s.core c).evalTile == some (t, slot))

/-- A tile that a copy of core `c` may write: VALUE, or BLACKHOLE, the tile in evaluation, and so already when the copy was
issued (R155, R264). -/
def State.copyWritable (s : State) (frame : Option (Nat × Nat)) (c t slot : Nat) : Bool :=
  let e := s.entry t slot
  e.state == .value || (e.state == .blackhole && frame == some (t, slot) && (s.core c).evalTile == some (t, slot))

/-- The checks that tile slices, TOPK, MMA and MDRAIN make of a tile of the issuing core (R188, R231, R235). -/
def State.localTile (s : State) (c : Nat) (n : Word) : TrapVal ⊕ (Nat × Tile) :=
  match s.resolveLocal c n with
  | .inl t => .inl t
  | .inr slot =>
    let e := s.entry c slot
    if e.state = .free then .inl (loftFault 0x06 n)
    else if !s.writable c c slot then .inl (loftFault 0x10 n)
    else if e.level ≠ .S then .inl (loftFault 0x11 n)
    else .inr (slot, e.tile c)

/-! ## The bytes of a tile -/

/-- The absolute window address of a byte of a scratchpad (R82). -/
def windowVa (c off : Nat) : Word :=
  BitVec.ofNat 64 (0xFE * 2 ^ 48 + frondOf c * 2 ^ 45 + yOf c * 2 ^ 41 + xOf c * 2 ^ 37 + off)

/-- The address by which word `w` of a tile's storage is reported: a virtual address (R98). -/
def Tile.wordVa (t : Tile) (w : Nat) : Word :=
  match t.level with
  | .S => windowVa t.core (t.base.toNat + 8 * w)
  | _ => t.base + BitVec.ofNat 64 (8 * w)

/-- What an engine meets at an address: where it lies and whether its page is device memory, a trap's end, or a walk. -/
inductive Meet where
  | at (flat : Nat) (device : Bool)
  | fault
  | violation
  | wait
deriving DecidableEq, Repr

/-- R140: a translated address lies in the tier of a level. -/
def Level.inTier (l : Level) (pa : Nat) : Bool :=
  match l with
  | .S => false
  | .H => inHbm pa
  | .X => 2 ^ 48 ≤ pa && pa < 2 ^ 48 + 2 ^ 47

/-- Where word `w` of a level-S tile lies. -/
def Tile.scratchWord (t : Tile) (w : Nat) : Nat := scratchAddr t.core (t.base.toNat + 8 * w)

/-- Where word `w` of a tile lies, for a requester of core `c` (R95, R162). -/
def State.tileHome (s : State) (c req : Nat) (t : Tile) (w : Nat) (a : Access) : Meet × State :=
  match t.level with
  | .S => (.at (t.scratchWord w) false, s)
  | _ =>
    match s.translateVa c req (t.wordVa w) a with
    | (.ok pa d, s) => (if t.level.inTier pa then .at pa d else .violation, s)
    | (.trap .accessViolation, s) => (.violation, s)
    | (.trap _, s) => (.fault, s)
    | (.wait, s) => (.wait, s)

/-- The word indexes that a tile's elements of a region touch: whole blocks for a block format (R136). -/
def Tile.regionWords (t : Tile) (r0 c0 rows cols : Nat) : List Nat :=
  let spans := (List.range rows).map fun i =>
    let r := r0 + i
    if t.fmt.isBlock then
      (t.fmt.blockByte t.cols r c0 / 8, (t.fmt.blockByte t.cols r (c0 + cols - 1) + t.fmt.blockBytes - 1) / 8)
    else
      (t.fmt.elemBit t.cols r c0 / 64, (t.fmt.elemBit t.cols r (c0 + cols - 1) + t.fmt.width - 1) / 64)
  (spans.foldl (fun (acc, next) (lo, hi) =>
    let lo := max lo next
    (acc ++ (List.range (hi + 1 - lo)).map (lo + ·), max next (hi + 1))) ([], 0)).1

/-- Bytes read from gathered words. -/
def wordsByte (ws : SMap Word) (i : Nat) : Byte := byteOf (mapGet 0 ws (i / 8)) (i % 8)

/-- What translating a list of a tile's words gives: where each lies, or the first address that stops it. -/
inductive Homes where
  | ok (hs : List (Nat × Nat × Bool))
  | fault (va : Word)
  | violation (va : Word)
  | wait
deriving DecidableEq, Repr

/-- A word's place in front of those of the words after it. -/
def Homes.put (w flat : Nat) (device : Bool) : Homes → Homes
  | .ok hs => .ok ((w, flat, device) :: hs)
  | x => x

/-- The words of a tile are translated one after another, before any is accessed (R95, R162). -/
def State.tileHomes (s : State) (c req : Nat) (t : Tile) (a : Access) : List Nat → Homes × State
  | [] => (.ok [], s)
  | w :: ws =>
    match s.tileHome c req t w a with
    | (.fault, s) => (.fault (t.wordVa w), s)
    | (.violation, s) => (.violation (t.wordVa w), s)
    | (.wait, s) => (.wait, s)
    | (.at h d, s) => let (x, s) := s.tileHomes c req t a ws; (x.put w h d, s)

/-- What reading a list of a level-S tile's words gives: the words, or the first address that answers with an error. -/
inductive Gather where
  | ok (ws : SMap Word) (s : State)
  | error (va : Word)

/-- The words of a level-S tile read at their homes, in order. -/
def State.gather (s : State) (t : Tile) : List Nat → SMap Word → Gather
  | [], acc => .ok acc s
  | w :: ws, acc =>
    match s.readHome (t.scratchWord w) with
    | none => .error (t.wordVa w)
    | some x => (s.noteRead (t.scratchWord w)).gather t ws (mapSet acc w x)

end Sys2Proof.Machine
end

