-- ==== Sys2Proof/Machine/Network.lean ====
section
/-! DEFINITION. Packets: how a core sends them (R281, R288, R298, R299), how they are performed at their homes (R245 to R252),
the Rhizome (R282 to R289), and the replies (R98, R101, R169). -/
namespace Sys2Proof.Machine

/-! ## Fills (R167 to R169) -/

/-- The `tval` of UNARMED_FILL (R169): class, file, register. -/
def unarmedVal (cls file : Nat) (r : Reg) : Word := BitVec.ofNat 64 (cls * 2 ^ 8 + file * 2 ^ 6 + r.val)

/-- A fill of a g register (R169, R56). -/
def Core.fillG (k : Core) (r : Reg) (cls : Nat) (v : Word) (born : Nat := 0) : Core :=
  if r = 0 then k
  else if k.gIsFull r then k.addPending .unarmedFill (unarmedVal cls 0 r) born
  else { k.setG r v with gfull := setBit k.gfull r.val true }

/-- A fill of a v register (R169). -/
def Core.fillV (k : Core) (r : Reg) (x : VReg) (born : Nat := 0) : Core :=
  if k.vIsFull r then k.addPending .unarmedFill (unarmedVal 7 1 r) born
  else { k.setV r x with vfull := setBit k.vfull r.val true }

/-! ## Atomics at the home (R245 to R247) -/

/-- Bytes of an op-type (R74, R242). -/
def atomBytes (code : Nat) : Nat := if code = 0x15 ∨ code % 2 = 0 then 4 else 8

/-- `.s32` types return the old value sign-extended (R240). -/
def atomReply (code : Nat) (old : Word) : Word :=
  if code = 0x02 ∨ code = 0x06 then (old.setWidth 32).signExtend 64 else old

/-- One lane of AFADD: m's NaN first, quieted (R246). -/
def faddLane (f : FloatFmt) (w : Nat) (m x : Nat) : Nat × FlagBits :=
  let vm := f.decode m
  let vx := f.decode x
  let quiet := fun b => if b.testBit (f.fbits - 1) then b else b + 2 ^ (f.fbits - 1)
  let nv : FlagBits := if vm.isSig || vx.isSig then flagNV else 0
  if vm.isNaN then (quiet m, nv)
  else if vx.isNaN then (quiet x, nv)
  else match addVal .rne vm vx with
    | none => (f.defaultNaN % 2 ^ w, flagNV)
    | some v => f.encode .rne 0 v

/-- The new value of `m` under an op-type with operands of the op's width, none where it writes nothing, and the flags
of an AFADD (R245, R246). -/
def atomCompute (code : Nat) (m x y : Word) : Option Word × FlagBits :=
  let n := 8 * atomBytes code
  let cut := fun v : Word => v &&& onesAt 0 n
  let signed := fun v : Word => if n = 32 then (v.setWidth 32 : Word32).toInt else v.toInt
  let m := cut m
  let x := cut x
  if code < 0x02 then (some (cut (m + x)), 0)
  else if code < 0x04 then (some (if signed x < signed m then x else m), 0)
  else if code < 0x06 then (some (if x.ult m then x else m), 0)
  else if code < 0x08 then (some (if signed m < signed x then x else m), 0)
  else if code < 0x0A then (some (if m.ult x then x else m), 0)
  else if code < 0x0C then (some (m &&& x), 0)
  else if code < 0x0E then (some (m ||| x), 0)
  else if code < 0x10 then (some (m ^^^ x), 0)
  else if code < 0x12 then (some x, 0)
  else if code < 0x14 then (if m = x then some (cut y) else none, 0)
  else if code = 0x14 then
    let (v, f) := faddLane fmtFP32 32 m.toNat x.toNat
    (some (BitVec.ofNat 64 v), f)
  else if code = 0x15 then
    let (a, f) := faddLane fmtBF16 16 (fld m 0 16) (fld x 0 16)
    let (b, g) := faddLane fmtBF16 16 (fld m 16 16) (fld x 16 16)
    (some (BitVec.ofNat 64 (a + 2 ^ 16 * b)), f ||| g)
  else if code < 0x18 then (some 0, 0)
  else if code < 0x1A then (none, 0)
  else (some x, 0)

/-- One atomic at a flat address: the old value, the flags, and the state after; none for an error response (R252). -/
def State.atomAt (s : State) (a code : Nat) (x y : Word) : Option (Word × FlagBits × State) :=
  match s.homeKind a with
  | .svl r => if !r.peer && !r.atomOps.testBit code then none else go
  | _ => go
where
  go : Option (Word × FlagBits × State) :=
    match s.readHomeAs true a with
    | none => none
    | some w =>
      let sh := 8 * (a % 8)
      let n := 8 * atomBytes code
      let old := (w >>> sh) &&& onesAt 0 n
      let s := s.noteRead a
      match atomCompute code old x y with
      | (none, f) => some (old, f, s)
      | (some v, f) =>
        match s.writeHome a (onesAt sh n) (v <<< sh) with
        | none => none
        | some s => some (old, f, s)

/-- The atomic flag word of frond `f` for a launch (R247, R350). -/
def Launch.flagWord (l : Launch) (f : Nat) : Nat := 2 * f * 2 ^ 36 + l.flagOff + 8 * f

/-- ATOMIC_FLAG_OR (R247): made only where a flag is raised; none where the flag word answers with an error. -/
def State.orFlags (s : State) (c f : Nat) (g : FlagBits) : Option State :=
  if g = 0 then some s
  else match s.launchOf c with
    | none => some s
    | some l => (s.atomAt (l.flagWord f) 0x0D (g.zeroExtend 64) 0).map fun x => x.2.2

/-! ## Packets -/

def findPacket (ps : List Packet) (n : Nat) : Option Packet := ps.find? fun p => p.id = n
def State.packet? (s : State) (n : Nat) : Option Packet := findPacket s.net n
def State.setPacket (s : State) (p : Packet) : State := { s with net := s.net.map fun q => if q.id = p.id then p else q }
def State.dropPacket (s : State) (n : Nat) : State := { s with net := s.net.filter fun q => q.id ≠ n }

/-- The aligned words that a packet accesses or has accessed. -/
def Packet.words (p : Packet) : List Nat :=
  p.parts.map (fun x => wordAddr x.addr) ++ p.got.map (·.1) ++
    match p.op with
    | .copy _ ds => ds.flatMap fun d => d.parts.map fun x => wordAddr x.addr
    | _ => []

/-- A request that writes or acts at its home (R283). -/
def PktOp.acts : PktOp → Bool
  | .ld .. | .ldb .. | .vldt .. | .topk .. | .value .. | .engRead .. => false
  | _ => true

/-- A counted packet of the Rhizome (R283). -/
def Packet.counted (p : Packet) : Bool := p.cross && p.op.acts

/-- A packet of a core's engines: a copy queue, the force unit or the matrix engine. -/
def PktOp.isEngine : PktOp → Bool
  | .engRead .. | .engWrite .. | .copy .. | .amax .. => true
  | _ => false

/-- A packet that writes: a Wr of R295, or words of an engine, which count as writes of its core (R308). -/
def Packet.writes (p : Packet) : Bool :=
  p.wr || match p.op with
    | .engWrite .. | .copy .. | .amax .. => true
    | _ => false

/-- The core's packets that it sent before `p`. -/
def State.olderThan (s : State) (p : Packet) : List Packet := s.net.filter fun q => q.src = p.src && q.id < p.id

/-- R288: a counted packet of core `c` has still to receive its assignment notice. -/
def State.unnoticed (s : State) (c : Nat) : Bool := (s.mine c).any fun q => q.counted && q.stamp.isNone && q.unperformed

/-- R298: a read of the core that is earlier in its program order has still to be performed. -/
def State.readsBefore (s : State) (p : Packet) : Bool :=
  (s.olderThan p).any fun q => q.rd && q.unperformed && decide (q.since < p.since)

def sharesWord (p q : Packet) : Bool := p.words.any q.words.contains

/-- The words that a plain store, or an AST, writes: what its core's later reads see before it is performed (R298). -/
def Packet.stored (p : Packet) : List Part :=
  match p.op with
  | .st _ => p.parts
  | .atom code x _ _ _ off =>
    if code = 0x1A ∨ code = 0x1B then
      let n := if code = 0x1A then 32 else 64
      p.parts.map fun w => { w with mask := onesAt (8 * off) n, data := (x &&& onesAt 0 n) <<< (8 * off) }
    else []
  | _ => []

/-- A read of the core, whose values its own earlier stores take part in (R102, R298). -/
def PktOp.seesStores : PktOp → Bool
  | .ld .. | .ldb .. | .vldt .. | .topk .. => true
  | _ => false

/-- A word as a read of the core sees it: the bits of its own earlier stores that are still to be performed over those of
memory, the latest last (R102, R298). -/
def State.seen (s : State) (p : Packet) (k : Nat) (w : Word) : Word :=
  if p.op.seesStores then
    ((s.olderThan p).filter (·.unperformed)).foldl (fun w q =>
      q.stored.foldl (fun w x => if wordAddr x.addr = k then (x.data &&& x.mask) ||| (w &&& ~~~x.mask) else w) w) w
  else w

/-- Two accesses of a core's own scratchpad that come one after the other at a word that they share: those of the core itself
in program order, but for a read after a store, whose value it sees (R248, R298); a word of an engine after the core's
accesses from before its operation, and before none (R150, R226, R308, log entry 90). -/
def Packet.ownAfter (p q : Packet) : Bool :=
  q.unperformed && !q.op.isEngine && decide (q.since < p.since) && !(p.op.seesStores && !q.stored.isEmpty) && sharesWord p q

/-- Packets that have left their network interface. -/
def Packet.inFlight (p : Packet) : Bool := p.stage != .held && p.stage != .ni && !p.own

/-- The words that the network interface of core `c` tracks (R281). -/
def State.tracked (s : State) (c : Nat) : List Nat :=
  ((s.net.filter fun q => q.src = c && q.inFlight).flatMap (·.words)).eraseDups

/-- R281: the interface has entries for a packet's words; a copy's delivery takes what is left of the 64. -/
def State.entriesFree (s : State) (p : Packet) : Bool :=
  match p.op with
  | .copy .. => (s.tracked p.src).length < 64
  | _ => (s.tracked p.src ++ p.words).eraseDups.length ≤ 64

/-- What keeps packet `p` in its network interface, or an access of the own scratchpad from taking effect, behind an earlier
packet `q` of its core: R281 (one packet to a word), R248 (the words of the own scratchpad), R288 (acknowledgements,
notices), R301 (writes after one that crosses fronds), R299 (reads of which one crosses fronds), and R91 (device memory). -/
def Packet.waitsFor (p q : Packet) : Bool :=
  (if p.own then p.ownAfter q else sharesWord p q) ||
    (p.cross && (q.inUsc || (q.wr && q.unperformed))) ||
    ((!p.own || p.op.acts) && q.counted && q.stamp.isNone && q.unperformed) ||
    (p.writes && q.wr && q.cross && q.unperformed && decide (q.since < p.since)) ||
    (p.rd && q.rd && (p.cross || q.cross)) ||
    (p.device && q.device)

/-- What lets a packet leave its network interface, or an access of the own scratchpad take effect: the waits above, R298
(earlier reads), and the 64 words of R281. -/
def State.mayLeave (s : State) (p : Packet) : Bool :=
  (!p.writes || !s.readsBefore p) && (s.olderThan p).all (fun q => !p.waitsFor q) && (p.own || s.entriesFree p)

/-- Where a packet waits when it is sent. -/
def State.placed (s : State) (p : Packet) : Packet :=
  if p.writes && s.readsBefore p then { p with stage := .held }
  else if s.mayLeave p then { p with stage := .torus } else { p with stage := .ni }

/-- R298: an LD whose bytes are all held back in its network interface as stores of its core is served there: the earlier
packets to its word are such stores, none of which has left. The word is given with its key. One of device memory is performed at its home (R91). -/
def State.fromStores (s : State) (p : Packet) : Option (Nat × Word) :=
  match p.op, p.parts with
  | .ld _ n _ off, [x] =>
    let k := wordAddr x.addr
    let m := onesAt (8 * off) (8 * n)
    let here := ((s.olderThan p).filter (sharesWord p)).all fun q => (q.stage == .held || q.stage == .ni) && !q.stored.isEmpty
    if !p.device && !p.own && here && s.seen p k 0 &&& m == s.seen p k (BitVec.allOnes 64) &&& m then some (k, s.seen p k 0)
    else none
  | _, _ => none

/-- An atomic, which `usc` counts as a store (R244, R377). -/
def PktOp.counts : PktOp → Bool
  | .atom .. | .tst .. => true
  | _ => false

/-- A packet of core `c`; its home is that of its first word. -/
def State.mkPacket (s : State) (c : Nat) (op : PktOp) (parts : List Part) (va : Word) (rd wr device : Bool) : Packet :=
  let a := (parts.headD ⟨0, 0, 0⟩).addr
  let h := s.homeKind a
  let own := h == .scratch c
  let dest := h.frond c
  { id := s.nextId, since := s.nextId, src := c, op := op, stage := .ni, parts := parts, got := [], va := va, pc := (s.core c).pc,
    bad := 0, logged := 0, device := device, dest := dest, cross := dest ≠ frondOf c, inUsc := (wr || op.counts) && !own, rd := rd,
    wr := wr, own := own, stamp := none, back := [], shared := false, evictions := 0, merged := [], flags := 0 }

/-- The SVL ports that a packet's words go through (R304, R422). -/
def State.portsOf (s : State) (p : Packet) : List Nat :=
  p.parts.filterMap fun w => match s.homeKind w.addr with
    | .svl r => some r.port
    | _ => none

/-- SVL ports that have carried a write of the core (R304). -/
def Core.carried (k : Core) (ports : List Nat) : Core :=
  { k with svlPorts := k.svlPorts ++ ports.filter fun n => !k.svlPorts.contains n }

/-- An ACAS, which is a write only where it compares equal (R295). -/
def PktOp.isCas : PktOp → Bool
  | .atom code .. => code == 0x12 || code == 0x13
  | _ => false

/-- A packet sent: its number is the next fresh one. A write counts in `usc` (R101); the SVL ports of one that writes have a
write to confirm (R304). -/
def State.send (s : State) (p : Packet) : State :=
  let p := s.placed p
  let ports := if p.writes && !p.op.isCas then s.portsOf p else []
  { s with net := s.net ++ [p], nextId := s.nextId + 1 }.modCore p.src fun k =>
    { k with usc := if p.inUsc then k.usc + 1 else k.usc }.carried ports

/-- R101: the count `usc` has no room for this packet. -/
def State.uscFull (s : State) (p : Packet) : Bool := p.inUsc && (s.core p.src).usc == 1023

/-- A result that its producer delivers to a g register later (R167): class of R169. -/
def State.sendValue (s : State) (c : Nat) (r : Reg) (cls : Nat) (v : Word) : State :=
  let p := s.mkPacket c (.value r cls v) [⟨scratchAddr c 0, 0, 0⟩] 0 false false false
  { s with net := s.net ++ [{ p with stage := .reply, parts := [], own := true }], nextId := s.nextId + 1 }

/-! ## Joins (R164) -/

/-- Whether an operation of core `k` has still to complete: a copy in its queue, its follow-on, or a matrix operation. -/
def Core.opPending (k : Core) (id : Nat) : Bool :=
  (k.queues.toList.any fun q => q.any fun
    | .copy o _ => o.id == id
    | .join _ => false) ||
  k.mqueue.any fun
    | .mma n _ => n == id
    | .mswap n _ => n == id
    | .mzero n _ => n == id
    | .mdrain n _ => n == id
    | .matmul n => n == id
    | .join _ => false

/-- Join markers at the head of a queue whose operations have completed leave it. -/
def Core.trimCopies (k : Core) : List CopyItem → List CopyItem
  | .join m :: r => if m.deps.any k.opPending then .join m :: r else k.trimCopies r
  | q => q

def Core.trimMatrix (k : Core) : List MatItem → List MatItem
  | .join m :: r => if m.deps.any k.opPending then .join m :: r else k.trimMatrix r
  | q => q

/-- R164: after an operation of core `c` completes, the joins and QWAITs that waited for it are released. -/
def State.settleJoins (s : State) (c : Nat) : State :=
  let s := s.modCore c fun k => { k with queues := k.queues.map k.trimCopies, mqueue := k.trimMatrix k.mqueue }
  let k := s.core c
  let (done, left) := k.qwaits.partition fun w => !w.deps.any k.opPending
  let s := s.modCore c fun k => { k with qwaits := left }
  done.foldl (fun s w => s.sendValue c w.d 3 (w.mask.zeroExtend 64)) s

/-! ## Performing a packet at its home -/

/-- The address by which a failing word of a packet is reported (R98). -/
def Packet.failVa (p : Packet) (flat : Nat) : Word :=
  match p.op with
  | .ldb .. | .st true | .vldt .. | .topk .. =>
    let off := flat - 2 ^ 52
    windowVa (off / 2 ^ 19) (off % 2 ^ 19 / 8 * 8)
  | .engRead _ _ t ws | .engWrite _ _ _ t ws => t.wordVa (ws.getD (ws.length - p.parts.length) 0)
  | _ => p.va

def Packet.failAt (p : Packet) (va : Word) : Packet :=
  { p with stage := .error, parts := [], bad := va, logged := va }

/-- The op-type code of R245 that a packet performs: its own, ASWAP.z64's for a TST, and AMAX.z32's for an amax merge. -/
def PktOp.atomCode : PktOp → Nat
  | .atom code .. => code
  | .tst .. => 0x11
  | _ => 0x08

def PktOp.operand : PktOp → Word × Word
  | .atom _ x y .. => (x, y)
  | .tst x _ => (x, 0)
  | .amax x _ => (x, 0)
  | _ => (0, 0)

/-- The ports of an ACAS that has compared equal, and so written, have a write to confirm (R295, R304). -/
def State.casWrote (s : State) (p : Packet) (old : Word) : State :=
  let (x, y) := p.op.operand
  if p.op.isCas && (atomCompute p.op.atomCode old x y).1.isSome then s.modCore p.src fun k => k.carried (s.portsOf p) else s

/-- The atomic of a packet performed (R245, R247): its reply holds the old value. A flag word that answers with an error
makes the reply an error response, with the step standing. -/
def State.performAtom (s : State) (p : Packet) : State :=
  match p.parts with
  | [] => s
  | w :: _ =>
    let (x, y) := p.op.operand
    match s.atomAt w.addr p.op.atomCode x y with
    | none => s.setPacket (p.failAt p.va)
    | some (old, g, s) =>
      let s := s.casWrote p old
      let p := { p with stage := .reply, parts := [], got := [(wordAddr w.addr, old)], flags := g }
      let h := s.homeKind w.addr
      match h with
      | .svl _ => s.setPacket p
      | _ =>
        let f := h.frond p.src
        match s.orFlags p.src f g with
        | some s => s.setPacket p
        | none =>
          let word := (s.launchOf p.src).elim 0 (·.flagWord f)
          s.setPacket { p.failAt p.va with logged := BitVec.ofNat 64 word }

/-- An atomic with those that routers merged into it, in order (R250, R251). -/
def State.performMerged (s : State) (p : Packet) : State :=
  p.merged.foldl (fun s n => match s.packet? n with | none => s | some q => s.performAtom { q with parts := p.parts })
    (s.performAtom p)

/-- One word access of a packet (R248). A read of the own scratchpad sees the core's own stores (R102, R298). -/
def State.performPart (s : State) (p : Packet) (w : Part) (rest : List Part) : State :=
  let go := fun (p : Packet) => { p with parts := rest, stage := if rest.isEmpty then .reply else p.stage }
  if w.mask = 0 then
    match s.readHome w.addr with
    | none => s.setPacket (p.failAt (p.failVa w.addr))
    | some v =>
      let v := if p.own then s.seen p (wordAddr w.addr) v else v
      (s.noteRead w.addr).setPacket (go { p with got := p.got ++ [(wordAddr w.addr, v)] })
  else
    match s.writeHome w.addr w.mask w.data with
    | none => s.setPacket (p.failAt (p.failVa w.addr))
    | some s => s.setPacket (go { p with got := p.got ++ [(wordAddr w.addr, 0)] })

/-- TSTAT's word (R144). -/
def LoftEntry.statWord (e : LoftEntry) (name : Word) : Word :=
  let st := match e.state with
    | .free => 0
    | .value => 1
    | .suspended => 2
    | .blackhole => 3
  let level := match e.level with
    | .S => 0
    | .H => 1
    | .X => 2
  let rest := if e.state = .free then 0
    else (e.cols - 1) * 2 ^ 24 + (e.rows - 1) * 2 ^ 12 + e.fmt.code * 2 ^ 7 + level * 2 ^ 5
  BitVec.ofNat 64 (e.gen.toNat * 2 ^ 36 + rest + (if e.gen = nameGen name then 2 ^ 4 else 0) + st)

/-- A loft request of TSTAT at its owner (R144). -/
def State.performStat (s : State) (p : Packet) (name : Word) : State :=
  let e := s.entry (nameOwner p.src name) (nameSlot name)
  s.setPacket { p with stage := .reply, got := [(0, e.statWord name)] }

/-- R155, the checks of a copy's destination at its loft when the copy starts: the reason that refuses it; `frame` is the tile
that was in evaluation when the copy was issued. -/
def State.destReason (s : State) (frame : Option (Nat × Nat)) (c : Nat) (n : Word) : Option Nat :=
  let t := nameOwner c n
  let e := s.entry t (nameSlot n)
  if e.gen ≠ nameGen n ∨ e.state = .free then some 0x07
  else if s.copyWritable frame c t (nameSlot n) then none else some 0x08

/-- R155: whether the tile of a name is stale or FREE, at the loft that core `c` finds. -/
def State.staleName (s : State) (c : Nat) (n : Word) : Bool :=
  let e := s.entry (nameOwner c n) (nameSlot n)
  e.gen != nameGen n || e.state == .free

/-- The next word of an engine's write. A word of a copy that arrives after its destination was freed is refused (R163). -/
def State.performWrite (s : State) (p : Packet) (w : Part) (rest : List Part) : State :=
  match p.op with
  | .engWrite (.copy _) _ name _ _ =>
    if s.staleName p.src name then s.setPacket { p with stage := .reply, parts := [], bad := 0x07 } else s.performPart p w rest
  | _ => s.performPart p w rest

/-- Writes that stop at the first error, with the words before it written (R161): the index of the word that failed. -/
def State.writeSome (s : State) : List Part → Option Nat × State
  | [] => (none, s)
  | w :: r =>
    match s.writeHome w.addr w.mask w.data with
    | none => (some 0, s)
    | some s => let (n, s) := s.writeSome r; (n.map (· + 1), s)

/-- A delivery at its destination: the reason that refuses it, logged where a home answers with an error (R98). -/
def State.deliver (s : State) (p : Packet) (d : Delivery) : Option Nat × State :=
  if s.staleName p.src d.name then (some 0x07, s)
  else
    match s.writeSome d.parts with
    | (none, s) => (none, s)
    | (some i, s) => (some 0x0A, s.logError p.src (d.tile.wordVa (d.ws.getD i 0)) p.pc)

/-- A copy's data applied at another frond as one event (R163, R289): a destination that was freed before its packets arrive is
refused. -/
def State.performCopy (s : State) (p : Packet) (ds : List Delivery) : State :=
  let (bad, s) := ds.foldl (fun (bad, s) d =>
    match s.deliver p d with
    | (some r, s) => (bad ++ [(d.dest, r)], s)
    | (none, s) => (bad, s)) (([] : List (Nat × Nat)), s)
  s.setPacket { p with stage := .reply, got := bad.map fun e => (e.1, BitVec.ofNat 64 e.2) }

/-- A packet performed whole, as the Rhizome applies it (R285). -/
def State.performWhole (s : State) (n : Nat) : Nat → State
  | 0 => s
  | fuel + 1 =>
    match s.packet? n with
    | none => s
    | some p =>
      match p.op, p.parts with
      | .atom .., _ => s.performAtom p
      | .tst .., _ => s.performAtom p
      | .amax .., _ => s.performAtom p
      | .tstat _ name, _ => s.performStat p name
      | .copy _ ds, _ => s.performCopy p ds
      | _, [] => if p.stage = .error then s else s.setPacket { p with stage := .reply }
      | _, w :: r => (s.performWrite p w r).performWhole n fuel

/-! ## Steps of packets on their own frond -/

/-- R281, R248: no access of the core that comes before this one at its words has still to be performed. -/
def State.firstToWords (s : State) (p : Packet) : Bool :=
  (s.olderThan p).all fun q => !(if p.own then p.ownAfter q else q.unperformed && sharesWord p q)

/-- R289: a word lies in the destination range of a copy whose event has begun there; other accesses are held. -/
def State.landsOn (s : State) (words : List Nat) : Bool :=
  s.net.any fun q => q.stage == .landing && q.words.any words.contains

/-- Whether a packet that has reached its home on its own frond may act there. -/
def State.atHome (s : State) (p : Packet) : Bool :=
  p.stage == .torus && !p.cross && s.firstToWords p && !s.landsOn p.words

/-- HOME_ACCESS (R248): the next word of a read or write. -/
def State.homeAccess (s : State) (n : Nat) : State :=
  match s.packet? n with
  | none => s
  | some p =>
    if !s.atHome p then s
    else match p.op with
      | .ld .. | .ldb .. | .st _ | .vldt .. | .topk .. | .engRead .. | .engWrite .. =>
        match p.parts with
        | [] => s.setPacket { p with stage := .reply }
        | w :: r => s.performWrite p w r
      | _ => s

def execHomeAccess (n : Nat) (s : State) : Out := .next (s.homeAccess n)

/-- ATOMIC_AT_HOME (R245). -/
def State.atomicAtHome (s : State) (n : Nat) : State :=
  match s.packet? n with
  | none => s
  | some p =>
    if !s.atHome p then s
    else match p.op with
      | .atom .. | .tst .. | .amax .. => s.performMerged p
      | _ => s

def execAtomicAtHome (n : Nat) (s : State) : Out := .next (s.atomicAtHome n)

/-- R250: the op-types that routers merge. -/
def mergeable (code : Nat) : Bool := code < 0x10

def State.mayMerge (p q : Packet) : Bool :=
  p.stage == .torus && q.stage == .torus && !p.cross && !q.cross && !p.own && !q.own && p.id != q.id &&
    p.parts.map (·.addr) == q.parts.map (·.addr) &&
    match p.op, q.op with
    | .atom a .., .atom b .. => a == b && mergeable a
    | _, _ => false

/-- ROUTER_MERGE (R250): packet `m` rides on packet `n`; requests of one source stay in program order. -/
def State.routerMerge (s : State) (n m : Nat) : State :=
  match s.packet? n, s.packet? m with
  | some p, some q =>
    if State.mayMerge p q && !(p.src == q.src && q.id < p.id) then
      (s.setPacket { p with merged := p.merged ++ m :: q.merged }).setPacket { q with stage := .merged, merged := [] }
    else s
  | _, _ => s

def execRouterMerge (n m : Nat) (s : State) : Out := .next (s.routerMerge n m)

/-- HELD_WRITE_RELEASE (R298). -/
def State.heldRelease (s : State) (n : Nat) : State :=
  match s.packet? n with
  | none => s
  | some p => if p.stage = .held && !s.readsBefore p then s.setPacket (s.placed p) else s

def execHeldWriteRelease (n : Nat) (s : State) : Out := .next (s.heldRelease n)

/-- NI_PACKET_RELEASE (R281, R288, R299): the packet leaves, or an LD is served from the stores that the interface holds
(R298). -/
def State.niRelease (s : State) (n : Nat) : State :=
  match s.packet? n with
  | none => s
  | some p =>
    if p.stage ≠ .ni then s
    else if s.mayLeave p then s.setPacket { p with stage := .torus }
    else match s.fromStores p with
      | some w => s.setPacket { p with stage := .reply, parts := [], got := [w] }
      | none => s

def execNiPacketRelease (n : Nat) (s : State) : Out := .next (s.niRelease n)

/-- R279: the class of a request: 0 for the data of the copy engine, which the force unit shares, else 1. -/
def PktOp.classOf : PktOp → Nat
  | .copy .. | .engRead .. | .engWrite .. => 0
  | _ => 1

/-- A packet of class 2 or 3 that may find no slot (R279). -/
def State.mayEvict (s : State) : Evictor → Bool
  | .packet n =>
    match s.packet? n with
    | some p => !p.own && (p.stage == .reply || p.stage == .error || p.stage == .evicted || p.stage == .nacked)
    | none => false
  | .channel l g =>
    match s.launch? l with
    | some l => l.groups.any fun e => e.1 == g && !e.2.queue.isEmpty
    | none => false
  | .preempt l => (s.launch? l).any fun l => l.state == .preempting
  | .management => true

/-- A request of a class that holds a slot of a ring port, and may be evicted (R280). -/
def Packet.evictable (cls : Nat) (q : Packet) : Bool :=
  q.stage == .torus && q.op.classOf == cls && q.evictions < 4

/-- The packet that leaves a buffer whose packets are given in the order in which they came: the newest of the lowest class
(R280). -/
def evictVictim (ps : List Packet) : Option Packet :=
  (ps.reverse.find? (·.evictable 0)).or (ps.reverse.find? (·.evictable 1))

/-- The packets of a ring port's buffer of at most 12 slots (R276); none where they are not such packets. -/
def State.buffer (s : State) (b : List Nat) : Option (List Packet) :=
  let ps := b.filterMap s.packet?
  if ps.length = b.length ∧ b.length ≤ 12 ∧ b.eraseDups = b ∧
      ps.all (fun p => !p.own && (p.stage == .torus || p.stage == .reply || p.stage == .error)) then some ps
  else none

/-- PACKET_EVICTION (R280): packet `w` finds no slot in buffer `b`. -/
def State.evict (s : State) (w : Evictor) (b : List Nat) : State :=
  if !s.mayEvict w then s
  else match (s.buffer b).bind evictVictim with
    | some q => s.setPacket { q with stage := .evicted, evictions := q.evictions + 1 }
    | none => s

def execPacketEviction (w : Evictor) (b : List Nat) (s : State) : Out := .next (s.evict w b)

/-- NACK_RESEND (R280). -/
def State.nackResend (s : State) (n : Nat) : State :=
  match s.packet? n with
  | none => s
  | some p => if p.stage = .evicted then s.setPacket { p with stage := .torus } else s

def execNackResend (n : Nat) (s : State) : Out := .next (s.nackResend n)

/-! ## The Rhizome (R282 to R289) -/

def State.setCount (s : State) (f d i : Nat) (v : BitVec 16) : State :=
  { s with counts := mapSet s.counts (64 * f + 8 * d + i) v }

/-- The larger of two counts (R282). -/
def countMax (a b : BitVec 16) : BitVec 16 := if countLe a b then b else a

/-- Frond `f`'s matrix, keyed 8d + i (R282). -/
def State.matrix (s : State) (f : Nat) : SMap (BitVec 16) :=
  s.counts.filterMap fun e => if e.1 / 64 = f then some (e.1 % 64, e.2) else none

/-- Every count of a matrix merged into frond `f`'s by taking the larger; the rows of counts applied at `f` itself are
its own, and those of a retired frond are gone (R285, R290, R291). -/
def State.mergeMatrix (s : State) (f : Nat) (m : SMap (BitVec 16)) : State :=
  m.foldl (fun s e =>
    if e.1 / 8 = f ∨ s.retired.contains (e.1 / 8) ∨ s.retired.contains (e.1 % 8) then s
    else s.setCount f (e.1 / 8) (e.1 % 8) (countMax (s.count f (e.1 / 8) (e.1 % 8)) e.2)) s

/-- R286: the window; R289: a copy waits until the count before its own has been applied; R292: a rebase. -/
def State.mayStamp (s : State) (p : Packet) : Bool :=
  let f := frondOf p.src
  let last := s.count f p.dest f
  let ack := mapGet 0 s.acked (8 * f + p.dest)
  let next := last + 1
  p.stage == .torus && p.cross &&
    (!p.counted || (!s.rebasing && (next - ack).toNat ≤ 512 &&
      match p.op with | .copy .. => ack == last | _ => true))

/-- The stamp of a packet from frond `f` to frond `d`, with its count taken where it is counted (R283, R284). -/
def State.stampFor (s : State) (f d : Nat) (cnt : Bool) : Stamp :=
  { cnt := cnt, src := f, own := s.count f d f,
    dep := (List.range 7).map fun j =>
      let i := if j < f then j else j + 1
      if i = d then 0 else (s.count f d i).setWidth 10,
    mat := s.matrix f }

def State.stampOf (s : State) (f : Nat) (p : Packet) : Stamp := s.stampFor f p.dest p.counted

/-- Frond `f` takes its next count toward frond `d` (R283). -/
def State.takeCount (s : State) (f d : Nat) : State := s.setCount f d f (s.count f d f + 1)

/-- A packet discarded at the port: one to a retired frond, or from one (R291). -/
def State.portDiscard (s : State) (p : Packet) : Option State :=
  if p.stage ≠ .torus ∨ !p.cross then none
  else if s.retired.contains p.dest then some ((s.discard p.dest p 0x02).dropPacket p.id)
  else if s.retired.contains (frondOf p.src) then some ((s.discard (frondOf p.src) p 0x01).dropPacket p.id)
  else none

/-- RHIZOME_STAMP (R283, R284): the packet enters the port toward its home's frond. -/
def State.rhizomeStamp (s : State) (n : Nat) : State :=
  match s.packet? n with
  | none => s
  | some p =>
    match s.portDiscard p with
    | some s => s
    | none =>
      if !s.mayStamp p then s
      else
        let f := frondOf p.src
        let s := if p.counted then s.takeCount f p.dest else s
        s.setPacket { p with stage := .stamped, stamp := some (s.stampOf f p) }

def execRhizomeStamp (n : Nat) (s : State) : Out := .next (s.rhizomeStamp n)

/-- R285: a stamped packet is applicable at its destination. While the survivors rebase, the counts before its own may have
been discarded (R292). -/
def State.applicable (s : State) (d : Nat) (x : Stamp) : Bool :=
  let k := s.count d d x.src
  (List.range 8).all (fun i => s.depMet x d i) &&
    if x.cnt then x.own == k + 1 || (s.rebasing && !countLe x.own k && !s.onTheWay x.src d (x.own - 1))
    else s.reached d x.src x.own

/-- Packets of a source that a frond's early buffer holds (R287). -/
def State.buffered (s : State) (d : Nat) : List Packet := s.net.filter fun q => q.stage = .early && q.dest = d

def Packet.stampSrc (p : Packet) : Nat := p.stamp.elim 8 (·.src)
def Packet.stampOwn (p : Packet) : BitVec 16 := p.stamp.elim 0 (·.own)
def Packet.stampCnt (p : Packet) : Bool := p.stamp.elim false (·.cnt)

/-- The packet that step 3 of R287 discards for a counted arrival: a read before a counted packet, the largest OWN of its
kind. -/
def earlyVictim (same : List Packet) (own : BitVec 16) : Option Packet :=
  let largest := fun ps : List Packet => ps.foldl (fun (best : Option Packet) q =>
    match best with
    | none => some q
    | some b => if countLe b.stampOwn q.stampOwn then some q else some b) none
  match largest (same.filter fun q => !q.stampCnt) with
  | some q => some q
  | none => largest (same.filter fun q => q.stampCnt && q.stampOwn != own && countLe own q.stampOwn)

/-- R287: where a packet that is not applicable is placed among those that a frond's early buffer holds: a reserved slot
of its source, a shared one, the slot of a packet that it displaces, or none. -/
inductive EarlySlot where
  | taken (shared : Bool)
  | displaces (q : Packet)
  | nack

def earlySlot (held : List Packet) (x : Stamp) : EarlySlot :=
  let same := held.filter fun q => q.stampSrc = x.src
  if same.countP (fun q => !q.shared) < 24 then .taken false
  else if held.countP (·.shared) < 64 then .taken true
  else match (if x.cnt then earlyVictim same x.own else none) with
    | some q => .displaces q
    | none => .nack

/-- The copies whose events have begun at a frond: its landing entries in use (R289). -/
def State.landings (s : State) (d : Nat) : Nat := s.net.countP fun q => q.stage == .landing && q.dest == d

def PktOp.isCopy : PktOp → Bool
  | .copy .. => true
  | _ => false

/-- Packets that became applicable together are applied in ascending SRC, then OWN (R285). -/
def State.appliesFirst (s : State) (p : Packet) (x : Stamp) : Bool :=
  (s.buffered p.dest).all fun q =>
    match q.stamp with
    | none => true
    | some y =>
      q.id == p.id || p.stage != .early || !s.applicable p.dest y ||
        decide (x.src < y.src) || (x.src == y.src && countLe x.own y.own)

/-- RHIZOME_ARRIVAL (R287, R289): a packet that is not applicable takes a place in the early buffer, or is NACKed; the header
of a copy that is applicable takes one of the frond's 16 landing entries, or is NACKed. -/
def State.rhizomeArrival (s : State) (n : Nat) : State :=
  match s.packet? n with
  | none => s
  | some p =>
    match p.stamp with
    | none => s
    | some x =>
      if p.stage ≠ .stamped ∧ p.stage ≠ .early then s
      else if s.applicable p.dest x then
        if !p.op.isCopy || !s.appliesFirst p x then s
        else if s.landings p.dest < 16 then s.setPacket { p with stage := .landing }
        else s.setPacket { p with stage := .nacked }
      else if p.stage = .early then s
      else match earlySlot (s.buffered p.dest) x with
        | .taken b => s.setPacket { p with stage := .early, shared := b }
        | .displaces q =>
          (s.setPacket { q with stage := .nacked }).setPacket { p with stage := .early, shared := q.shared }
        | .nack => s.setPacket { p with stage := .nacked }

def execRhizomeArrival (n : Nat) (s : State) : Out := .next (s.rhizomeArrival n)

/-- RHIZOME_RESEND (R287). -/
def State.rhizomeResend (s : State) (n : Nat) : State :=
  match s.packet? n with
  | none => s
  | some p => if p.stage = .nacked then s.setPacket { p with stage := .stamped } else s

def execRhizomeResend (n : Nat) (s : State) : Out := .next (s.rhizomeResend n)

/-- Whether a stamped packet's turn at its home has come: a copy's once its event has begun there, another's when no such
event holds its words (R285, R289). -/
def State.mayApply (s : State) (p : Packet) (x : Stamp) : Bool :=
  s.applicable p.dest x && s.appliesFirst p x &&
    if p.op.isCopy then p.stage == .landing else (p.stage == .stamped || p.stage == .early) && !s.landsOn p.words

/-- The counts that a reply carries: those of the home's frond when the packet was performed (R285). -/
def State.noteBack (s : State) (n d : Nat) : State :=
  match s.packet? n with
  | none => s
  | some p => s.setPacket { p with back := s.matrix d }

/-- The count of an applied packet, and what it carries of other fronds' counts, are known at its destination (R285, R290). -/
def State.applied (s : State) (d : Nat) (x : Stamp) : State :=
  (if x.cnt then s.setCount d d x.src x.own else s).mergeMatrix d x.mat

/-- RHIZOME_APPLY (R285, R289): an applicable packet is performed at its home, and the applied count advances. `act` is the
step of a core's force unit at a loft. -/
def State.rhizomeApply (s : State) (act : State → Nat → State) (n : Nat) : State :=
  match s.packet? n with
  | none => s
  | some p =>
    match p.stamp with
    | none => s
    | some x =>
      if !s.mayApply p x then s
      else
        let s := match p.op with
          | .loft => (act s p.src).setPacket { p with stage := .reply }
          | _ => s.performWhole n (p.parts.length + 2)
        (s.applied p.dest x).noteBack n p.dest

/-- What a reply across the Rhizome brings back: the counts of the destination (R285), and for a counted packet the
applied count (R286). -/
def State.replied (s : State) (d : Nat) (x : Stamp) (back : SMap (BitVec 16)) : State :=
  let s := s.mergeMatrix x.src back
  if x.cnt then
    let k := 8 * x.src + d
    { s with acked := mapSet s.acked k (countMax (mapGet 0 s.acked k) x.own) }
  else s

def State.replyCounts (s : State) (p : Packet) : State :=
  match p.stamp with
  | none => s
  | some x => s.replied p.dest x p.back

/-! ### Accesses that a sequence makes at another frond at once (log entry 91) -/

/-- The stamp that an access from frond `f` to frond `d` would have now. -/
def State.stampNow (s : State) (f d : Nat) (cnt : Bool) : Stamp :=
  (if cnt then s.takeCount f d else s).stampFor f d cnt

/-- A stamp made now is applicable at once, and the window and a rebase allow it (R285, R286, R292). -/
def State.farReady (s : State) (f d : Nat) (cnt : Bool) : Bool :=
  let x := s.stampNow f d cnt
  s.applicable d x && (!cnt || (!s.rebasing && decide ((x.own - mapGet 0 s.acked (8 * f + d)).toNat ≤ 512)))

/-- The counts after an access from frond `f` that has been stamped, applied at frond `d` and answered (R283, R285, R286). -/
def State.farCounts (s : State) (f d : Nat) (cnt : Bool) : State :=
  let x := s.stampNow f d cnt
  let s := (if cnt then s.takeCount f d else s).applied d x
  s.replied d x (s.matrix d)

/-- What such an access meets: it may be performed, with its counts taken; it has to wait; or it is discarded, since its
frond or the home's has retired (R291). -/
inductive Far where
  | here (s : State)
  | wait
  | lost (s : State)

/-- An access of core `c` at flat address `pa`, counted where it writes or acts (R283). -/
def State.far (s : State) (c pa : Nat) (cnt : Bool) : Far :=
  let f := frondOf c
  let d := (s.homeKind pa).frond c
  let lose := fun (reason q : Nat) => s.modCore c fun k => k.addPending .rhizomeDiscard (discardVal reason d q) s.nextId
  if d = f then .here s
  else if s.retired.contains d then .lost (lose 0x02 d)
  else if s.retired.contains f then .lost (lose 0x01 f)
  else if s.farReady f d cnt then .here (s.farCounts f d cnt) else .wait

/-! ## Replies -/

/-- A packet has been answered: it leaves the network, and `usc` falls (R101, R244). -/
def State.answered (s : State) (p : Packet) : State :=
  let s := (s.replyCounts p).dropPacket p.id
  s.modCore p.src fun k =>
    { k with usc := if p.inUsc then k.usc - 1 else k.usc, holdAtom := k.holdAtom.filter (· ≠ p.id),
             holdFence := k.holdFence.filter (· ≠ p.id) }

/-- An access error of a core (R98, R252): logged, and ACCESS_VIOLATION pending; `born` numbers the access. One of work that
a spark's frame issued is absorbed with the frame (R270). -/
def State.accessError (s : State) (c : Nat) (va logged pc : Word) (born : Nat := 0) : State :=
  let s := s.logError c logged pc
  s.modCore c fun k =>
    if k.absorbs born then { k with force := { k.force with absorbing := true } }
    else k.addPending .accessViolation va born

/-- A word of an MDRAIN has been acknowledged. -/
def MatItem.wrote (id : Nat) : MatItem → MatItem
  | .mdrain n o => .mdrain n { o with flying := o.flying.filter (· ≠ id) }
  | x => x

/-- A copy's packet answered: what `f` makes of the progress of the copy that waits for it. -/
def CopyItem.answer (id : Nat) (f : CopyRun → CopyRun) : CopyItem → CopyItem
  | .copy o r => if r.flying.contains id then .copy o (f { r with flying := r.flying.filter (· ≠ id) }) else .copy o r
  | .join m => .join m

def Core.copyAnswered (k : Core) (id : Nat) (f : CopyRun → CopyRun) : Core :=
  { k with queues := k.queues.map (List.map (CopyItem.answer id f)) }

/-- A force unit's packet answered. -/
def Core.forceAnswered (k : Core) (id : Nat) (f : ForceUnit → ForceUnit) : Core :=
  if k.force.flying.contains id then { k with force := f { k.force with flying := k.force.flying.filter (· ≠ id) } } else k

/-- A copy's destination `i` refused. -/
def CopyRun.refuse (r : CopyRun) (i reason : Nat) : CopyRun :=
  { r with failmask := r.failmask ||| 2 ^ i, dreasons := mapSet r.dreasons i reason }

/-- An error response at a copy's source (R161). -/
def CopyRun.badSource (r : CopyRun) : CopyRun := if r.reason = 0 then { r with reason := 0x06 } else r

/-- An error response to an engine (R98, R161, R271): logged; a copy's source or destination fails, or the chain does. -/
def State.engineError (s : State) (p : Packet) (e : Engine) (f : CopyRun → CopyRun) : State :=
  let s := ((s.answered p).logError p.src p.logged p.pc)
  s.modCore p.src fun k =>
    match e with
    | .copy _ => k.copyAnswered p.id f
    | .force => k.forceAnswered p.id fun u => if u.failed.isSome then u else { u with failed := some p.bad }
    | .matrix => k

/-- An error response to a word of an MDRAIN, or to its amax merge (R98, R236). -/
def State.drainError (s : State) (p : Packet) : State :=
  ((s.answered p).accessError p.src p.bad p.logged p.pc p.since).modCore p.src fun k => k.drainFailed p.id

def State.errorResponse (s : State) (n : Nat) : State :=
  match s.packet? n with
  | none => s
  | some p =>
    if p.stage ≠ .error then s
    else match p.op with
      | .engRead e .. => s.engineError p e CopyRun.badSource
      | .engWrite .matrix .. | .amax .. => s.drainError p
      | .engWrite e d .. => s.engineError p e fun r => r.refuse d 0x0A
      | _ => (s.answered p).accessError p.src p.bad p.logged p.pc p.id

/-- ERROR_RESPONSE (R98). -/
def execErrorResponse (n : Nat) (s : State) : Out := .next (s.errorResponse n)

/-- The bits a reply to LD or LDB holds. -/
def Packet.gotBits (p : Packet) (pos w : Nat) : Word :=
  BitVec.ofNat 64 (((p.got.map (·.2)).foldr (fun x acc => x.toNat + 2 ^ 64 * acc) 0) / 2 ^ pos % 2 ^ w)

/-- A tile slice from its words (R184, R188): the lanes and the flags that the active ones raise. -/
def Slice.lanes (sl : Slice) (got : List (Nat × Word)) : VReg × FlagBits :=
  let t := sl.tile
  let rd := fun i => byteOf (mapGet 0 got (scratchAddr t.core (t.base.toNat + i / 8 * 8))) (i % 8)
  (List.range 32).foldl (fun (x, g) i =>
    let (r, c) := if sl.byRow then (sl.row, sl.col + i) else (sl.row + i, sl.col)
    if !sl.active.getLsbD i then (if sl.mz then x.set! i 0 else x, g)
    else if r < t.rows ∧ c < t.cols then
      let raw := readBits rd (t.fmt.elemBit t.cols r c) t.fmt.width
      let draw := srDraw sl.mode sl.srkey (t.row0 + r) (t.col0 + c) t.stream
      let (v, f) := laneOfElem t.fmt sl.mode draw raw (decodeElem t.fmt t.cols rd r c)
      (x.set! i v, g ||| f)
    else (x.set! i 0, g)) (sl.old, 0)

/-- R201: the key of an element, ordered by value. -/
def topkKey (f : Fmt) (bits : Nat) : Nat :=
  let w := f.width
  if f.isSigned then (bits + 2 ^ (w - 1)) % 2 ^ w
  else if f.isUnsigned then bits
  else if bits.testBit (w - 1) then 2 ^ w - 1 - bits else bits + 2 ^ (w - 1)

/-- R201: the selection, from bit W − 1 down. -/
def topkSelect (key : Nat → Nat) : Nat → Nat → List Nat → List Nat → List Nat
  | 0, need, s, c => s ++ c.take need
  | bit + 1, need, s, c =>
    let ones := c.filter fun i => (key i).testBit bit
    if need ≤ ones.length then topkSelect key bit need s ones
    else topkSelect key bit (need - ones.length) (s ++ ones) (c.filter fun i => !(key i).testBit bit)

/-- TOPK's lanes (R201). -/
def TopkReq.lanes (q : TopkReq) (got : List (Nat × Word)) : VReg :=
  let t := q.tile
  let rd := fun i => byteOf (mapGet 0 got (scratchAddr t.core (t.base.toNat + i / 8 * 8))) (i % 8)
  let key := fun c => topkKey t.fmt (readBits rd (t.fmt.elemBit t.cols q.row c) t.fmt.width)
  let cols := (List.range q.n).map (q.col + ·)
  let chosen := topkSelect key t.fmt.width (min q.k q.n) [] cols
  let sorted := cols.filter chosen.contains
  Vector.ofFn fun i => if h : i.val < sorted.length then BitVec.ofNat 32 sorted[i.val] else 0xFFFFFFFF

/-- R247: an AFADD over SVL makes its OR when the reply arrives; the state, or an error response at the flag word. -/
def State.lateFlags (s : State) (p : Packet) : Option State :=
  match p.op with
  | .atom code .. =>
    if code = 0x14 ∨ code = 0x15 then
      match s.homeKind ((p.got.headD (0, 0)).1) with
      | .svl _ => s.orFlags p.src (frondOf p.src) p.flags
      | _ => some s
    else some s
  | _ => some s

/-- An atomic's reply that meets an error at the flag word. -/
def State.flagError (s : State) (p : Packet) : State :=
  let word := (s.launchOf p.src).elim 0 (·.flagWord (frondOf p.src))
  (s.answered p).accessError p.src p.va (BitVec.ofNat 64 word) p.pc p.id

/-- The word of a reply's first read. -/
def Packet.gotWord (p : Packet) : Word := (p.got.headD (0, 0)).2

/-- The words of an engine's reply, keyed 2^32 × party + word. -/
def engineWords (party : Nat) (ws : List Nat) (p : Packet) (got : SMap Word) : SMap Word :=
  (ws.zip (p.got.map (·.2))).foldl (fun m e => mapSet m (2 ^ 32 * party + e.1) e.2) got

/-- A copy's source words have arrived. -/
def CopyRun.receive (f : SMap Word → SMap Word) (r : CopyRun) : CopyRun :=
  match r.phase with
  | .reading g got ds => { r with phase := .reading g (f got) ds }
  | _ => r

/-- A reply to an engine's read. -/
def State.engineGot (s : State) (p : Packet) (e : Engine) (party : Nat) (ws : List Nat) : State :=
  (s.answered p).modCore p.src fun k =>
    match e with
    | .copy _ => k.copyAnswered p.id (CopyRun.receive (engineWords party ws p))
    | .force => k.forceAnswered p.id fun u => { u with got := engineWords party ws p u.got }
    | .matrix => k

/-- REGISTER_FILL (R169): a reply with a value delivers it to its register. -/
def State.registerFill (s : State) (n : Nat) : State :=
  match s.packet? n with
  | none => s
  | some p =>
    if p.stage ≠ .reply then s
    else match p.op with
      | .ld r w signed off =>
        let x := p.gotBits (8 * off) (8 * w)
        let x := if signed then (x <<< (64 - 8 * w)).sshiftRight (64 - 8 * w) else x
        (s.answered p).modCore p.src fun k => k.fillG r 1 x p.id
      | .ldb r pos w => (s.answered p).modCore p.src fun k => k.fillG r 1 (p.gotBits pos w) p.id
      | .vldt r sl =>
        let (x, g) := sl.lanes p.got
        (s.answered p).modCore p.src fun k => (k.raise g).fillV r x p.id
      | .topk r q =>
        (s.answered p).modCore p.src fun k =>
          let k := if q.n < q.k then k.raiseVstat vstatTshort else k
          k.fillV r (q.lanes p.got) p.id
      | .tstat r _ => (s.answered p).modCore p.src fun k => k.fillG r 4 p.gotWord p.id
      | .atom code _ _ false r _ =>
        match s.lateFlags p with
        | none => s.flagError p
        | some s => (s.answered p).modCore p.src fun k => (k.raise p.flags).fillG r 2 (atomReply code p.gotWord) p.id
      | .value r cls v => (s.answered p).modCore p.src fun k => k.fillG r cls v p.id
      | .engRead e party _ ws => s.engineGot p e party ws
      | _ => s

def execRegisterFill (n : Nat) (s : State) : Out := .next (s.registerFill n)

/-- The port that a write of core `c` to a flat address goes through has carried it (R304). -/
def State.carries (s : State) (c pa : Nat) : State :=
  match s.homeKind pa with
  | .svl r => s.modCore c fun k => k.carried [r.port]
  | _ => s

/-- R288: an earlier packet of `p`'s core that a packet to another frond waits for. -/
def State.farWaits (s : State) (p : Packet) : Bool :=
  (s.olderThan p).any fun q => q.inUsc || (q.wr && q.unperformed) || (q.counted && q.stamp.isNone && q.unperformed)

/-- A word of a swath entry written for packet `p`; whether its home took it. -/
def State.swathWord (s : State) (p : Packet) (h : Nat) (w : Word) : Bool × State :=
  match s.writeHome h (BitVec.allOnes 64) w with
  | some s => (true, s.carries p.src h)
  | none => (false, s)

/-- R371, R377: a TST's reply writes the word's address and the old value to its swath entry, KIND 0x1; an error there is
reported under R98, at the entry's address. One whose words lie on another frond may have to wait: none. -/
def State.swathEntry (s : State) (p : Packet) : Option (Word × Nat × Nat) → Option State
  | none => some s
  | some (va, h0, h1) =>
    match s.far p.src h0 true with
    | .wait => none
    | .lost s => some s
    | .here s1 =>
      match s1.far p.src h1 true with
      | .wait => none
      | .lost s => some s
      | .here s2 =>
        if (s.homeKind h0).frond p.src ≠ frondOf p.src ∧ s.farWaits p then none
        else
          let (a, t) := s2.swathWord p h0 (p.va ||| (1#64 <<< 60))
          let (b, t) := t.swathWord p h1 p.gotWord
          some (if a && b then t else t.accessError p.src va va p.pc p.id)

/-- Destinations that a copy's delivery found refused (R161). -/
def CopyRun.refuseEach (bad : List (Nat × Word)) (r : CopyRun) : CopyRun :=
  bad.foldl (fun r e => r.refuse e.1 e.2.toNat) r

/-- An MDRAIN's amax merge has been acknowledged: the drain is complete, and fills g[d] (R226, R235). -/
def Core.drainMerged (k : Core) (id : Nat) : Core :=
  match k.mqueue with
  | .mdrain n o :: rest =>
    if o.merge = some id then { k.fillG o.d 8 1 n with mqueue := rest } else k
  | _ => k

/-- An engine's write has been acknowledged, or refused (R161). -/
def State.engineWrote (s : State) (p : Packet) (e : Engine) (d : Nat) : State :=
  (s.answered p).modCore p.src fun k =>
    match e with
    | .copy _ => k.copyAnswered p.id fun r => if p.bad = 0 then r else r.refuse d p.bad.toNat
    | .force => k.forceAnswered p.id id
    | .matrix => { k with mqueue := k.mqueue.map (MatItem.wrote p.id) }

/-- STORE_ACK (R101, R244): an acknowledgement arrives. The words that a TST's reply writes wait for a copy's event that
holds them (R289). -/
def State.storeAck (s : State) (n : Nat) : State :=
  match s.packet? n with
  | none => s
  | some p =>
    if p.stage ≠ .reply then s
    else match p.op with
      | .st _ => s.answered p
      | .atom _ _ _ true _ _ =>
        match s.lateFlags p with
        | none => s.flagError p
        | some s => s.answered p
      | .tst _ entry =>
        if s.landsOn (entry.elim [] fun x => [wordAddr x.2.1, wordAddr x.2.2]) then s
        else ((s.answered p).swathEntry p entry).getD s
      | .amax _ _ => ((s.answered p).modCore p.src fun k => k.drainMerged p.id).settleJoins p.src
      | .copy _ _ => (s.answered p).modCore p.src fun k => k.copyAnswered p.id (CopyRun.refuseEach p.got)
      | .engWrite e d .. => s.engineWrote p e d
      | .loft => (s.answered p).modCore p.src fun k => k.forceAnswered p.id id
      | _ => s

def execStoreAck (n : Nat) (s : State) : Out := .next (s.storeAck n)

/-! ## Packets of the engines (R91, R163, R281 to R288) -/

/-- A word that an engine accesses: its index in the tile, whether its page is device memory, and the access. -/
structure EngWord where
  w      : Nat
  device : Bool
  part   : Part

/-- The words of an engine's access as they go into packets: runs of at most eight words of one home; a word of device
memory alone (R91). -/
def State.packed (s : State) (xs : List EngWord) : List (List EngWord) :=
  xs.foldr (fun x acc =>
    match acc with
    | (y :: ys) :: r =>
      if !x.device && !y.device && ys.length < 7 && s.homeKind x.part.addr == s.homeKind y.part.addr then
        (x :: y :: ys) :: r
      else [x] :: (y :: ys) :: r
    | _ => [x] :: acc) []

/-- The packets of an engine of core `c` sent, for an operation at `pc` with its place `since` in program order (R308): their
numbers. -/
def State.sendEngine (s : State) (c : Nat) (pc : Word) (since : Nat) (op : List Nat → PktOp) (xs : List EngWord) :
    List Nat × State :=
  (s.packed xs).foldl (fun (ids, s) ch =>
    let p := s.mkPacket c (op (ch.map (·.w))) (ch.map (·.part)) 0 false false (ch.any (·.device))
    (ids ++ [p.id], s.send { p with pc := pc, since := since })) ([], s)

/-- The reads of words of a tile, where they have been found to lie. -/
def engineReads (hs : List (Nat × Nat × Bool)) : List EngWord := hs.map fun x => ⟨x.1, x.2.2, ⟨x.2.1, 0, 0⟩⟩

/-- The masked writes of words of a tile, in rising order, where the words have been found to lie. -/
def engineWrites : List (Nat × Nat × Bool) → List (Nat × Word × Word) → List EngWord
  | [], _ => []
  | _, [] => []
  | h :: hs, w :: ws =>
    if h.1 = w.1 then ⟨h.1, h.2.2, ⟨h.2.1, w.2.1, w.2.2⟩⟩ :: engineWrites hs ws else engineWrites hs (w :: ws)

end Sys2Proof.Machine
end

