-- ==== Sys2Proof/Machine/LoadStore.lean ====
section
/-! DEFINITION. LD and ST (R99 to R102), LDB and STB (R145 to R147), and the holds that acquires place on later accesses
(R243, R296). -/
namespace Sys2Proof.Machine

/-! ## What a core waits for and holds (R243, R296, R298) -/

/-- An LD, LDB or tile-slice load. -/
def PktOp.isLoad : PktOp → Bool
  | .ld .. | .ldb .. | .vldt .. => true
  | _ => false

def PktOp.isStat : PktOp → Bool
  | .tstat .. => true
  | _ => false

def PktOp.isAtom : PktOp → Bool
  | .atom .. => true
  | _ => false

def PktOp.isTst : PktOp → Bool
  | .tst .. => true
  | _ => false

/-- R297, R298: `usc` is 0, and no write of the core is held or still on its way to its own scratchpad. -/
def State.writesDone (s : State) (c : Nat) : Bool :=
  (s.core c).usc == 0 && !s.writesOut c

/-- R243, R296: every earlier load and atomic has returned. -/
def State.loadsDone (s : State) (c : Nat) : Bool := (s.mine c).all fun p => !(p.op.isLoad || p.op.isAtom)

/-- R243, R296: an earlier acquire holds the core's loads, stores, tile slices and atomics. -/
def Core.held (k : Core) : Bool := !k.holdAtom.isEmpty || !k.holdFence.isEmpty

/-- R296: an earlier FENCE holds everything that it names. -/
def Core.heldByFence (k : Core) : Bool := !k.holdFence.isEmpty

/-- An instruction that an acquire of R243 or a FENCE holds at issue. -/
def State.issueAccess (s : State) (u : Uses) (body : State → State) : State :=
  s.issue u fun s => if s.me.held then s.wait else body s

/-- An instruction that only a FENCE holds at issue (R296). -/
def State.issueFenced (s : State) (u : Uses) (body : State → State) : State :=
  s.issue u fun s => if s.me.heldByFence then s.wait else body s

/-- An access whose address is checked by R100's steps: `body` receives where it goes. -/
def State.atTarget (s : State) (ea : Word) (n : Nat) (a : Access) (body : Nat → Bool → State → State) : State :=
  match s.target ea n a with
  | (.trap c, s) => s.trap c ea
  | (.wait, s) => s.wait
  | (.at h device, s) => body h device s

/-- A packet of the issuing core sent once `usc` has room; `after` finishes the instruction (R101). -/
def State.sendCounted (s : State) (p : Packet) (after : Core → Core) : State :=
  if s.uscFull p then s.wait else (s.send p).modMe after

/-! ## LD and ST -/

/-- The effective address (R100). -/
def Core.ea (k : Core) (a : Reg) (i : BitVec 11) : Word := k.gr a + sext 11 i

/-- WaitEmpty(g[d]) where it comes after an instruction's checks (R100, R144, R146). -/
def State.whenFull (s : State) (d : Reg) (body : State → State) : State := if s.me.gIsFull d then body s else s.wait

/-- LD (R100) of `n` bytes. -/
def load (n : Nat) (signed : Bool) (d a : Reg) (i : BitVec 11) (s : State) : State :=
  s.issueAccess (gUses [a]) fun s =>
    let ea := s.me.ea a i
    s.atTarget ea n .read fun h device s => s.whenFull d fun s =>
      let p := s.mkPacket s.cur (.ld d n signed (h % 8)) [⟨h, 0, 0⟩] ea true false device
      (s.send p).modMe fun k => (k.armG d).advance 4

/-- The masked write of the low `n` bytes of `v` at flat address `h`. -/
def storePart (h n : Nat) (v : Word) : Part :=
  ⟨h, onesAt (8 * (h % 8)) (8 * n), (v &&& onesAt 0 (8 * n)) <<< (8 * (h % 8))⟩

/-- ST (R100) of `n` bytes. -/
def store (n : Nat) (d a : Reg) (i : BitVec 11) (s : State) : State :=
  s.issueAccess (gUses [a, d]) fun s =>
    let ea := s.me.ea a i
    s.atTarget ea n .write fun h device s =>
      let p := s.mkPacket s.cur (.st false) [storePart h n (s.me.gr d)] ea false true device
      s.sendCounted p fun k => k.advance 4

def execLdZ8 (d a : Reg) (i : BitVec 11) (s : State) : Out := .next (load 1 false d a i s)
def execLdZ16 (d a : Reg) (i : BitVec 11) (s : State) : Out := .next (load 2 false d a i s)
def execLdZ32 (d a : Reg) (i : BitVec 11) (s : State) : Out := .next (load 4 false d a i s)
def execLdZ64 (d a : Reg) (i : BitVec 11) (s : State) : Out := .next (load 8 false d a i s)
def execLdS8 (d a : Reg) (i : BitVec 11) (s : State) : Out := .next (load 1 true d a i s)
def execLdS16 (d a : Reg) (i : BitVec 11) (s : State) : Out := .next (load 2 true d a i s)
def execLdS32 (d a : Reg) (i : BitVec 11) (s : State) : Out := .next (load 4 true d a i s)
def execStZ8 (d a : Reg) (i : BitVec 11) (s : State) : Out := .next (store 1 d a i s)
def execStZ16 (d a : Reg) (i : BitVec 11) (s : State) : Out := .next (store 2 d a i s)
def execStZ32 (d a : Reg) (i : BitVec 11) (s : State) : Out := .next (store 4 d a i s)
def execStZ64 (d a : Reg) (i : BitVec 11) (s : State) : Out := .next (store 8 d a i s)

/-! ## LDB and STB -/

/-- R146: the bit address of an access of `n` bits. -/
def bitAddressOk (p : Word) (n : Nat) : Bool := fld p 22 42 == 0 && fld p 0 22 + n ≤ 0x400000

/-- LDB (R146) of `w + 1` bits. -/
def loadBits (d a : Reg) (w : Fin 64) (pa : Bool) (s : State) : State :=
  s.issueAccess { traps := policy pa [.g a], waits := [.g a] } fun s =>
    let p := s.me.gr a
    let n := w.val + 1
    if !bitAddressOk p n then s.trap .accessViolation p
    else s.whenFull d fun s =>
      let b := p.toNat
      let parts := (List.range ((b % 64 + n + 63) / 64)).map fun j => Part.mk (scratchAddr s.cur (8 * (b / 64 + j))) 0 0
      let pk := s.mkPacket s.cur (.ldb d (b % 64) n) parts p true false false
      (s.send pk).modMe fun k => (k.armG d).advance 4

/-- The masked word writes of runs of bits of core `c`'s scratchpad, counted from byte `base` (R137, R147). -/
def scratchParts (c base : Nat) (ws : List BitWrite) : List Part :=
  (gatherWrites ws).map fun (w, mask, data) => ⟨scratchAddr c (base + 8 * w), mask, data⟩

/-- STB (R146, R147) of `w + 1` bits. -/
def storeBits (d a : Reg) (w : Fin 64) (pa : Bool) (s : State) : State :=
  s.issueAccess { traps := policy pa [.g a], waits := [.g a, .g d] } fun s =>
    let p := s.me.gr a
    let n := w.val + 1
    if !bitAddressOk p n then s.trap .accessViolation p
    else
      let parts := scratchParts s.cur 0 [⟨p.toNat, n, (s.me.gr d).toNat % 2 ^ n⟩]
      let pk := s.mkPacket s.cur (.st true) parts p false true false
      (s.send pk).modMe fun k => k.advance 4

def execLdb (d a : Reg) (w : Fin 64) (p : Bool) (s : State) : Out := .next (loadBits d a w p s)
def execStb (d a : Reg) (w : Fin 64) (p : Bool) (s : State) : Out := .next (storeBits d a w p s)

end Sys2Proof.Machine
end

