-- ==== Sys2Proof/Machine/Atomics.lean ====
section
/-! DEFINITION. Atomics as they issue (R239 to R244), FENCE (R296), and the visibility confirmations of SVL (R304). -/
namespace Sys2Proof

/-! ## Ordering (R243, R304) -/

def MemOrder.releases : MemOrder → Bool
  | .rel | .ar | .sc => true
  | _ => false

def MemOrder.acquires : MemOrder → Bool
  | .acq | .ar | .sc => true
  | _ => false

end Sys2Proof

namespace Sys2Proof.Machine

/-- R304: `.sc` at `.system` scope waits for the visibility confirmations. -/
def wantsConfirm (o : MemOrder) (sc : MemScope) : Bool := o = .sc && sc = .system

/-- R302: a TSTAT of core `c`, which is an Rd, has still to be performed. -/
def State.statsOut (s : State) (c : Nat) : Bool := (s.mine c).any fun p => p.op.isStat && p.unperformed

/-- R243, R302, R304: what an ordering waits for before it is performed. -/
def State.orderedBefore (s : State) (o : MemOrder) (sc : MemScope) : Bool :=
  (!o.releases || (s.loadsDone s.cur && s.writesDone s.cur && !s.statsOut s.cur)) &&
    (!wantsConfirm o sc || s.me.svlPorts.isEmpty)

/-! ## Atomics -/

/-- An atomic of op-type `code` (R74): which registers it reads and writes (R240), whether it returns the old value. -/
structure AtomForm where
  code  : Nat
  reads : Bool
  third : Bool
  nr    : Bool
deriving DecidableEq, Repr

/-- An atomic that is an Rd, and one that is a Wr, of R295: ALD reads alone, and AST writes alone. -/
def AtomForm.rd (f : AtomForm) : Bool := f.code < 0x1A
def AtomForm.wr (f : AtomForm) : Bool := f.code != 0x18 && f.code != 0x19

/-- An atomic issues (R240 to R244): g[d] is a source that it waits for before its checks, but for ASNAP and ALD, which only
arm it, after them (R100). AST is as with nr = 1. -/
def atomic (f : AtomForm) (t : AtomOps) (s : State) : State :=
  let third := regUp t.d 1
  s.issueAccess (gUses (t.a :: if f.third then [t.d, third] else if f.reads then [t.d] else [])) fun s =>
    let ea := s.me.gr t.a
    s.atTarget ea (atomBytes f.code) .rw fun h device s => s.whenFull t.d fun s =>
      if !s.orderedBefore t.o t.s then s.wait
      else
        let x := if f.reads then s.me.gr t.d else 0
        let y := if f.third then s.me.gr third else 0
        let op := PktOp.atom f.code x y f.nr t.d (h % 8)
        let p := s.mkPacket s.cur op [⟨h, 0, 0⟩] ea f.rd f.wr device
        s.sendCounted p fun k =>
          let k := if t.o.acquires then { k with holdAtom := k.holdAtom ++ [p.id] } else k
          (if f.nr then k else k.armG t.d).advance 4

/-- The op-types whose operand is g[d] and whose reply fills it. -/
def rmw (code : Nat) (t : AtomOps) (nr : Bool) (s : State) : State := atomic ⟨code, true, false, nr⟩ t s
/-- ASNAP and ALD: no operand. -/
def fetch (code : Nat) (t : AtomOps) (s : State) : State := atomic ⟨code, false, false, false⟩ t s
def cas (code : Nat) (t : AtomOps) (s : State) : State := atomic ⟨code, true, true, false⟩ t s
def put (code : Nat) (t : AtomOps) (s : State) : State := atomic ⟨code, true, false, true⟩ t s

def execAaddZ32 (t : AtomOps) (n : Bool) (s : State) : Out := .next (rmw 0x00 t n s)
def execAaddZ64 (t : AtomOps) (n : Bool) (s : State) : Out := .next (rmw 0x01 t n s)
def execAminS32 (t : AtomOps) (n : Bool) (s : State) : Out := .next (rmw 0x02 t n s)
def execAminS64 (t : AtomOps) (n : Bool) (s : State) : Out := .next (rmw 0x03 t n s)
def execAminZ32 (t : AtomOps) (n : Bool) (s : State) : Out := .next (rmw 0x04 t n s)
def execAminZ64 (t : AtomOps) (n : Bool) (s : State) : Out := .next (rmw 0x05 t n s)
def execAmaxS32 (t : AtomOps) (n : Bool) (s : State) : Out := .next (rmw 0x06 t n s)
def execAmaxS64 (t : AtomOps) (n : Bool) (s : State) : Out := .next (rmw 0x07 t n s)
def execAmaxZ32 (t : AtomOps) (n : Bool) (s : State) : Out := .next (rmw 0x08 t n s)
def execAmaxZ64 (t : AtomOps) (n : Bool) (s : State) : Out := .next (rmw 0x09 t n s)
def execAandZ32 (t : AtomOps) (n : Bool) (s : State) : Out := .next (rmw 0x0A t n s)
def execAandZ64 (t : AtomOps) (n : Bool) (s : State) : Out := .next (rmw 0x0B t n s)
def execAorZ32 (t : AtomOps) (n : Bool) (s : State) : Out := .next (rmw 0x0C t n s)
def execAorZ64 (t : AtomOps) (n : Bool) (s : State) : Out := .next (rmw 0x0D t n s)
def execAxorZ32 (t : AtomOps) (n : Bool) (s : State) : Out := .next (rmw 0x0E t n s)
def execAxorZ64 (t : AtomOps) (n : Bool) (s : State) : Out := .next (rmw 0x0F t n s)
def execAswapZ32 (t : AtomOps) (n : Bool) (s : State) : Out := .next (rmw 0x10 t n s)
def execAswapZ64 (t : AtomOps) (n : Bool) (s : State) : Out := .next (rmw 0x11 t n s)
def execAcasZ32 (t : AtomOps) (s : State) : Out := .next (cas 0x12 t s)
def execAcasZ64 (t : AtomOps) (s : State) : Out := .next (cas 0x13 t s)
def execAfaddF32 (t : AtomOps) (n : Bool) (s : State) : Out := .next (rmw 0x14 t n s)
def execAfaddBf16x2 (t : AtomOps) (n : Bool) (s : State) : Out := .next (rmw 0x15 t n s)
def execAsnapZ32 (t : AtomOps) (s : State) : Out := .next (fetch 0x16 t s)
def execAsnapZ64 (t : AtomOps) (s : State) : Out := .next (fetch 0x17 t s)
def execAldZ32 (t : AtomOps) (s : State) : Out := .next (fetch 0x18 t s)
def execAldZ64 (t : AtomOps) (s : State) : Out := .next (fetch 0x19 t s)
def execAstZ32 (t : AtomOps) (s : State) : Out := .next (put 0x1A t s)
def execAstZ64 (t : AtomOps) (s : State) : Out := .next (put 0x1B t s)

/-! ## FENCE -/

/-- What an acquiring FENCE holds later work for (R296). -/
def State.fenceHolds (s : State) (c : Nat) : List Nat :=
  ((s.mine c).filter fun p => p.op.isLoad || p.op.isStat || p.op.isAtom || p.op.isTst).map (·.id)

/-- FENCE (R296). -/
def fence (o : MemOrder) (sc : MemScope) (s : State) : State :=
  if !s.orderedBefore o sc || (o.releases && (s.mine s.cur).any fun p => p.op.isStat) then s.wait
  else
    let ids := if o.acquires then s.fenceHolds s.cur else []
    s.modMe fun k => { k with holdFence := k.holdFence ++ ids }.advance 4

def execFence (o : MemOrder) (sc : MemScope) (s : State) : Out := .next (fence o sc s)

/-- A write of core `c` on its way to a word that is reached through an SVL port (R304). -/
def State.onPort (s : State) (c port : Nat) : Bool :=
  (s.mine c).any fun p => p.writes && p.unperformed && (s.portsOf p).contains port

/-- SVL_VISIBILITY_CONFIRM (R304): what host memory has accepted at a port becomes visible on every port, which confirms the
writes of a core that it has carried, once none is on its way. -/
def State.confirmVisible (s : State) (c port : Nat) : State :=
  let s := s.showPort port
  if s.onPort c port then s else s.modCore c fun k => { k with svlPorts := k.svlPorts.filter (· ≠ port) }

def execSvlVisibilityConfirm (c : CoreNo) (port : Nat) (s : State) : Out := .next (s.confirmVisible c.val port)

end Sys2Proof.Machine
end

