-- ==== Sys2Proof/Machine/Vector.lean ====
section
/-! DEFINITION. The vector unit: lanes, masks and rounding (R183 to R185), arithmetic and special functions (R190), integer,
compare, select and mask instructions (R191, R192), conversions and permutes (R193, R194), the ordered reduction
(R195, R196), PART (R198), SOW (R200) and GNORM (R202). At `jord` ≥ 1 the jet fields name groups (R205 to R216). -/
namespace Sys2Proof.Machine

/-! ## Lanes, masks and rounding -/

/-- Bytes of an instruction with or without a prefix (R64). -/
def pfxBytes (x : Option Pfx) : Nat := if x.isSome then 8 else 4

/-- The governing mask (R184). -/
def Core.lanes (k : Core) (x : Option Pfx) : Word32 := match x with | some p => k.mr p.mask | none => k.mr 0

def pfxMz (x : Option Pfx) : Bool := match x with | some p => p.mz | none => false

/-- The fourth operand: v0 where there is no prefix (R65). -/
def pfxQ4 (x : Option Pfx) : Reg := match x with | some p => p.q4 | none => 0

/-- R121: the draw of a lane of a vector-register destination. -/
def Core.laneDraw (k : Core) (mode : RoundMode) (lane : Nat) : Nat := srDraw mode k.srkey 0 lane (fld k.pc 0 32)

/-- A lane of a result under the governing mask (R184). -/
def maskedLane (active mz : Bool) (new old : Word32) : Word32 := if active then new else if mz then 0 else old

/-- A v register with its active lanes replaced. -/
def maskedReg (mask : Word32) (mz : Bool) (f : Nat → Word32) (old : VReg) : VReg :=
  Vector.ofFn fun i => maskedLane (mask.getLsbD i.val) mz (f i.val) (old.get i)

/-- The OR of a flag over the active lanes. -/
def orLanes (mask : Word32) (f : Nat → FlagBits) : FlagBits :=
  (List.range 32).foldl (fun acc i => if mask.getLsbD i then acc ||| f i else acc) 0

/-- Lane `i` of a register. -/
def VReg.at (x : VReg) (i : Nat) : Word32 := x.toList.getD i 0

/-! ## Jet groups (R58, R205) -/

/-- G at order k (R58). -/
def jetG (k : Nat) : Nat := if k = 0 then 1 else if k = 1 then 2 else if k ≤ 3 then 4 else 8

def jetAligned (k : Nat) (n : Reg) : Bool := n.val % jetG k == 0

def Core.order (k : Core) : Nat := k.jord.toNat

/-- The registers of a jet field at order k. -/
def group (k : Nat) (n : Reg) : List RegRef := (List.range (k + 1)).map fun c => .v (regUp n c)

/-- What a lane's computation receives: the mode, the lane's draw, the order, and the coefficients of each source. -/
structure LaneIn where
  mode  : RoundMode
  draw  : Nat
  order : Nat
  srcs  : List (List Word32)

/-- Coefficient 0 of source `i`. -/
def LaneIn.src0 (x : LaneIn) (i : Nat) : Word32 := (x.srcs.getD i []).headD 0
def LaneIn.src (x : LaneIn) (i : Nat) : List Word32 := x.srcs.getD i []

/-- The results of a lane: each coefficient with its flags. -/
abbrev LaneOut := List (Word32 × FlagBits)

def LaneOut.at (x : LaneOut) (c : Nat) : Word32 × FlagBits := x.getD c (0, 0)

/-- Flags by coefficient: at order 0 into `fcsr`; above, coefficient 0's into both and the others' into `jfl`
(R185, R216). -/
def Core.raiseCoeffs (k : Core) (order : Nat) (f : Nat → FlagBits) : Core :=
  let k := k.raise (f 0)
  if order = 0 then k else (List.range (order + 1)).foldl (fun k c => k.raiseJet c (f c)) k

/-- The coefficients of a result written under the mask. -/
def Core.writeCoeffs (k : Core) (order : Nat) (d : Reg) (mask : Word32) (mz : Bool) (out : Nat → LaneOut) : Core :=
  (List.range (order + 1)).foldl (fun k c =>
    let r := regUp d c
    k.setV r (maskedReg mask mz (fun i => ((out i).at c).1) (k.vr r))) k

/-- Every lane's results of an instruction. -/
def Core.laneOuts (k : Core) (mask : Word32) (mode : RoundMode) (order : Nat) (srcs : List Reg) (f : LaneIn → LaneOut) :
    List LaneOut :=
  let vals := srcs.map fun n => (List.range (order + 1)).map fun c => k.vr (regUp n c)
  (List.range 32).map fun i =>
    if mask.getLsbD i then
      f { mode := mode, draw := k.laneDraw mode i, order := order, srcs := vals.map (List.map (·.at i)) }
    else []

/-- An instruction whose fields d and `srcs` are jet fields performed, at an order (R206, R207). -/
def Core.perform (k : Core) (x : Option Pfx) (mode : RoundMode) (order : Nat) (d : Reg) (srcs : List Reg)
    (f : LaneIn → LaneOut) : Core :=
  let mask := k.lanes x
  let outs := k.laneOuts mask mode order srcs f
  let out := fun i => outs.getD i []
  let k' := (k.writeCoeffs order d mask (pfxMz x) out).raiseCoeffs order fun c => orLanes mask fun i => ((out i).at c).2
  k'.advance (pfxBytes x)

/-- The fields of a vector instruction: those under a policy bit, those that always block, and the destination. -/
structure VFields where
  d     : Reg
  a     : Reg
  pa    : Bool
  b     : Option (Reg × Bool)
  q     : Option Reg
deriving DecidableEq, Repr

def VFields.srcs (f : VFields) : List Reg :=
  [f.a] ++ (match f.b with | some (b, _) => [b] | none => []) ++ (match f.q with | some q => [q] | none => [])

/-- R63, R206, R168: what an instruction examines at an order. -/
def VFields.uses (f : VFields) (order : Nat) : Uses :=
  { traps := policy f.pa (group order f.a) ++ match f.b with | some (b, pb) => policy pb (group order b) | none => []
    waits := f.srcs.flatMap (group order) ++ group order f.d }

def fields3 (r : R3) : VFields := ⟨r.d, r.a, r.pa, some (r.b, r.pb), none⟩
def fields2 (r : R2) : VFields := ⟨r.d, r.a, r.pa, none, none⟩
def fields4 (x : Option Pfx) (r : R3) : VFields := ⟨r.d, r.a, r.pa, some (r.b, r.pb), some (pfxQ4 x)⟩

/-- An instruction of majors 0x10 and 0x11 (R190, R205): its fields are jet fields at `jord` ≥ 1. `rounds` says that
R77 step 2 resolves a mode. -/
def jetOp (i : Instr) (rounds : Bool) (x : Option Pfx) (v : VFields) (f : LaneIn → LaneOut) (s : State) : State :=
  let order := s.me.order
  let mode := s.me.modeOf x
  let aligned := (v.d :: v.srcs).all (jetAligned order)
  s.issueLegal i (aligned && (!rounds || mode.isSome)) (v.uses order) fun s =>
    s.modMe fun k => k.perform x (mode.getD .rne) order v.d v.srcs f

/-- An instruction that acts on single registers whatever `jord` holds and rounds. -/
def roundOp (i : Instr) (x : Option Pfx) (v : VFields) (f : RoundMode → Nat → Word32 → Word32 × FlagBits) (s : State) :
    State :=
  let mode := s.me.modeOf x
  s.issueLegal i mode.isSome (v.uses 0) fun s =>
    s.modMe fun k => k.perform x (mode.getD .rne) 0 v.d v.srcs fun l => [f l.mode l.draw (l.src0 0)]

/-- An instruction that acts on single registers and does not round: lane results of one or two sources. -/
def laneOp (x : Option Pfx) (v : VFields) (f : Word32 → Word32 → Word32 × FlagBits) (s : State) : State :=
  s.issue (v.uses 0) fun s =>
    s.modMe fun k => k.perform x .rne 0 v.d v.srcs fun l => [f (l.src0 0) (l.src0 1)]

/-! ## Series rules (R210 to R214) -/

def cat (x : List Word32) (i : Nat) : Word32 := x.getD i 0

/-- R214: a step that delivers a NaN delivers the default NaN. -/
def canon (x : Word32 × FlagBits) : Word32 × FlagBits := (if (dec32 x.1).isNaN then qnan32 else x.1, x.2)

/-- Steps of a lane's series. -/
structure Steps where
  mode : RoundMode
  draw : Nat

def Steps.add (s : Steps) (a b : Word32) : Word32 × FlagBits := canon (fadd32 s.mode s.draw a b)
def Steps.sub (s : Steps) (a b : Word32) : Word32 × FlagBits := canon (fsub32 s.mode s.draw a b)
def Steps.mul (s : Steps) (a b : Word32) : Word32 × FlagBits := canon (fmul32 s.mode s.draw a b)
def Steps.div (s : Steps) (a b : Word32) : Word32 × FlagBits := canon (fdiv32 s.mode s.draw a b)
/-- ±(a × b) ± c. -/
def Steps.fma (s : Steps) (negProd negC : Bool) (a b c : Word32) : Word32 × FlagBits :=
  canon (ffma32 s.mode s.draw negProd negC a b c)

/-- A small integer as FP32, exactly. -/
def fpNat (n : Nat) : Word32 := (round32 .rne 0 (.num false n 0)).1

/-- The constants of R210. -/
def constL : Word32 := 0x3F317218
def constI : Word32 := 0x3FB8AA3B
def constP : Word32 := 0x40490FDB
def constQ (n : Nat) : Word32 :=
  cat [0, 0x3F800000, 0x3F000000, 0x3EAAAAAB, 0x3E800000, 0x3E4CCCCD, 0x3E2AAAAB, 0x3E124925] n

/-- Fused steps s := Round(±x[j]·y[n − j] + s) for j ascending from `lo`, `count` of them. -/
def Steps.chain (s : Steps) (neg : Bool) (x y : List Word32) (n lo count : Nat) (z : Word32 × FlagBits) :
    Word32 × FlagBits :=
  (List.range count).foldl (fun (v, f) i =>
    let (w, g) := s.fma neg false (cat x (lo + i)) (cat y (n - (lo + i))) v
    (w, f ||| g)) z

/-- Acc (R210). -/
def Steps.acc (s : Steps) (x y : List Word32) (n lo hi : Nat) : Word32 × FlagBits :=
  s.chain false x y n (lo + 1) (hi - lo) (s.mul (cat x lo) (cat y (n - lo)))

/-- What a series holds while it is computed: the delivered coefficients, and two companion series. -/
structure Series where
  t : List Word32
  u : List Word32
  w : List Word32

/-- Coefficients 1 to k in ascending order; `step` gives the new companions and the coefficient with its flags. -/
def series (k : Nat) (t0 : Word32 × FlagBits) (u0 w0 : List Word32) (step : Series → Nat → Series × (Word32 × FlagBits)) :
    LaneOut :=
  ((List.range k).foldl (fun (x : Series × LaneOut) i =>
    let (z, c) := step x.1 (i + 1)
    ({ z with t := z.t ++ [c.1] }, x.2 ++ [c])) (⟨[t0.1], u0, w0⟩, [t0])).2

/-- Coefficients that need no companion. -/
def plainSeries (k : Nat) (t0 : Word32 × FlagBits) (step : List Word32 → Nat → Word32 × FlagBits) : LaneOut :=
  series k t0 [] [] fun z n => (z, step z.t n)

def LaneIn.steps (l : LaneIn) : Steps := ⟨l.mode, l.draw⟩

/-- VADD, VSUB (R211). -/
def laneAdd (l : LaneIn) : LaneOut :=
  plainSeries l.order (fadd32 l.mode l.draw (l.src0 0) (l.src0 1)) fun _ n => l.steps.add (cat (l.src 0) n) (cat (l.src 1) n)
def laneSub (l : LaneIn) : LaneOut :=
  plainSeries l.order (fsub32 l.mode l.draw (l.src0 0) (l.src0 1)) fun _ n => l.steps.sub (cat (l.src 0) n) (cat (l.src 1) n)

/-- VMUL (R211). -/
def laneMul (l : LaneIn) : LaneOut :=
  plainSeries l.order (fmul32 l.mode l.draw (l.src0 0) (l.src0 1)) fun _ n => l.steps.acc (l.src 0) (l.src 1) n 0 n

/-- VFMA, VFMS, VFNMA (R211). -/
def laneFma (negProd negC : Bool) (l : LaneIn) : LaneOut :=
  plainSeries l.order (ffma32 l.mode l.draw negProd negC (l.src0 0) (l.src0 1) (l.src0 2)) fun _ n =>
    l.steps.chain negProd (l.src 0) (l.src 1) n 1 n
      (l.steps.fma negProd negC (l.src0 0) (cat (l.src 1) n) (cat (l.src 2) n))

/-- VDIV (R211). -/
def laneDiv (l : LaneIn) : LaneOut :=
  plainSeries l.order (fdiv32 l.mode l.draw (l.src0 0) (l.src0 1)) fun t n =>
    let (s, f) := l.steps.chain true (l.src 1) t n 1 n (cat (l.src 0) n, 0)
    let (q, g) := l.steps.div s (l.src0 1)
    (q, f ||| g)

/-- The special functions (R212): t[0] as at order 0, then their recurrences. -/
def laneSpecial (fn : SpecialFn) (l : LaneIn) : LaneOut :=
  let a := l.src 0
  let a0 := l.src0 0
  let s := l.steps
  let t0 := special32 fn l.mode l.draw a0
  match fn with
  | .exp2 =>
    series l.order t0 [0] [] fun z n =>
      let (j, f0) := s.mul (fpNat n) (cat a n)
      let ja := z.u ++ [j]
      let (x, f1) := s.acc ja z.t n 1 n
      let (y, f2) := s.mul x (constQ n)
      let (v, f3) := s.mul y constL
      ({ z with u := ja }, (v, f0 ||| f1 ||| f2 ||| f3))
  | .log2 =>
    series l.order t0 [0] [] fun z n =>
      let (w, f0) :=
        if n = 1 then ((0 : Word32), (0 : FlagBits)) else
          let (x, f) := s.acc z.u a n 1 (n - 1)
          let (y, g) := s.mul x (constQ n)
          (y, f ||| g)
      let (v, f1) := s.fma false true (cat a n) constI w
      let (t, f2) := s.div v a0
      let (j, f3) := s.mul (fpNat n) t
      ({ z with u := z.u ++ [j] }, (t, f0 ||| f1 ||| f2 ||| f3))
  | .sinpi | .cospi =>
    let sn0 := (special32 .sinpi l.mode l.draw a0).1
    let cs0 := (special32 .cospi l.mode l.draw a0).1
    -- u holds ja, then the companion of the delivered series is w
    series l.order t0 [0] [if fn = .sinpi then cs0 else sn0] fun z n =>
      let (j, f0) := s.mul (fpNat n) (cat a n)
      let ja := z.u ++ [j]
      let sn := if fn = .sinpi then z.t else z.w
      let cs := if fn = .sinpi then z.w else z.t
      let (x, f1) := s.acc ja cs n 1 n
      let (bigS, f2) := s.mul x (constQ n)
      let (y, f3) := s.acc ja sn n 1 n
      let (bigC, f4) := s.mul y (constQ n)
      let (sn', f5) := s.mul bigS constP
      let (cs', f6) := s.mul (fneg32 bigC) constP
      let f := f0 ||| f1 ||| f2 ||| f3 ||| f4 ||| f5 ||| f6
      if fn = .sinpi then ({ z with u := ja, w := z.w ++ [cs'] }, (sn', f))
      else ({ z with u := ja, w := z.w ++ [sn'] }, (cs', f))
  | .rcp =>
    plainSeries l.order t0 fun t n =>
      let (x, f) := s.acc a t n 1 n
      let (v, g) := s.div (fneg32 x) a0
      (v, f ||| g)
  | .sqrt =>
    series l.order t0 [] [] fun z n =>
      let (h, f0) := s.mul (fpNat 2) t0.1
      let (x, f1) := s.chain true z.t z.t n 1 (n - 1) (cat a n, 0)
      let (v, f2) := s.div x h
      (z, (v, (if n = 1 then f0 else 0) ||| f1 ||| f2))
  | .rsqrt =>
    series l.order t0 [] [] fun z n =>
      let (h, f0) := s.mul (fpNat 2) a0
      let ws := (List.range (n + 1)).map fun i => if i = 0 then ((0 : Word32), (0 : FlagBits)) else s.mul (fpNat (2 * n - i)) (cat a i)
      let f1 := ws.foldl (fun g x => g ||| x.2) 0
      let (x, f2) := s.acc (ws.map (·.1)) z.t n 1 n
      let (y, f3) := s.mul x (constQ n)
      let (v, f4) := s.div (fneg32 y) h
      (z, (v, (if n = 1 then f0 else 0) ||| f1 ||| f2 ||| f3 ||| f4))
  | .tanh =>
    let u0 := (s.fma true false t0.1 t0.1 (fpNat 1)).1
    series l.order t0 [0] [u0] fun z n =>
      let (j, f0) := s.mul (fpNat n) (cat a n)
      let ja := z.u ++ [j]
      let (x, f1) := s.acc ja z.w n 1 n
      let (t, f2) := s.mul x (constQ n)
      let (y, f3) := s.acc (z.t ++ [t]) (z.t ++ [t]) n 0 n
      ({ z with u := ja, w := z.w ++ [fneg32 y] }, (t, f0 ||| f1 ||| f2 ||| f3))

/-- VMIN, VMAX (R190, R213). -/
def laneMinMax (wantMax : Bool) (l : LaneIn) : LaneOut :=
  let a0 := l.src0 0
  let t0 := fminmax32 wantMax a0 (l.src0 1)
  let rest := fun n =>
    if (dec32 t0.1).isNaN then qnan32
    else if t0.1 = a0 then cat (l.src 0) n else cat (l.src 1) n
  t0 :: (List.range l.order).map fun i => (rest (i + 1), 0)

/-- VABS, VNEG, VCPYS (R190, R213): every sign inverted where `flip` of the coefficients 0 says so. The sign of a NaN is cleared
or inverted too: 'NaN unchanged' is read of its payload and quiet bit (DEDUCED, log entry 83). -/
def laneSign (flip : Word32 → Word32 → Bool) (l : LaneIn) : LaneOut :=
  (List.range (l.order + 1)).map fun c =>
    (if flip (l.src0 0) (l.src0 1) then fneg32 (cat (l.src 0) c) else cat (l.src 0) c, 0)

/-! ### Majors 0x10 and 0x11 -/

def execVadd (x : Option Pfx) (r : R3) (s : State) : Out := .next (jetOp (.vadd x r) true x (fields3 r) laneAdd s)
def execVsub (x : Option Pfx) (r : R3) (s : State) : Out := .next (jetOp (.vsub x r) true x (fields3 r) laneSub s)
def execVmul (x : Option Pfx) (r : R3) (s : State) : Out := .next (jetOp (.vmul x r) true x (fields3 r) laneMul s)
def execVdiv (x : Option Pfx) (r : R3) (s : State) : Out := .next (jetOp (.vdiv x r) true x (fields3 r) laneDiv s)
def execVfma (x : Option Pfx) (r : R3) (s : State) : Out :=
  .next (jetOp (.vfma x r) true x (fields4 x r) (laneFma false false) s)
def execVfms (x : Option Pfx) (r : R3) (s : State) : Out :=
  .next (jetOp (.vfms x r) true x (fields4 x r) (laneFma false true) s)
def execVfnma (x : Option Pfx) (r : R3) (s : State) : Out :=
  .next (jetOp (.vfnma x r) true x (fields4 x r) (laneFma true false) s)
def execVmin (x : Option Pfx) (r : R3) (s : State) : Out :=
  .next (jetOp (.vmin x r) false x (fields3 r) (laneMinMax false) s)
def execVmax (x : Option Pfx) (r : R3) (s : State) : Out :=
  .next (jetOp (.vmax x r) false x (fields3 r) (laneMinMax true) s)
def execVabs (x : Option Pfx) (r : R2) (s : State) : Out :=
  .next (jetOp (.vabs x r) false x (fields2 r) (laneSign fun a _ => a.msb) s)
def execVneg (x : Option Pfx) (r : R2) (s : State) : Out :=
  .next (jetOp (.vneg x r) false x (fields2 r) (laneSign fun _ _ => true) s)
def execVcpys (x : Option Pfx) (r : R3) (s : State) : Out :=
  .next (jetOp (.vcpys x r) false x (fields3 r) (laneSign fun a b => a.msb != b.msb) s)

/-- A special function of major 0x11. -/
def specialOp (i : Instr) (fn : SpecialFn) (x : Option Pfx) (r : R2) (s : State) : State :=
  jetOp i true x (fields2 r) (laneSpecial fn) s

def execVexp2 (x : Option Pfx) (r : R2) (s : State) : Out := .next (specialOp (.vexp2 x r) .exp2 x r s)
def execVlog2 (x : Option Pfx) (r : R2) (s : State) : Out := .next (specialOp (.vlog2 x r) .log2 x r s)
def execVsinpi (x : Option Pfx) (r : R2) (s : State) : Out := .next (specialOp (.vsinpi x r) .sinpi x r s)
def execVcospi (x : Option Pfx) (r : R2) (s : State) : Out := .next (specialOp (.vcospi x r) .cospi x r s)
def execVrcp (x : Option Pfx) (r : R2) (s : State) : Out := .next (specialOp (.vrcp x r) .rcp x r s)
def execVrsqrt (x : Option Pfx) (r : R2) (s : State) : Out := .next (specialOp (.vrsqrt x r) .rsqrt x r s)
def execVsqrt (x : Option Pfx) (r : R2) (s : State) : Out := .next (specialOp (.vsqrt x r) .sqrt x r s)
def execVtanh (x : Option Pfx) (r : R2) (s : State) : Out := .next (specialOp (.vtanh x r) .tanh x r s)

/-! ## Integer lanes (R191) -/

/-- An integer instruction's lanes: no flags. -/
def intOp (f : Word32 → Word32 → Word32) (x : Option Pfx) (r : R3) (s : State) : State :=
  laneOp x (fields3 r) (fun a b => (f a b, 0)) s

def laneShift (b : Word32) : Nat := b.toNat % 32

def execViadd (x : Option Pfx) (r : R3) (s : State) : Out := .next (intOp (fun a b => a + b) x r s)
def execVisub (x : Option Pfx) (r : R3) (s : State) : Out := .next (intOp (fun a b => a - b) x r s)
def execVimul (x : Option Pfx) (r : R3) (s : State) : Out := .next (intOp (fun a b => a * b) x r s)
def execVimin (x : Option Pfx) (r : R3) (s : State) : Out := .next (intOp (fun a b => if b.slt a then b else a) x r s)
def execVimax (x : Option Pfx) (r : R3) (s : State) : Out := .next (intOp (fun a b => if a.slt b then b else a) x r s)
def execVand (x : Option Pfx) (r : R3) (s : State) : Out := .next (intOp (fun a b => a &&& b) x r s)
def execVor (x : Option Pfx) (r : R3) (s : State) : Out := .next (intOp (fun a b => a ||| b) x r s)
def execVxor (x : Option Pfx) (r : R3) (s : State) : Out := .next (intOp (fun a b => a ^^^ b) x r s)
def execVsll (x : Option Pfx) (r : R3) (s : State) : Out := .next (intOp (fun a b => a <<< laneShift b) x r s)
def execVsrl (x : Option Pfx) (r : R3) (s : State) : Out := .next (intOp (fun a b => a >>> laneShift b) x r s)
def execVsra (x : Option Pfx) (r : R3) (s : State) : Out :=
  .next (intOp (fun a b => a.sshiftRight (laneShift b)) x r s)

/-- VIADDS's lane: the saturated sum, and whether it saturated. -/
def satAdd (a b : Word32) : Word32 × Bool :=
  let v := a.toInt + b.toInt
  if v < -(2 ^ 31) then (0x80000000, true) else if 2 ^ 31 - 1 < v then (0x7FFFFFFF, true) else (BitVec.ofInt 32 v, false)

/-- VIADDS (R191, R186): ISAT where an active lane saturates. -/
def saturatingAdd (x : Option Pfx) (r : R3) (s : State) : State :=
  s.issue ((fields3 r).uses 0) fun s => s.modMe fun k =>
    let mask := k.lanes x
    let sat := (List.range 32).any fun i => mask.getLsbD i && (satAdd ((k.vr r.a).at i) ((k.vr r.b).at i)).2
    let k' := k.perform x .rne 0 r.d [r.a, r.b] fun l => [((satAdd (l.src0 0) (l.src0 1)).1, 0)]
    if sat then k'.raiseVstat vstatIsat else k'

def execViadds (x : Option Pfx) (r : R3) (s : State) : Out := .next (saturatingAdd x r s)

/-! ## Compares, select and masks (R192) -/

/-- The uses of a compare: two v sources; a mask has no full bit. -/
def cmpUses (r : CmpOps) : Uses :=
  { traps := policy r.pa [.v r.a] ++ policy r.pb [.v r.b], waits := [.v r.a, .v r.b] }

/-- A compare: bit i of m[d] under the mask (R184). -/
def compare (f : Word32 → Word32 → Bool × FlagBits) (x : Option Pfx) (r : CmpOps) (s : State) : State :=
  s.issue (cmpUses r) fun s => s.modMe fun k =>
    let mask := k.lanes x
    let one := fun i => f ((k.vr r.a).at i) ((k.vr r.b).at i)
    let old := k.mr r.d
    let bits := (List.range 32).foldl (fun (acc : Nat) i =>
      let b := if mask.getLsbD i then (one i).1 else !pfxMz x && old.getLsbD i
      if b then acc + 2 ^ i else acc) 0
    ((k.setM r.d (BitVec.ofNat 32 bits)).raise (orLanes mask fun i => (one i).2)).advance (pfxBytes x)

def execVceq (x : Option Pfx) (r : CmpOps) (s : State) : Out := .next (compare (fcmp32 0) x r s)
def execVclt (x : Option Pfx) (r : CmpOps) (s : State) : Out := .next (compare (fcmp32 1) x r s)
def execVcle (x : Option Pfx) (r : CmpOps) (s : State) : Out := .next (compare (fcmp32 2) x r s)
def execViceq (x : Option Pfx) (r : CmpOps) (s : State) : Out := .next (compare (fun a b => (a == b, 0)) x r s)
def execViclt (x : Option Pfx) (r : CmpOps) (s : State) : Out := .next (compare (fun a b => (a.slt b, 0)) x r s)
def execVicltu (x : Option Pfx) (r : CmpOps) (s : State) : Out := .next (compare (fun a b => (a.ult b, 0)) x r s)

/-- VSEL: the prefix's mask field is its selector; every lane is written. -/
def execVsel (x : Option Pfx) (r : R3) (s : State) : Out :=
  .next (s.issue ((fields3 r).uses 0) fun s => s.modMe fun k =>
    let sel := k.lanes x
    let va := k.vr r.a
    let vb := k.vr r.b
    (k.setV r.d (Vector.ofFn fun i => if sel.getLsbD i.val then va.get i else vb.get i)).advance (pfxBytes x))

/-- m[d] := f(m[a], m[b]). -/
def maskOp (f : Word32 → Word32 → Word32) (x : Option Pfx) (d a b : MReg) (s : State) : State :=
  s.modMe fun k => (k.setM d (f (k.mr a) (k.mr b))).advance (pfxBytes x)

def execMand (x : Option Pfx) (d a b : MReg) (s : State) : Out := .next (maskOp (fun x y => x &&& y) x d a b s)
def execMor (x : Option Pfx) (d a b : MReg) (s : State) : Out := .next (maskOp (fun x y => x ||| y) x d a b s)
def execMxor (x : Option Pfx) (d a b : MReg) (s : State) : Out := .next (maskOp (fun x y => x ^^^ y) x d a b s)
def execMnot (x : Option Pfx) (d a : MReg) (s : State) : Out := .next (maskOp (fun x _ => ~~~x) x d a a s)

/-- MTOG. -/
def execMtog (x : Option Pfx) (d : Reg) (a : MReg) (s : State) : Out :=
  .next (s.issue (gUses [d]) fun s => s.modMe fun k =>
    (k.setG d ((k.mr a).zeroExtend 64)).advance (pfxBytes x))

/-- GTOM. -/
def execGtom (x : Option Pfx) (d : MReg) (a : Reg) (p : Bool) (s : State) : Out :=
  .next (s.issue { traps := policy p [.g a], waits := [.g a] } fun s => s.modMe fun k =>
    (k.setM d ((k.gr a).setWidth 32)).advance (pfxBytes x))

/-! ## Conversions (R193) -/

/-- FP32 to an integer of 32 bits, saturated. -/
def cvtToInt (lo hi : Int) (mode : RoundMode) (draw : Nat) (a : Word32) : Word32 × FlagBits :=
  let (v, f) := toInt mode draw lo hi (dec32 a)
  (BitVec.ofInt 32 v, f)

/-- FP32 to a narrower format, in the low bits. -/
def cvtNarrow (f : FloatFmt) (mode : RoundMode) (draw : Nat) (a : Word32) : Word32 × FlagBits :=
  let (b, g) := f.encode mode draw (dec32 a)
  (BitVec.ofNat 32 b, g)

/-- A narrow format of `w` bits, in the low bits, to FP32: exact. -/
def cvtWide (f : FloatFmt) (w : Nat) (a : Word32) : Word32 × FlagBits := round32 .rne 0 (f.decode (a.toNat % 2 ^ w))

def execVcvtfi (x : Option Pfx) (r : R2) (s : State) : Out :=
  .next (roundOp (.vcvtfi x r) x (fields2 r) (cvtToInt (-(2 ^ 31)) (2 ^ 31 - 1)) s)
def execVcvtfu (x : Option Pfx) (r : R2) (s : State) : Out :=
  .next (roundOp (.vcvtfu x r) x (fields2 r) (cvtToInt 0 (2 ^ 32 - 1)) s)
def execVcvtif (x : Option Pfx) (r : R2) (s : State) : Out :=
  .next (roundOp (.vcvtif x r) x (fields2 r) (fun m n a => round32 m n (ofInt a.toInt)) s)
def execVcvtuf (x : Option Pfx) (r : R2) (s : State) : Out :=
  .next (roundOp (.vcvtuf x r) x (fields2 r) (fun m n a => round32 m n (ofInt a.toNat)) s)
def execVcvth (x : Option Pfx) (r : R2) (s : State) : Out :=
  .next (roundOp (.vcvth x r) x (fields2 r) (cvtNarrow fmtFP16) s)
def execVcvtb (x : Option Pfx) (r : R2) (s : State) : Out :=
  .next (roundOp (.vcvtb x r) x (fields2 r) (cvtNarrow fmtBF16) s)
def execVcvte4 (x : Option Pfx) (r : R2) (s : State) : Out :=
  .next (roundOp (.vcvte4 x r) x (fields2 r) (cvtNarrow fmtE4M3) s)
def execVcvte5 (x : Option Pfx) (r : R2) (s : State) : Out :=
  .next (roundOp (.vcvte5 x r) x (fields2 r) (cvtNarrow fmtE5M2) s)
def execVwidh (x : Option Pfx) (r : R2) (s : State) : Out := .next (laneOp x (fields2 r) (fun a _ => cvtWide fmtFP16 16 a) s)
def execVwidb (x : Option Pfx) (r : R2) (s : State) : Out := .next (laneOp x (fields2 r) (fun a _ => cvtWide fmtBF16 16 a) s)
def execVwide4 (x : Option Pfx) (r : R2) (s : State) : Out := .next (laneOp x (fields2 r) (fun a _ => cvtWide fmtE4M3 8 a) s)
def execVwide5 (x : Option Pfx) (r : R2) (s : State) : Out := .next (laneOp x (fields2 r) (fun a _ => cvtWide fmtE5M2 8 a) s)

/-! ## Permutes (R194) -/

/-- A permute: every source lane is read before any destination lane is written. -/
def permute (v : VFields) (f : VReg → VReg → Nat → Word32) (x : Option Pfx) (s : State) : State :=
  s.issue (v.uses 0) fun s => s.modMe fun k =>
    let va := k.vr v.a
    let vb := match v.b with | some (b, _) => k.vr b | none => VReg.zero
    (k.setV v.d (maskedReg (k.lanes x) (pfxMz x) (f va vb) (k.vr v.d))).advance (pfxBytes x)

def execVperm (x : Option Pfx) (r : R3) (s : State) : Out :=
  .next (permute (fields3 r) (fun a b i => a.at ((b.at i).toNat % 32)) x s)
def execVbcast (x : Option Pfx) (d a : Reg) (n : Fin 32) (p : Bool) (s : State) : Out :=
  .next (permute ⟨d, a, p, none, none⟩ (fun a _ _ => a.at n.val) x s)
def execVslideup (x : Option Pfx) (d a : Reg) (n : Fin 32) (p : Bool) (s : State) : Out :=
  .next (permute ⟨d, a, p, none, none⟩ (fun a _ i => if n.val ≤ i then a.at (i - n.val) else 0) x s)
def execVslidedn (x : Option Pfx) (d a : Reg) (n : Fin 32) (p : Bool) (s : State) : Out :=
  .next (permute ⟨d, a, p, none, none⟩ (fun a _ i => if i + n.val ≤ 31 then a.at (i + n.val) else 0) x s)
def execVzip (x : Option Pfx) (r : R3) (s : State) : Out :=
  .next (permute (fields3 r) (fun a b i => if i % 2 = 0 then a.at (i / 2) else b.at (i / 2)) x s)
def execVunzip (x : Option Pfx) (r : R3) (s : State) : Out :=
  .next (permute (fields3 r) (fun a b i => if i < 16 then a.at (2 * i) else b.at (2 * (i - 16))) x s)

/-! ## The ordered reduction (R195) -/

/-- The node of level `l` whose leftmost leaf is `lo`: its value, none where it is absent, and the flags of its
subtree. `comb` receives the leftmost leaf, whose draw the node uses. -/
def treeNode {α : Type} (comb : Nat → α → α → α × FlagBits) (leaf : Nat → Option α) : Nat → Nat → Option α × FlagBits
  | 0, lo => (leaf lo, 0)
  | l + 1, lo =>
    let (x, f) := treeNode comb leaf l lo
    let (y, g) := treeNode comb leaf l (lo + 2 ^ l)
    match x, y with
    | some a, some b => let (v, h) := comb lo a b; (some v, f ||| g ||| h)
    | some a, none => (some a, f ||| g)
    | none, some b => (some b, f ||| g)
    | none, none => (none, f ||| g)

/-- The least L with N ≤ 2^L. -/
def treeDepth (n : Nat) : Nat := if n ≤ 1 then 0 else Nat.log2 (n - 1) + 1

/-- The root over `n` leaves. -/
def treeRoot {α : Type} (comb : Nat → α → α → α × FlagBits) (n : Nat) (leaf : Nat → Option α) : Option α × FlagBits :=
  treeNode comb (fun i => if i < n then leaf i else none) (treeDepth n) 0

/-- The root over a register's active lanes. -/
def Core.reduceLanes (k : Core) (x : Option Pfx) (a : Reg) (comb : Nat → Word32 → Word32 → Word32 × FlagBits) :
    Option Word32 × FlagBits :=
  let v := k.vr a
  treeRoot comb 32 fun i => if (k.lanes x).getLsbD i then some (v.at i) else none

/-- A reduction performed: the root in all 32 lanes of v[d]; +0 for an absent root (R195, R196). -/
def Core.reduce (k : Core) (x : Option Pfx) (r : R2) (comb : Nat → Word32 → Word32 → Word32 × FlagBits) : Core :=
  let (root, f) := k.reduceLanes x r.a comb
  ((k.setV r.d (Vector.replicate 32 (root.getD 0))).raise f).advance (pfxBytes x)

def sumNode (k : Core) (mode : RoundMode) (lo : Nat) (a b : Word32) : Word32 × FlagBits :=
  fadd32 mode (k.laneDraw mode lo) a b

def execVrsum (x : Option Pfx) (r : R2) (s : State) : Out :=
  .next (let mode := s.me.modeOf x
    s.issueLegal (.vrsum x r) mode.isSome ((fields2 r).uses 0) fun s =>
      s.modMe fun k => k.reduce x r (sumNode k (mode.getD .rne)))
def execVrmax (x : Option Pfx) (r : R2) (s : State) : Out :=
  .next (s.issue ((fields2 r).uses 0) fun s => s.modMe fun k => k.reduce x r fun _ => fminmax32 true)
def execVrmin (x : Option Pfx) (r : R2) (s : State) : Out :=
  .next (s.issue ((fields2 r).uses 0) fun s => s.modMe fun k => k.reduce x r fun _ => fminmax32 false)
def execVirsum (x : Option Pfx) (r : R2) (s : State) : Out :=
  .next (s.issue ((fields2 r).uses 0) fun s => s.modMe fun k => k.reduce x r fun _ a b => (a + b, 0))

/-! ## GNORM (R202) -/

/-- ±0 or subnormal. -/
def zeroOrSubnormal (x : Word32) : Bool := x.extractLsb' 23 8 == 0

def Core.gnorm (k : Core) (x : Option Pfx) (r : R2) (mode : RoundMode) : Core :=
  let mask := k.lanes x
  let n := (List.range 32).countP fun i => mask.getLsbD i
  if n = 0 then k.advance (pfxBytes x)
  else
    let (root, f) := k.reduceLanes x r.a (sumNode k mode)
    let sum := root.getD 0
    let uniform := zeroOrSubnormal sum
    let k' := k.perform x mode 0 r.d [r.a] fun l =>
      [if uniform then fdiv32 l.mode l.draw (fpNat 1) (fpNat n) else fdiv32 l.mode l.draw (l.src0 0) sum]
    let k' := k'.raise f
    if uniform then k'.raiseVstat vstatGate else k'

def execGnorm (x : Option Pfx) (r : R2) (s : State) : Out :=
  .next (let mode := s.me.modeOf x
    s.issueLegal (.gnorm x r) mode.isSome ((fields2 r).uses 0) fun s =>
      s.modMe fun k => k.gnorm x r (mode.getD .rne))

/-! ## SOW (R200) -/

/-- The uses of SOW and SOW.ix: g[a], g[a + 1] and g[b], and v[d]. -/
def sowUses (r : R3) : Uses :=
  { traps := policy r.pa [.g r.a, .g (regUp r.a 1)] ++ policy r.pb [.g r.b],
    waits := [.g r.a, .g (regUp r.a 1), .g r.b, .v r.d] }

/-- Lane `i` of SOW, or of SOW.ix. -/
def sowLane (ix : Bool) (a a1 key : Word) (i : Nat) : Word32 :=
  let c0 := a.extractLsb' 0 32 + BitVec.ofNat 32 (if ix then i else i / 4)
  let c3 := BitVec.ofNat 32 (fld a1 32 24)
  (sow key c0 (a.extractLsb' 32 32) (a1.extractLsb' 0 32) c3).getD (if ix then 0 else i % 4) 0

def sowOp (ix : Bool) (x : Option Pfx) (r : R3) (s : State) : State :=
  s.issue (sowUses r) fun s => s.modMe fun k =>
    let f := sowLane ix (k.gr r.a) (k.gr (regUp r.a 1)) (k.gr r.b)
    (k.setV r.d (maskedReg (k.lanes x) (pfxMz x) f (k.vr r.d))).advance (pfxBytes x)

def execSow (x : Option Pfx) (r : R3) (s : State) : Out := .next (sowOp false x r s)
def execSowIx (x : Option Pfx) (r : R3) (s : State) : Out := .next (sowOp true x r s)

/-! ## PART (R198) -/

/-- The bounds of core `c`'s share of [0, N) in a rectangle of cores. -/
def partBounds (c : Nat) (a b : Word) : Nat × Nat :=
  let n := fld a 0 32
  let x0 := fld b 0 4
  let y0 := fld b 4 4
  let f0 := fld b 8 3
  let nx := fld b 12 4 + 1
  let ny := fld b 16 4 + 1
  let nf := fld b 20 3 + 1
  let f := frondOf c
  let y := yOf c
  let x := xOf c
  if 12 < x0 + nx ∨ 12 < y0 + ny ∨ 8 < f0 + nf ∨ x < x0 ∨ x0 + nx ≤ x ∨ y < y0 ∨ y0 + ny ≤ y ∨ f < f0 ∨ f0 + nf ≤ f then
    (n, n)
  else
    let p := ((f - f0) * ny + (y - y0)) * nx + (x - x0)
    let total := nx * ny * nf
    (p * n / total, (p + 1) * n / total)

def execPart (x : Option Pfx) (r : R3) (s : State) : Out :=
  .next (s.issue (uses3 r) fun s => s.modMe fun k =>
    let (lo, hi) := partBounds s.cur (k.gr r.a) (k.gr r.b)
    (k.setG r.d (BitVec.ofNat 64 (hi * 2 ^ 32 + lo))).advance (pfxBytes x))

end Sys2Proof.Machine
end

