-- ==== Sys2Proof/Machine/Slices.lean ====
section
/-! DEFINITION. Tile slices, VLDT and VSTT (R187 to R189), and TOPK (R201). -/
namespace Sys2Proof.Machine

/-- A packet that reaches only the issuing core's own banks. -/
def State.ownPacket (s : State) (op : PktOp) (parts : List Part) (va : Word) (rd wr : Bool) : Packet :=
  { s.mkPacket s.cur op parts va rd wr false with
    own := true, dest := frondOf s.cur, cross := false, inUsc := false }

/-- The uses of a slice: a name and a position word under their policies, and v[d]. -/
def sliceUses (r : R3) : Uses :=
  { traps := policy r.pa [.g r.a] ++ policy r.pb [.g r.b], waits := [.g r.a, .g r.b, .v r.d] }

def posRow (w : Word) : Nat := fld w 0 12
def posCol (w : Word) : Nat := fld w 12 12

/-- R188: the tile, row and column of a slice. -/
def State.sliceAt (s : State) (c : Nat) (name pos : Word) (byRow store : Bool) : TrapVal ⊕ (Tile × Nat × Nat) :=
  match s.localTile c name with
  | .inl t => .inl t
  | .inr (_, t) =>
    let row := posRow pos
    let col := posCol pos
    if fld pos 24 40 ≠ 0 ∨ t.rows ≤ row ∨ t.cols ≤ col ∨ (t.fmt.isBlock ∧ byRow ∧ col % 32 ≠ 0) then
      .inl (loftFault 0x12 name)
    else if t.fmt.is64 ∨ (store ∧ !byRow ∧ t.fmt.isBlock) then .inl (loftFault 0x13 name)
    else .inr (t, row, col)

/-- The element that lane `i` of a slice addresses; none where it lies outside the tile. -/
def laneElem (t : Tile) (byRow : Bool) (row col i : Nat) : Option (Nat × Nat) :=
  let (r, c) := if byRow then (row, col + i) else (row + i, col)
  if r < t.rows ∧ c < t.cols then some (r, c) else none

/-- A slice instruction's checks at issue (R77, R188); `body` receives the mode, the tile and the position. -/
def sliceOp (i : Instr) (byRow store : Bool) (x : Option Pfx) (r : R3)
    (body : RoundMode → Tile → Nat → Nat → State → State) (s : State) : State :=
  let mode := s.me.modeOf x
  s.issueLegal i mode.isSome (sliceUses r) fun s =>
    if s.me.held then s.wait
    else match s.sliceAt s.cur (s.me.gr r.a) (s.me.gr r.b) byRow store with
      | .inl (c, v) => s.trap c v
      | .inr (t, row, col) => body (mode.getD .rne) t row col s

/-- The words that elements of a tile occupy, once each. -/
def Tile.elemWords (t : Tile) (es : List (Nat × Nat)) : List Nat :=
  (es.foldl (fun (m : SMap Unit) e => (t.regionWords e.1 e.2 1 1).foldl (fun m w => mapSet m w ()) m) []).map (·.1)

/-- A read of words of a level-S tile. -/
def Tile.readParts (t : Tile) (ws : List Nat) : List Part := ws.map fun w => ⟨scratchAddr t.core (t.base.toNat + 8 * w), 0, 0⟩

/-- VLDT (R184, R187, R188). -/
def sliceLoad (i : Instr) (byRow : Bool) (x : Option Pfx) (r : R3) (s : State) : State :=
  sliceOp i byRow false x r (fun mode t row col s =>
    let k := s.me
    let mask := k.lanes x
    let elems := (List.range 32).filterMap fun i => if mask.getLsbD i then laneElem t byRow row col i else none
    let sl : Slice :=
      { tile := t, byRow := byRow, row := row, col := col, active := mask, mz := pfxMz x, old := k.vr r.d, mode := mode,
        srkey := k.srkey }
    let p := s.ownPacket (.vldt r.d sl) (t.readParts (t.elemWords elems)) (k.gr r.a) true false
    (s.send p).modMe fun k => (k.armV r.d).advance (pfxBytes x)) s

/-- One lane stored to an element format (R188): an FP32 lane moves to an `fp32` tile bit for bit. -/
def storeElem (t : Tile) (mode : RoundMode) (srkey : Word) (r c : Nat) (lane : Word32) : BitWrite × FlagBits :=
  let (n, f) := if t.fmt = .fp32 then (lane.toNat, 0)
    else encodeElem t.fmt mode (srDraw mode srkey (t.row0 + r) (t.col0 + c) t.stream) (elemOfLane t.fmt lane)
  (⟨t.fmt.elemBit t.cols r c, t.fmt.width, n⟩, f)

/-- The bits and flags of a VSTT: a block-format row is encoded whole, whatever the mask (R188). DESIGN CHOICE (log entry
70): an inactive lane's element keeps its bits under mz = 1 too. -/
def sliceWrites (t : Tile) (mode : RoundMode) (srkey : Word) (byRow : Bool) (row col : Nat) (mask : Word32) (v : VReg) :
    List BitWrite × FlagBits :=
  if t.fmt.isBlock then encodeRegion t mode srkey row col 1 32 fun _ j => .fl (dec32 (v.at j))
  else
    (List.range 32).foldl (fun (ws, g) i =>
      if mask.getLsbD i then
        match laneElem t byRow row col i with
        | some (r, c) => let (w, f) := storeElem t mode srkey r c (v.at i); (ws ++ [w], g ||| f)
        | none => (ws, g)
      else (ws, g)) (([] : List BitWrite), (0 : FlagBits))

/-- VSTT (R187, R188). -/
def sliceStore (i : Instr) (byRow : Bool) (x : Option Pfx) (r : R3) (s : State) : State :=
  sliceOp i byRow true x r (fun mode t row col s =>
    let k := s.me
    let (ws, g) := sliceWrites t mode k.srkey byRow row col (k.lanes x) (k.vr r.d)
    let parts := scratchParts t.core t.base.toNat ws
    let s' := if parts.isEmpty then s else s.send (s.ownPacket (.st true) parts (k.gr r.a) false true)
    s'.modMe fun k => (k.raise g).advance (pfxBytes x)) s

def execVldtRow (x : Option Pfx) (r : R3) (s : State) : Out := .next (sliceLoad (.vldtRow x r) true x r s)
def execVldtCol (x : Option Pfx) (r : R3) (s : State) : Out := .next (sliceLoad (.vldtCol x r) false x r s)
def execVsttRow (x : Option Pfx) (r : R3) (s : State) : Out := .next (sliceStore (.vsttRow x r) true x r s)
def execVsttCol (x : Option Pfx) (r : R3) (s : State) : Out := .next (sliceStore (.vsttCol x r) false x r s)

/-! ## TOPK (R201) -/

def PktOp.isTopk : PktOp → Bool
  | .topk .. => true
  | _ => false

/-- R201, R188: the tile and the control word of a TOPK. -/
def State.topkAt (s : State) (c : Nat) (name ctl : Word) : TrapVal ⊕ TopkReq :=
  match s.localTile c name with
  | .inl t => .inl t
  | .inr (_, t) =>
    let row := fld ctl 0 12
    let col := fld ctl 12 12
    let n := fld ctl 24 12 + 1
    let k := fld ctl 36 6 + 1
    if fld ctl 42 22 ≠ 0 ∨ t.rows ≤ row ∨ t.cols < col + n ∨ 32 < k then .inl (loftFault 0x12 name)
    else if t.fmt.isBlock ∨ t.fmt.is64 then .inl (loftFault 0x13 name)
    else .inr { tile := t, row := row, col := col, n := n, k := k }

/-- TOPK: it waits at issue until the previous TOPK has filled. DESIGN CHOICE (log entry 71): its reads are an Rd of R295,
which no acquire or FENCE holds or waits for. -/
def topkOp (x : Option Pfx) (r : R3) (s : State) : State :=
  s.issue (sliceUses r) fun s =>
    if (s.mine s.cur).any fun p => p.op.isTopk then s.wait
    else match s.topkAt s.cur (s.me.gr r.a) (s.me.gr r.b) with
      | .inl (c, v) => s.trap c v
      | .inr q =>
        let p := s.ownPacket (.topk r.d q) (q.tile.readParts (q.tile.regionWords q.row q.col 1 q.n)) (s.me.gr r.a) true false
        (s.send p).modMe fun k => (k.armV r.d).advance (pfxBytes x)

def execTopk (x : Option Pfx) (r : R3) (s : State) : Out := .next (topkOp x r s)

end Sys2Proof.Machine
end

