-- ==== Sys2Proof/Machine/Matrix.lean ====
section
/-! DEFINITION. The matrix engine: accumulators and MCFG (R222 to R227), MMA (R228 to R233), slice moves (R234) and MDRAIN
(R235, R236), with the steps that perform the matrix queue. -/
namespace Sys2Proof.Machine

/-! ## Accumulators -/

/-- `tval` of UNCONFIGURED_ACC (R224). -/
def accFault (reason : Nat) (n : KField) : TrapVal := (.unconfiguredAcc, BitVec.ofNat 64 (reason * 2 ^ 8 + n.val))

def Core.modAcc (k : Core) (n : KField) (f : Accumulator → Accumulator) : Core :=
  { k with acc := k.acc.set n.val (f (k.acc.get n)) n.isLt }

def Accumulator.setDirty (a : Accumulator) : Accumulator := { a with cfg := a.cfg ||| onesAt 18 1 }
def Accumulator.ofmt (a : Accumulator) : Nat := fld a.cfg 12 5

def MatItem.names (n : KField) : MatItem → Bool
  | .mma _ o => o.k == n
  | .mswap _ k => k == n
  | .mzero _ k => k == n
  | .mdrain _ o => o.k == n
  | .matmul _ => false
  | .join _ => false

/-- R225: MSWAP and MDRAIN. -/
def MatItem.swapsOrDrains (n : KField) : MatItem → Bool
  | .mswap _ k => k == n
  | .mdrain _ o => o.k == n
  | _ => false

/-- R225: a queue holds 16 entries. -/
def Core.matrixFull (k : Core) : Bool := 16 ≤ k.mqueue.length

/-- An operation enters the matrix queue with a fresh number. -/
def State.enqueueMatrix (s : State) (c : Nat) (item : Nat → MatItem) : State :=
  let (id, s) := s.fresh
  s.modCore c fun k => { k with mqueue := k.mqueue ++ [item id] }

/-! ## MCFG, MZERO, MSWAP (R227) -/

/-- R227: a configuration word that MCFG accepts. -/
def accWordOk (w : Word) : Bool :=
  fld w 17 47 == 0 &&
    match fmtOfCode (fld w 12 5) with
    | none => false
    | some f => !f.is64 && (!f.isBlock || fld w 6 6 == 31 || fld w 6 6 == 63)

def mcfg (a : Reg) (p : Bool) (n : KField) (s : State) : State :=
  s.issue { traps := policy p [.g a], waits := [.g a] } fun s =>
    let k := s.me
    if k.mqueue.any (·.names n) || k.queues.toList.any (fun q => q.any (·.follows n)) then s.wait
    else
      let w := k.gr a
      if !accWordOk w then s.trap .unconfiguredAcc (accFault 0x01 n).2
      else s.modMe fun k => (k.modAcc n fun _ => { cfg := w ||| onesAt 17 1, work := [], vis := [] }).advance 4

def execMcfg (a : Reg) (p : Bool) (k : KField) (s : State) : Out := .next (mcfg a p k s)

/-- MSWAP and MZERO at issue: a configured accumulator, and room in the queue. -/
def matrixEntry (n : KField) (item : Nat → MatItem) (s : State) : State :=
  if !(s.me.acc.get n).configured then s.trap .unconfiguredAcc (accFault 0x00 n).2
  else if s.me.matrixFull then s.wait
  else (s.enqueueMatrix s.cur item).advance 4

def execMswap (k : KField) (s : State) : Out := .next (matrixEntry k (fun id => .mswap id k) s)
def execMzero (k : KField) (s : State) : Out := .next (matrixEntry k (fun id => .mzero id k) s)

/-! ## MMA at issue (R228 to R231) -/

/-- R229: the classes of formats that an operand may have. -/
def Fmt.mmaOk (f : Fmt) : Bool :=
  match f with
  | .fp16 | .bf16 | .e4m3 | .e5m2 | .mxfp8e4m3 | .mxfp8e5m2 | .tsb8 | .s8 | .z8 | .mxfp6e3m2 | .mxfp6e2m3 | .tsb6
  | .mxfp4 | .tsb4 => true
  | _ => false

/-- Bytes of the B image (R230). -/
def imageBytes (f : Fmt) (sp : Bool) (n kdim : Nat) : Nat :=
  if sp then storageBytes n (kdim / 2) f + n * (kdim / 8) else storageBytes n kdim f

/-- R231: the checks of an MMA of core `c` whose fields name accumulator `n`: the operation, with `d` to be filled. -/
def State.mmaCheck (s : State) (c : Nat) (n : KField) (d : Reg) (name pos desc : Word) (origin : Option KField) :
    TrapVal ⊕ MmaOp :=
  let acc := (s.core c).acc.get n
  if !acc.configured then .inl (accFault 0x00 n)
  else match s.localTile c name with
    | .inl t => .inl t
    | .inr (slot, t) =>
      let m := acc.rows
      let cols := acc.cols
      let row := posRow pos
      let col := posCol pos
      let kdim := fld desc 17 12 + 1
      let off := fld desc 0 17
      let sp := wbit desc 43
      if fld pos 24 40 ≠ 0 ∨ t.rows < row + m ∨ t.cols < col + kdim ∨
          (t.fmt.isBlock ∧ (col % 32 ≠ 0 ∨ kdim % 32 ≠ 0)) then .inl (loftFault 0x12 name)
      else match fmtOfCode (fld desc 38 5) with
        | none => .inl (loftFault 0x13 name)
        | some bf =>
          if !t.fmt.mmaOk ∨ !bf.mmaOk ∨ t.fmt.isInt ≠ bf.isInt then .inl (loftFault 0x13 name)
          else if fld desc 44 20 ≠ 0 ∨ fld desc 29 9 ≠ 0 ∨ off % 8 ≠ 0 ∨ 2 ^ 17 < off + imageBytes bf sp cols kdim ∨
              (sp ∧ kdim % 8 ≠ 0) ∨ (bf.isBlock ∧ kdim % (if sp then 64 else 32) ≠ 0) then .inl (loftFault 0x15 name)
          else .inr
            { d := d, k := n, tile := t, slot := slot, row := row, col := col, sp := sp, bfmt := bf, kdim := kdim,
              off := off, m := m, n := cols, origin := origin, after := 0, pc := (s.core c).pc }

/-- Registers of MMA and MDRAIN: g[a], g[a + 1], g[b] and g[d]. -/
def matrixUses (r : R3) : Uses :=
  { traps := policy r.pa [.g r.a, .g (regUp r.a 1)] ++ policy r.pb [.g r.b],
    waits := [.g r.a, .g (regUp r.a 1), .g r.b, .g r.d] }

/-- MMA (R228). -/
def mma (r : R3) (n : KField) (s : State) : State :=
  s.issueFenced (matrixUses r) fun s =>
    if s.me.matrixFull then s.wait
    else match s.mmaCheck s.cur n r.d (s.me.gr r.a) (s.me.gr (regUp r.a 1)) (s.me.gr r.b) none with
      | .inl (c, v) => s.trap c v
      | .inr o => (s.enqueueMatrix s.cur fun id => .mma id { o with after := id }).modMe fun k => (k.armG r.d).advance 4

def execMma (r : R3) (k : KField) (s : State) : Out := .next (mma r k s)

/-! ## MMA performed (R230, R232) -/

/-- A value that stands for a NaN of the engine (R232). -/
def wideNaN : BitVec 40 := 0x7FC0000000

/-- A running exact sum: an exact number, whether every term so far is −0, infinities met, and NaN. -/
structure ExactAcc where
  m    : Int
  e    : Int
  neg0 : Bool
  pinf : Bool
  ninf : Bool
  nan  : Bool

def ExactAcc.start : ExactAcc := ⟨0, 0, true, false, false, false⟩

def ExactAcc.add (x : ExactAcc) : FVal → ExactAcc
  | .nan _ => { x with nan := true }
  | .inf s => if s then { x with ninf := true, neg0 := false } else { x with pinf := true, neg0 := false }
  | .num s m e =>
    let x := { x with neg0 := x.neg0 && s && m == 0 }
    if m = 0 then x
    else if x.m = 0 then { x with m := mantAt s m e e, e := e }
    else
      let q := min x.e e
      { x with m := x.m * 2 ^ (x.e - q).toNat + mantAt s m e q, e := q }

/-- The exact sum (R232); none for NaN. -/
def ExactAcc.value (x : ExactAcc) : Option FVal :=
  if x.nan || (x.pinf && x.ninf) then none
  else if x.pinf then some (.inf false)
  else if x.ninf then some (.inf true)
  else if x.m = 0 then some (.num x.neg0 0 0)
  else some (.num (x.m < 0) x.m.natAbs x.e)

/-- An integer has one zero. -/
def FVal.oneZero : FVal → FVal
  | .num s m e => .num (s && m != 0) m e
  | v => v

/-- A product of two elements; 0 × ∞ and any NaN give NaN. A product of integers is an integer. -/
def mmaTerm (int : Bool) (a b : FVal) : FVal :=
  if a.isNaN || b.isNaN then FVal.bareNaN
  else
    let v := (mulVal a b).getD FVal.bareNaN
    if int then v.oneZero else v

def roundW (v : FVal) : BitVec 40 :=
  if v.isNaN then wideNaN else BitVec.ofNat 40 (fmtWide.encode .rne 0 v).1

def decodeW (x : BitVec 40) : FVal := fmtWide.decode x.toNat

/-- One block's sum added to an element of the working bank (R232). -/
def mmaStep (w : BitVec 40) (terms : List FVal) : BitVec 40 :=
  match (terms.foldl ExactAcc.add ExactAcc.start).value with
  | none => wideNaN
  | some s =>
    let a := decodeW w
    let b := decodeW (roundW s)
    if a.isNaN then wideNaN
    else match addVal .rne a b with
      | none => wideNaN
      | some v => roundW v

/-- B(j, n): image element (n, j), expanded where it is held compressed; a group whose positions break i0 < i1 gives
NaN (R230, R158). `rd` reads a byte of the image. -/
def imageElem (o : MmaOp) (rd : Nat → Byte) (n j : Nat) : FVal :=
  if o.sp then
    let cols := o.kdim / 2
    let base := storageBytes o.n cols o.bfmt
    let g := j / 4
    let byte := (rd (base + n * (o.kdim / 8) + g / 2)).toNat / 2 ^ (4 * (g % 2))
    let i0 := byte % 4
    let i1 := byte / 4 % 4
    if i1 ≤ i0 then FVal.bareNaN
    else if j % 4 = i0 then (decodeElem o.bfmt cols rd n (2 * g)).toF
    else if j % 4 = i1 then (decodeElem o.bfmt cols rd n (2 * g + 1)).toF
    else .num false 0 0
  else (decodeElem o.bfmt o.kdim rd n j).toF

/-- The working bank after an MMA: A's bytes by `ra`, the image's by `rb` (R232). -/
def mmaBank (o : MmaOp) (ra rb : Nat → Byte) (w : Bank) : Bank :=
  let as := (List.range o.m).map fun i =>
    (List.range o.kdim).map fun j => (decodeElem o.tile.fmt o.tile.cols ra (o.row + i) (o.col + j)).toF
  let bs := (List.range o.n).map fun n => (List.range o.kdim).map fun j => imageElem o rb n j
  as.zipIdx.foldl (fun w (a, i) =>
    bs.zipIdx.foldl (fun w (b, n) =>
      let terms := List.zipWith (mmaTerm o.tile.fmt.isInt) a b
      w.put i n ((List.range ((o.kdim + 31) / 32)).foldl (fun x blk => mmaStep x ((terms.drop (32 * blk)).take 32))
        (w.at i n))) w) w

/-- R226: a write of core `c` to its own scratchpad, issued before number `after`, has still to be performed, or a copy's event
holds one of the words (R289). -/
def State.engineHeld (s : State) (c after : Nat) (words : List Nat) : Bool :=
  ((s.mine c).any fun p => p.own && p.wr && p.unperformed && p.id < after) || s.landsOn words

/-- The head of core `c`'s matrix queue leaves it. -/
def State.popMatrix (s : State) (c : Nat) : State :=
  (s.modCore c fun k => { k with mqueue := k.mqueue.tail }).settleJoins c

/-- MMA_PERFORM (R232), once the core's earlier writes to its scratchpad are performed (R226). Where a word of A meets an
uncorrectable error, nothing is accumulated and g[d] stays empty (R129, R98). -/
def State.mmaPerform (s : State) (c : Nat) : State :=
  match (s.core c).mqueue with
  | .mma id o :: _ =>
    let ws := o.tile.regionWords o.row o.col o.m o.kdim
    if s.engineHeld c o.after (ws.map o.tile.scratchWord) then s
    else match s.gather o.tile ws [] with
      | .error va => (s.accessError c va va o.pc id).popMatrix c
      | .ok ws s =>
        let rb := fun i => s.mem.read (weightAddr c (o.off + i))
        (s.modCore c fun k =>
          (k.modAcc o.k fun a => { a with work := mmaBank o (wordsByte ws) rb a.work }.setDirty).fillG o.d 8 1 id).popMatrix c
  | _ => s

def execMmaPerform (c : CoreNo) (s : State) : Out := .next (s.mmaPerform c.val)

/-- MSWAP_PERFORM (R227). -/
def State.mswapPerform (s : State) (c : Nat) : State :=
  match (s.core c).mqueue with
  | .mswap _ n :: _ =>
    (s.modCore c fun k => k.modAcc n fun a => { a with work := a.vis, vis := a.work }).popMatrix c
  | _ => s

def execMswapPerform (c : CoreNo) (s : State) : Out := .next (s.mswapPerform c.val)

/-- MZERO_PERFORM (R227). -/
def State.mzeroPerform (s : State) (c : Nat) : State :=
  match (s.core c).mqueue with
  | .mzero _ n :: _ => (s.modCore c fun k => k.modAcc n fun a => { a with work := [] }).popMatrix c
  | _ => s

def execMzeroPerform (c : CoreNo) (s : State) : Out := .next (s.mzeroPerform c.val)

/-! ## Slice moves (R234) -/

/-- The element of a visible bank that lane `i` addresses. -/
def Accumulator.laneElem (a : Accumulator) (byRow : Bool) (pos : Word) (i : Nat) : Option (Nat × Nat) :=
  let row := fld pos 0 6
  let col := fld pos 6 6
  let (r, c) := if byRow then (row, col + i) else (row + i, col)
  if r < a.rows ∧ c < a.cols then some (r, c) else none

/-- The checks and waits of a slice move (R224, R225, R234). -/
def moveOp (r : R2) (n : KField) (body : Accumulator → Word → State → State) (s : State) : State :=
  let acc := s.me.acc.get n
  if s.me.mqueue.any (·.swapsOrDrains n) then s.wait
  else if !acc.configured then s.trap .unconfiguredAcc (accFault 0x00 n).2
  else
    let pos := s.me.gr r.a
    if fld pos 12 52 ≠ 0 ∨ acc.rows ≤ fld pos 0 6 ∨ acc.cols ≤ fld pos 6 6 then
      s.trap .unconfiguredAcc (accFault 0x02 n).2
    else body acc pos s

def moveUses (r : R2) : Uses := { traps := policy r.pa [.g r.a], waits := [.g r.a, .v r.d] }

/-- wide32 to FP32 (R234). -/
def wideTo32 (mode : RoundMode) (draw : Nat) (x : BitVec 40) : Word32 × FlagBits :=
  let v := decodeW x
  if v.isNaN then (qnan32, 0) else round32 mode draw v

/-- MROW.get, MCOL.get. -/
def moveGet (i : Instr) (byRow : Bool) (r : R2) (n : KField) (s : State) : State :=
  let mode := s.me.fcsrMode
  s.issueLegal i mode.isSome (moveUses r) (moveOp r n fun acc pos s => s.modMe fun k =>
    let one := fun i => match acc.laneElem byRow pos i with
      | some (row, col) => wideTo32 (mode.getD .rne) (k.laneDraw (mode.getD .rne) i) (acc.vis.at row col)
      | none => (0, 0)
    ((k.setV r.d (Vector.ofFn fun i => (one i.val).1)).raise (orLanes (BitVec.allOnes 32) fun i => (one i).2)).advance 4)

/-- FP32 to wide32, exactly; NV for a signalling NaN. -/
def wideOf32 (x : Word32) : BitVec 40 × FlagBits :=
  let v := dec32 x
  (roundW v, if v.isSig then flagNV else 0)

/-- MROW.put, MCOL.put. DESIGN CHOICE (log entry 73): a signalling NaN raises NV where its lane is in range. -/
def movePut (byRow : Bool) (r : R2) (n : KField) (s : State) : State :=
  s.issue (moveUses r) (moveOp r n fun acc pos s => s.modMe fun k =>
    let v := k.vr r.d
    let (vis, f) := (List.range 32).foldl (fun (b, g) i =>
      match acc.laneElem byRow pos i with
      | some (row, col) => let (x, f) := wideOf32 (v.at i); (b.put row col x, g ||| f)
      | none => (b, g)) (acc.vis, (0 : FlagBits))
    ((k.modAcc n fun a => { a with vis := vis }.setDirty).raise f).advance 4)

def execMrowGet (r : R2) (k : KField) (s : State) : Out := .next (moveGet (.mrowGet r k) true r k s)
def execMrowPut (r : R2) (k : KField) (s : State) : Out := .next (movePut true r k s)
def execMcolGet (r : R2) (k : KField) (s : State) : Out := .next (moveGet (.mcolGet r k) false r k s)
def execMcolPut (r : R2) (k : KField) (s : State) : Out := .next (movePut false r k s)

/-! ## MDRAIN (R235, R236) -/

/-- The mode of a rounding code of which 0b000 reads `fcsr` (R152, R235). -/
def Core.codeMode (k : Core) (code : Nat) : Option RoundMode := if code = 0 then k.fcsrMode else modeOfCode code

/-- R235: the checks of an MDRAIN but those of its amax address. -/
def State.drainCheck (s : State) (c : Nat) (n : KField) (d : Reg) (name word amax : Word) : TrapVal ⊕ DrainOp :=
  let k := s.core c
  let acc := k.acc.get n
  if !acc.configured then .inl (accFault 0x00 n)
  else match s.localTile c name with
    | .inl t => .inl t
    | .inr (slot, t) =>
      let row := posRow word
      let col := posCol word
      match k.codeMode (fld word 24 3) with
      | none => .inl (loftFault 0x12 name)
      | some mode =>
        if fld word 27 37 ≠ 0 ∨ t.rows < row + acc.rows ∨ t.cols < col + acc.cols ∨ (t.fmt.isBlock ∧ col % 32 ≠ 0) then
          .inl (loftFault 0x12 name)
        else if t.fmt.code ≠ acc.ofmt then .inl (loftFault 0x14 name)
        else .inr
          { d := d, k := n, tile := t, slot := slot, row := row, col := col, mode := mode, srkey := k.srkey,
            amax := amax, pc := k.pc, written := false, flying := [], failed := false, largest := 0, merge := none }

/-- An MDRAIN whose checks have passed enters the queue. -/
def State.enterDrain (s : State) (d : Reg) (o : DrainOp) : State :=
  (s.enqueueMatrix s.cur fun id => .mdrain id o).modMe fun k => (k.armG d).advance 4

/-- MDRAIN (R235). -/
def mdrain (r : R3) (n : KField) (s : State) : State :=
  s.issueFenced (matrixUses r) fun s =>
    if s.me.matrixFull then s.wait
    else
      let amax := s.me.gr r.b
      match s.drainCheck s.cur n r.d (s.me.gr r.a) (s.me.gr (regUp r.a 1)) amax with
      | .inl (c, v) => s.trap c v
      | .inr o =>
        if amax = 0 then s.enterDrain r.d o
        else s.atTarget amax 4 .rw fun _ _ s => s.enterDrain r.d o

def execMdrain (r : R3) (k : KField) (s : State) : Out := .next (mdrain r k s)

/-- An element of a bank as MDRAIN encodes it: a NaN becomes the tile format's default NaN. -/
def drainVal (x : BitVec 40) : EVal :=
  let v := decodeW x
  .fl (if v.isNaN then FVal.bareNaN else v)

/-- R236 step 2: the largest magnitude of the bank, as FP32 bits. -/
def Accumulator.largest (a : Accumulator) : Word32 :=
  let vs := (List.range a.rows).flatMap fun r => (List.range a.cols).map fun c => decodeW (a.vis.at r c)
  if vs.any FVal.isNaN then qnan32
  else if vs.any FVal.bad then 0x7F800000
  else
    match maxMag vs with
    | .num _ m e => (round32 .rup 0 (.num false m e)).1
    | v => (round32 .rup 0 v).1

/-- The drain at the head of core `c`'s matrix queue replaced. -/
def Core.setDrain (k : Core) (o : DrainOp) : Core :=
  match k.mqueue with
  | .mdrain id _ :: r => { k with mqueue := .mdrain id o :: r }
  | _ => k

/-- R236 step 3: the amax merge is sent, waits for a walk (R95), or meets a fault. -/
def State.sendMerge (s : State) (c id : Nat) (o : DrainOp) : State :=
  match s.translateVa c reqAmax o.amax .rw with
  | (.ok pa device, s) =>
    let op := PktOp.amax (o.largest.zeroExtend 64) (pa % 8)
    let p := { s.mkPacket c op [⟨pa, 0, 0⟩] o.amax false false device with pc := o.pc, since := id }
    (s.send p).modCore c fun k => k.setDrain { o with merge := some p.id }
  | (.wait, s) => s
  | (.trap _, s) => (s.accessError c o.amax o.amax o.pc id).popMatrix c

/-- R236 steps 1 and 2: the words of a drain are sent to its tile as packets of the matrix engine, each written indivisibly
when it takes effect (R248, R308), and the largest magnitude of the bank is formed. -/
def State.sendDrain (s : State) (c id : Nat) (o : DrainOp) : State :=
  let acc := (s.core c).acc.get o.k
  let ws := gatherWrites (encodeRegion o.tile o.mode o.srkey o.row o.col acc.rows acc.cols fun i j => drainVal (acc.vis.at i j)).1
  let (ids, s) := s.sendEngine c o.pc id (.engWrite .matrix 0 0 o.tile)
    (ws.map fun (w, mask, data) => ⟨w, false, ⟨o.tile.scratchWord w, mask, data⟩⟩)
  s.modCore c fun k => k.setDrain { o with written := true, flying := ids, largest := acc.largest }

/-- R236, once the words of the drain at the head of the queue have been acknowledged: it fails with an error response to one
of them (R98), or merges its amax, or is complete. -/
def State.drainGoesOn (s : State) (c id : Nat) (o : DrainOp) : State :=
  if o.failed then s.popMatrix c
  else if o.amax = 0 then (s.modCore c fun k => k.fillG o.d 8 1 id).popMatrix c
  else s.sendMerge c id o

/-- MDRAIN_PERFORM (R236): the drain at the head of the queue sends its words, and goes on when they have taken effect. Each
word comes after the core's earlier accesses to it and its earlier writes to other fronds (R226, R298, R301, R308). -/
def State.mdrainPerform (s : State) (c : Nat) : State :=
  match (s.core c).mqueue with
  | .mdrain id o :: _ =>
    if !o.written then s.sendDrain c id o
    else if o.merge.isSome || !o.flying.isEmpty then s
    else s.drainGoesOn c id o
  | _ => s

def execMdrainPerform (c : CoreNo) (s : State) : Out := .next (s.mdrainPerform c.val)

end Sys2Proof.Machine
end

