-- ==== Sys2Proof/Machine/Copy.lean ====
section
/-! DEFINITION. The copy engine: the copy instructions at issue (R151 to R154, R160), a copy performed (R155 to R159, R162,
R289), its completion (R153, R161), QFENCE and QWAIT (R164). -/
namespace Sys2Proof.Machine

/-! ## The control word (R152) -/

def ctlRows (w : Word) : Nat := fld w 24 12 + 1
def ctlCols (w : Word) : Nat := fld w 36 12 + 1
def ctlRow (w : Word) : Nat := fld w 0 12
def ctlCol (w : Word) : Nat := fld w 12 12
def ctlWb (w : Word) : Bool := wbit w 48
def ctlCmp (w : Word) : Bool := wbit w 49
def ctlTr (w : Word) : Bool := wbit w 50
def ctlRm (w : Word) : Nat := fld w 51 3
def ctlDests (w : Word) : Nat := fld w 54 4 + 1

/-- CopyVal: the `tval` of COPY_FAULT (R161). -/
def copyVal (pc : Word) (q : KField) (reason failmask : Nat) : Word :=
  BitVec.ofNat 64 (fld pc 0 32 * 2 ^ 32 + q.val * 2 ^ 24 + reason % 2 ^ 8 * 2 ^ 16 + failmask % 2 ^ 16)

/-! ## At issue -/

/-- The MMA word that a follow-on word holds; none where R154 calls it bad. -/
def heldMma (w : Word) : Option (R3 × KField) :=
  if fld w 32 32 ≠ 0 then none
  else match decode (bytesOfWord w) with
    | .ok (.mma r k, _) => some (r, k)
    | _ => none

/-- The form of a copy instruction: CPYM, and `.mma`. -/
structure CopyForm where
  many : Bool
  mma  : Bool
deriving DecidableEq, Repr

/-- The destination registers that exist. -/
def destRegs (b : Reg) (n : Nat) : List Reg := (List.range n).filterMap fun i => if b.val + i < 64 then some (regUp b i) else none

/-- R63, R151: the registers that the word alone fixes, of the first pass. -/
def copyUses (f : CopyForm) (r : R3) : Uses :=
  let group := [.g r.a, .g (regUp r.a 1)] ++ if f.mma then [.g (regUp r.a 2)] else []
  { traps := policy r.pa group ++ policy r.pb [.g r.b], waits := group ++ [.g r.b] }

/-- R63, R151: the registers that the control word, and the held word, add, and g[d], which must be full before it is armed
(R168). -/
def Core.copyUses2 (k : Core) (f : CopyForm) (r : R3) : Uses :=
  let ctl := k.gr (regUp r.a 1)
  let cmp := if ctlCmp ctl then [RegRef.g (regUp r.a 3)] else []
  let dests := ((destRegs r.b (ctlDests ctl)).drop 1).map RegRef.g
  let dests := if f.many then dests else []
  let held := if f.mma then (heldMma (k.gr (regUp r.a 2))).map (matrixUses ·.1) else none
  { traps := policy r.pa cmp ++ policy r.pb dests ++ (held.elim [] (·.traps)),
    waits := cmp ++ dests ++ held.elim [] (·.waits) ++ [.g r.d] }

/-- R154: a control word, destination range or follow-on word that is bad. -/
def Core.copyBad (k : Core) (f : CopyForm) (r : R3) : Bool :=
  let ctl := k.gr (regUp r.a 1)
  fld ctl 58 6 != 0 || (k.codeMode (ctlRm ctl)).isNone || (!f.many && ctlDests ctl != 1) ||
    63 < r.b.val + ctlDests ctl - 1 || (ctlWb ctl && f.many) ||
    (ctlCmp ctl && (ctlCol ctl % 8 != 0 || ctlCols ctl % 8 != 0)) ||
    (f.mma && (heldMma (k.gr (regUp r.a 2))).isNone)

/-- The first name of a list that fails the first three checks of R131. -/
def State.badName (s : State) (c : Nat) : List Word → Option TrapVal
  | [] => none
  | n :: ns =>
    match s.resolve c n with
    | .inl t => some t
    | .inr _ => s.badName c ns

/-- The checks of R154 in order, the held MMA's last: the follow-on, or the trap. -/
def State.copyChecks (s : State) (f : CopyForm) (r : R3) (q : KField) : TrapVal ⊕ Option MmaOp :=
  let k := s.me
  let ctl := k.gr (regUp r.a 1)
  let dests := (destRegs r.b (ctlDests ctl)).map k.gr
  let names := [k.gr r.a] ++ (if ctlCmp ctl then [k.gr (regUp r.a 3)] else []) ++ if ctlWb ctl then [] else dests
  if k.copyBad f r then .inl (.copyFault, copyVal k.pc q 0x01 0)
  else match s.badName s.cur names with
    | some t => .inl t
    | none =>
      let off := k.gr r.b
      if ctlWb ctl && (fld off 0 3 != 0 || 2 ^ 17 ≤ off.toNat) then .inl (.copyFault, copyVal k.pc q 0x01 0)
      else if !f.mma then .inr none
      else match heldMma (k.gr (regUp r.a 2)) with
        | none => .inl (.copyFault, copyVal k.pc q 0x01 0)
        | some (h, n) =>
          match s.mmaCheck s.cur n h.d (k.gr h.a) (k.gr (regUp h.a 1)) (k.gr h.b) (some q) with
          | .inl t => .inl t
          | .inr o => .inr (some o)

def CopyRun.new : CopyRun := { phase := .waiting, faulted := false, reason := 0, failmask := 0, dreasons := [], flying := [] }

/-- A copy whose checks have passed enters its queue (R154). DESIGN CHOICE (log entry 69): where the held MMA's g[d] is the
copy's own, it is armed once; the copy's fill fills it, and the follow-on's then raises UNARMED_FILL. -/
def State.enterCopy (s : State) (r : R3) (q : KField) (follow : Option MmaOp) : State :=
  let k := s.me
  let ctl := k.gr (regUp r.a 1)
  let (id, s) := s.fresh
  let o : CopyOp :=
    { id := id, d := r.d, k := q, pc := k.pc, src := k.gr r.a, ctl := ctl, metaName := k.gr (regUp r.a 3),
      dsts := (destRegs r.b (ctlDests ctl)).map k.gr, mode := (k.codeMode (ctlRm ctl)).getD .rne, srkey := k.srkey,
      follow := follow, after := id, frame := k.evalTile }
  s.modMe fun k =>
    let k := { k with queues := k.queues.set q.val (k.queues.get q ++ [CopyItem.copy o CopyRun.new]) q.isLt }
    let k := match follow with | some m => k.armG m.d | none => k
    (k.armG r.d).advance 4

/-- The copy instructions (R151, R154). DESIGN CHOICE (log entry 82): a full queue stalls the instruction (R149) before the
checks of R154 are made. -/
def copyOp (f : CopyForm) (r : R3) (q : KField) (s : State) : State :=
  s.issueFenced (copyUses f r) fun s => s.issue (s.me.copyUses2 f r) fun s =>
    if 16 ≤ (s.me.queues.get q).length then s.wait
    else match s.copyChecks f r q with
      | .inl (c, v) => s.trap c v
      | .inr follow => s.enterCopy r q follow

def execCpy (r : R3) (k : KField) (s : State) : Out := .next (copyOp ⟨false, false⟩ r k s)
def execCpyMma (r : R3) (k : KField) (s : State) : Out := .next (copyOp ⟨false, true⟩ r k s)
def execCpym (r : R3) (k : KField) (s : State) : Out := .next (copyOp ⟨true, false⟩ r k s)
def execCpymMma (r : R3) (k : KField) (s : State) : Out := .next (copyOp ⟨true, true⟩ r k s)

/-! ## The region (R155 to R158) -/

/-- R155: whether the tile of a name is not VALUE, at the loft that core `c` finds. -/
def State.unready (s : State) (c : Nat) (n : Word) : Bool := (s.entry (nameOwner c n) (nameSlot n)).state != .value

def State.tileNamed (s : State) (c : Nat) (n : Word) : Tile := (s.entry (nameOwner c n) (nameSlot n)).tile (nameOwner c n)

/-- R155, R158: the region and shape checks of a source; under CMP with its metadata tile. -/
def regionOk (ctl : Word) (src : Tile) (mt : Option Tile) : Bool :=
  let row := ctlRow ctl
  let col := ctlCol ctl
  let rows := ctlRows ctl
  let cols := ctlCols ctl
  let dense := if mt.isSome then 2 * src.cols else src.cols
  let unit := if mt.isSome then 64 else 32
  row + rows ≤ src.rows && col + cols ≤ dense && (!src.fmt.isBlock || (col % unit == 0 && cols % unit == 0)) &&
    (match mt with | none => true | some m => m.fmt == .z8 && m.rows == src.rows && 8 * m.cols == dense) &&
    !(ctlWb ctl && ctlTr ctl && src.fmt.isBlock)

/-- The source of a copy and, under CMP, its metadata tile, by name. -/
def CopyOp.sources (o : CopyOp) : List Word := o.src :: if ctlCmp o.ctl then [o.metaName] else []

/-- R155: the source side of a copy, checked row by row of the table (log entry 76). -/
def State.copySource (s : State) (c : Nat) (o : CopyOp) : Nat ⊕ Region :=
  if o.sources.any (s.staleName c) then .inl 0x02
  else if o.sources.any (s.unready c) then .inl 0x03
  else
    let src := s.tileNamed c o.src
    let mt := if ctlCmp o.ctl then some (s.tileNamed c o.metaName) else none
    if regionOk o.ctl src mt then
      .inr (Region.mk src mt (ctlRow o.ctl) (ctlCol o.ctl) (ctlRows o.ctl) (ctlCols o.ctl))
    else .inl 0x04

/-- The words of a region: of the source tile, and of the metadata tile. -/
def Region.words (g : Region) : List Nat × List Nat :=
  match g.mt with
  | none => (g.src.regionWords g.row g.col g.rows g.cols, [])
  | some m => (g.src.regionWords g.row (g.col / 2) g.rows (g.cols / 2), m.regionWords g.row (g.col / 8) g.rows (g.cols / 8))

/-- A region with the bytes of its tiles. -/
structure Loaded where
  g  : Region
  rs : Nat → Byte
  rm : Nat → Byte

/-- R158: the positions i0 and i1 of a dense group of a source row. -/
def Loaded.positions (x : Loaded) (row group : Nat) : Nat × Nat :=
  match x.g.mt with
  | none => (0, 1)
  | some m =>
    let b := readBits x.rm (m.fmt.elemBit m.cols row (group / 2)) 8 / 2 ^ (4 * (group % 2))
    (b % 4, b / 4 % 4)

/-- R158: every group of the region has i0 < i1. -/
def Loaded.groupsOk (x : Loaded) : Bool :=
  x.g.mt.isNone || (List.range x.g.rows).all fun r => (List.range (x.g.cols / 4)).all fun i =>
    let (i0, i1) := x.positions (x.g.row + r) (x.g.col / 4 + i)
    i0 < i1

/-- The source column of a region element; none for a zero that expansion makes (R158). -/
def Loaded.column (x : Loaded) (r c : Nat) : Option Nat :=
  let col := x.g.col + c
  if x.g.mt.isNone then some col
  else
    let (i0, i1) := x.positions (x.g.row + r) (col / 4)
    if col % 4 = i0 then some (2 * (col / 4)) else if col % 4 = i1 then some (2 * (col / 4) + 1) else none

/-- Region element (r, c): its own bits, and its exact value. -/
def Loaded.raw (x : Loaded) (r c : Nat) : Nat :=
  match x.column r c with
  | none => 0
  | some col => readBits x.rs (x.g.src.fmt.elemBit x.g.src.cols (x.g.row + r) col) x.g.src.fmt.width

def Loaded.value (x : Loaded) (r c : Nat) : EVal :=
  match x.column r c with
  | none => if x.g.src.fmt.isInt then .int 0 else .fl (.num false 0 0)
  | some col => decodeElem x.g.src.fmt x.g.src.cols x.rs (x.g.row + r) col

/-- R157: region element of a destination element. -/
def oriented (tr : Bool) (f : Nat → Nat → α) (r c : Nat) : α := if tr then f c r else f r c

/-- R156: the bits that a destination tile receives. -/
def Loaded.tileWrites (x : Loaded) (tr : Bool) (mode : RoundMode) (srkey : Word) (t : Tile) : List BitWrite :=
  if t.fmt = x.g.src.fmt ∧ !t.fmt.isBlock then
    (List.range t.rows).flatMap fun r => (List.range t.cols).map fun c =>
      ⟨t.fmt.elemBit t.cols r c, t.fmt.width, oriented tr x.raw r c⟩
  else (encodeRegion t mode srkey 0 0 t.rows t.cols (oriented tr x.value)).1

/-- Runs of a tile of `rows × cols` in the source's format, laid out from byte `base` (R159). -/
def Loaded.imageWrites (x : Loaded) (rows cols base : Nat) (f : Nat → Nat → Nat) : List BitWrite :=
  let fmt := x.g.src.fmt
  (List.range rows).flatMap fun r => (List.range cols).map fun c =>
    ⟨8 * base + fmt.elemBit cols r c, fmt.width, f r c⟩

/-- The blocks of a block-format region of `rows × cols` from (row, col) of the source, laid out from byte 0. -/
def Loaded.blockWrites (x : Loaded) (row col rows cols : Nat) : List BitWrite :=
  let fmt := x.g.src.fmt
  (List.range rows).flatMap fun r => (List.range (cols / 32)).map fun b =>
    ⟨8 * fmt.blockByte cols r (32 * b), 8 * fmt.blockBytes,
      readBits x.rs (8 * fmt.blockByte x.g.src.cols (row + r) (col + 32 * b)) (8 * fmt.blockBytes)⟩

/-- The rows of a source laid out as a tile of their shape. -/
def Loaded.plainImage (x : Loaded) (col cols : Nat) : List BitWrite :=
  let fmt := x.g.src.fmt
  if fmt.isBlock then x.blockWrites x.g.row col x.g.rows cols
  else x.imageWrites x.g.rows cols 0 fun r c =>
    readBits x.rs (fmt.elemBit x.g.src.cols (x.g.row + r) (col + c)) fmt.width

/-- R159: the image that a weight-buffer destination receives, from byte 0, and its size in bytes. -/
def Loaded.image (x : Loaded) (tr : Bool) : List BitWrite × Nat :=
  let g := x.g
  let fmt := g.src.fmt
  match g.mt with
  | none =>
    if tr then (x.imageWrites g.cols g.rows 0 fun r c => x.raw c r, storageBytes g.cols g.rows fmt)
    else (x.plainImage g.col g.cols, storageBytes g.rows g.cols fmt)
  | some m =>
    if tr then (x.imageWrites g.cols g.rows 0 fun r c => x.raw c r, storageBytes g.cols g.rows fmt)
    else
      let base := storageBytes g.rows (g.cols / 2) fmt
      let mcols := g.cols / 8
      (x.plainImage (g.col / 2) (g.cols / 2) ++
        (List.range g.rows).flatMap (fun r => (List.range mcols).map fun c =>
          ⟨8 * (base + r * mcols + c), 8, readBits x.rm (m.fmt.elemBit m.cols (g.row + r) (g.col / 8 + c)) 8⟩),
        base + g.rows * mcols)

/-! ## A copy performed -/

/-- R155: the checks of a destination when the copy starts. -/
def State.copyDest (s : State) (c : Nat) (o : CopyOp) (n : Word) : Nat ⊕ Tile :=
  match s.destReason o.frame c n with
  | some r => .inl r
  | none =>
    let t := s.tileNamed c n
    let (r, k) := if ctlTr o.ctl then (ctlCols o.ctl, ctlRows o.ctl) else (ctlRows o.ctl, ctlCols o.ctl)
    if t.rows = r ∧ t.cols = k then .inr t else .inl 0x09

/-- A copy whose source fails: every destination is refused. -/
def CopyRun.refuseAll (r : CopyRun) (n reason : Nat) : CopyRun :=
  { r with phase := .writing, reason := reason, failmask := 2 ^ n - 1 }

/-- The head of copy queue `q` of core `c` with its progress replaced. -/
def State.setCopyRun (s : State) (c : Nat) (q : KField) (r : CopyRun) : State :=
  s.modCore c fun k =>
    { k with queues := k.queues.set q.val (match k.queues.get q with
        | .copy o _ :: rest => .copy o r :: rest
        | l => l) q.isLt }

/-- A cause that stops a copy unstarted, at the next boundary (R162, R413). -/
def State.stopCopy (s : State) (c : Nat) (q : KField) (o : CopyOp) (r : CopyRun) (cause : Cause) (tv : Word) : State :=
  (s.modCore c fun k => k.addPending cause tv o.id).setCopyRun c q { r with faulted := true }

/-- What finding a copy's source words gives: where those of each party lie, a reason, a fault, or a walk to wait for. -/
inductive SourceHomes where
  | ok (hs ms : List (Nat × Nat × Bool))
  | refused (reason : Nat)
  | fault (va : Word)
  | wait

/-- The words of the source and of the metadata tile translated (R162). -/
def State.sourceHomes (s : State) (c : Nat) (q : KField) (g : Region) : SourceHomes × State :=
  let (ws, ms) := g.words
  match s.tileHomes c (reqCopy q) g.src .read ws with
  | (.fault va, s) => (.fault va, s)
  | (.violation _, s) => (.refused 0x0B, s)
  | (.wait, s) => (.wait, s)
  | (.ok hs, s) =>
    match s.tileHomes c (reqCopy q) (g.mt.getD g.src) .read ms with
    | (.fault va, s) => (.fault va, s)
    | (.violation _, s) => (.refused 0x0B, s)
    | (.wait, s) => (.wait, s)
    | (.ok hm, s) => (.ok hs hm, s)

/-- What checking and finding a copy's destinations gives: those that the data goes to, with the refusals noted. -/
inductive DestHomes where
  | ok (r : CopyRun) (ds : List CopyDest)
  | fault (va : Word)
  | wait

/-- The destinations checked and translated in order (R155, R162). -/
def State.destHomes (s : State) (c : Nat) (q : KField) (o : CopyOp) (r : CopyRun) : List (Word × Nat) → DestHomes × State
  | [] => (.ok r [], s)
  | (n, i) :: rest =>
    match s.copyDest c o n with
    | .inl why => s.destHomes c q o (r.refuse i why) rest
    | .inr t =>
      match s.tileHomes c (reqCopy q) t .write (t.regionWords 0 0 t.rows t.cols) with
      | (.fault va, s) => (.fault va, s)
      | (.wait, s) => (.wait, s)
      | (.violation _, s) => s.destHomes c q o (r.refuse i 0x0A) rest
      | (.ok hs, s) =>
        match s.destHomes c q o r rest with
        | (.ok r ds, s) => (.ok r (⟨i, n, t, hs⟩ :: ds), s)
        | x => x

/-- A copy starts: the reads of its source are sent (R281, R283). -/
def State.copyReads (s : State) (c : Nat) (q : KField) (o : CopyOp) (r : CopyRun) (g : Region)
    (hs hm : List (Nat × Nat × Bool)) (ds : List CopyDest) : State :=
  let (is, s) := s.sendEngine c o.pc o.id (.engRead (.copy q) 0 g.src) (engineReads hs)
  let (js, s) := s.sendEngine c o.pc o.id (.engRead (.copy q) 1 (g.mt.getD g.src)) (engineReads hm)
  s.setCopyRun c q { r with phase := .reading g [] ds, flying := is ++ js }

/-- A copy at the head of its queue is checked and translated, and starts (R155, R162). -/
def State.copyBegin (s : State) (c : Nat) (q : KField) (o : CopyOp) (r : CopyRun) : State :=
  match s.copySource c o with
  | .inl why => s.setCopyRun c q (r.refuseAll o.dsts.length why)
  | .inr g =>
    match s.sourceHomes c q g with
    | (.refused why, s) => s.setCopyRun c q (r.refuseAll o.dsts.length why)
    | (.fault va, s) => s.stopCopy c q o r .translationFault va
    | (.wait, s) => s
    | (.ok hs hm, s) =>
      match s.destHomes c q o r (if ctlWb o.ctl then [] else o.dsts.zipIdx) with
      | (.fault va, s) => s.stopCopy c q o r .translationFault va
      | (.wait, s) => s
      | (.ok r ds, s) => s.copyReads c q o r g hs hm ds

/-- Words of an image written to core `c`'s weight buffer at a byte offset. -/
def State.writeWeights (s : State) (c off : Nat) (ws : List BitWrite) : State :=
  (gatherWrites ws).foldl (fun s (w, mask, data) => s.writeMem (weightAddr c (off + 8 * w)) mask data) s

/-- A copy to the weight buffer performed (R159). -/
def State.copyToWeights (s : State) (c : Nat) (q : KField) (o : CopyOp) (r : CopyRun) (x : Loaded) : State :=
  let off := (o.dsts.headD 0).toNat
  let (ws, n) := x.image (ctlTr o.ctl)
  if 2 ^ 17 < off + n then s.setCopyRun c q { r.refuse 0 0x0A with phase := .writing }
  else (s.writeWeights c off ws).setCopyRun c q { r with phase := .writing }

/-- The words that a destination receives, where they lie. -/
def CopyDest.words (o : CopyOp) (x : Loaded) (d : CopyDest) : List EngWord :=
  engineWrites d.homes (gatherWrites (x.tileWrites (ctlTr o.ctl) o.mode o.srkey d.tile))

/-- Whether a word of an engine of core `c` lies on frond `f`. -/
def State.wordOn (s : State) (c f : Nat) (x : EngWord) : Bool := (s.homeKind x.part.addr).frond c == f

/-- The packets of the words on the core's own frond (R163). -/
def State.sendOwn (s : State) (c : Nat) (q : KField) (o : CopyOp) (r : CopyRun) (ds : List (CopyDest × List EngWord)) :
    CopyRun × State :=
  ds.foldl (fun (r, s) (d, xs) =>
    let (ids, s) := s.sendEngine c o.pc o.id (.engWrite (.copy q) d.dest d.name d.tile)
      (xs.filter (s.wordOn c (frondOf c)))
    ({ r with flying := r.flying ++ ids }, s)) (r, s)

/-- One packet for each other frond that holds words of the copy's destinations (R289). -/
def State.sendDeliveries (s : State) (c : Nat) (q : KField) (o : CopyOp) (r : CopyRun)
    (ds : List (CopyDest × List EngWord)) : CopyRun × State :=
  (List.range 8).foldl (fun (r, s) f =>
    let mine := if f = frondOf c then [] else ds.filterMap fun (d, xs) =>
      match xs.filter (s.wordOn c f) with
      | [] => none
      | xs => some (Delivery.mk d.dest d.name d.tile (xs.map (·.w)) (xs.map (·.part)))
    if mine.isEmpty then (r, s)
    else
      let device := ds.any fun (_, xs) => xs.any fun x => x.device && s.wordOn c f x
      let p := { s.mkPacket c (.copy q mine) [] 0 false false device with
        pc := o.pc, since := o.id, own := false, dest := f, cross := true, inUsc := false }
      ({ r with flying := r.flying ++ [p.id] }, s.send p)) (r, s)

/-- A copy to tiles sends its data (R155 to R158, R163, R289). DESIGN CHOICE (log entry 81): every word of the source has been
read by then, so that a copy onto its own source delivers the source as it stood. -/
def State.copyToTiles (s : State) (c : Nat) (q : KField) (o : CopyOp) (r : CopyRun) (x : Loaded) (ds : List CopyDest) :
    State :=
  let data := ds.map fun d => (d, d.words o x)
  let (r, s) := s.sendOwn c q o { r with phase := .writing } data
  let (r, s) := s.sendDeliveries c q o r data
  s.setCopyRun c q r

/-- The bytes of a party of a copy, from the words that have arrived. -/
def partyByte (got : SMap Word) (party i : Nat) : Byte := byteOf (mapGet 0 got (2 ^ 32 * party + i / 8)) (i % 8)

/-- The source words of a copy have arrived: its data goes to its destinations, or it fails (R158, R161). -/
def State.copyData (s : State) (c : Nat) (q : KField) (o : CopyOp) (r : CopyRun) (g : Region) (got : SMap Word)
    (ds : List CopyDest) : State :=
  let x : Loaded := ⟨g, partyByte got 0, partyByte got 1⟩
  if r.reason ≠ 0 then s.setCopyRun c q (r.refuseAll o.dsts.length r.reason)
  else if !x.groupsOk then s.setCopyRun c q (r.refuseAll o.dsts.length 0x05)
  else if ctlWb o.ctl then s.copyToWeights c q o r x
  else s.copyToTiles c q o r x ds

/-- R150: a store that the core issued before a copy has still to be performed. -/
def State.storesBefore (s : State) (c : Nat) (o : CopyOp) : Bool :=
  (s.mine c).any fun p => p.wr && p.unperformed && p.id < o.after

/-- R413: a name of a copy whose owner lies outside the partitions that the launch holds now (log entry 77). -/
def State.lostName (s : State) (c : Nat) (o : CopyOp) : Option Word :=
  (o.sources ++ if ctlWb o.ctl then [] else o.dsts).find? fun n => !s.reaches c (nameOwner c n)

/-- COPY_START: the copy at the head of a queue is checked and starts, or stops unstarted (R155, R162); once its source words
have arrived, its data is sent. A core that drains for a save starts only the copies that its matrix operations wait for
(R166, R399). -/
def State.copyStart (s : State) (c : Nat) (q : KField) : State :=
  let k := s.core c
  match k.queues.get q with
  | .copy o r :: _ =>
    match r.phase with
    | .waiting =>
      if r.faulted || s.storesBefore c o || (k.run.stoppedIssue && !k.neededCopy o.id) then s
      else match s.lostName c o with
        | some n => s.stopCopy c q o r .accessViolation n
        | none => s.copyBegin c q o r
    | .reading g got ds => if r.flying.isEmpty then s.copyData c q o r g got ds else s
    | .writing => s
  | _ => s

def execCopyStart (c : CoreNo) (k : KField) (s : State) : Out := .next (s.copyStart c.val k)

/-! ## Completion (R153, R160, R161) -/

/-- R164: a follow-on enters ahead of the join markers that wait for its copy. -/
def insertFollow (id : Nat) (m : MmaOp) : List MatItem → List MatItem
  | [] => [.mma id m]
  | .join mk :: r => if mk.deps.contains id then .mma id m :: .join mk :: r else .join mk :: insertFollow id m r
  | x :: r => x :: insertFollow id m r

/-- The reason that a failed copy reports: the source's, else its lowest-numbered destination's. -/
def CopyRun.why (r : CopyRun) : Nat :=
  if r.reason ≠ 0 then r.reason else match r.dreasons with | [] => 0 | (_, x) :: _ => x

/-- The completion word (R153). -/
def CopyRun.word (r : CopyRun) : Word := BitVec.ofNat 64 (r.failmask % 2 ^ 16 * 2 ^ 16 + r.why % 2 ^ 8 * 2 ^ 8 + 1)

/-- The head of a copy queue leaves it. -/
def State.popCopy (s : State) (c : Nat) (q : KField) : State :=
  (s.modCore c fun k => { k with queues := k.queues.set q.val (k.queues.get q).tail q.isLt }).settleJoins c

/-- COPY_COMPLETE: every destination has been applied or refused (R149, R160, R161). DESIGN CHOICE (log entry 68): a
follow-on that finds the matrix queue full holds the copy's completion until there is room. -/
def State.copyComplete (s : State) (c : Nat) (q : KField) : State :=
  match (s.core c).queues.get q with
  | .copy o r :: _ =>
    if r.phase ≠ .writing ∨ !r.flying.isEmpty then s
    else if r.failmask = 0 then
      match o.follow with
      | some m =>
        if (s.core c).matrixFull then s
        else
          let m := { m with after := s.nextId }
          (s.modCore c fun k => { (k.fillG o.d 3 r.word o.id) with mqueue := insertFollow o.id m k.mqueue }).popCopy c q
      | none => (s.modCore c fun k => k.fillG o.d 3 r.word o.id).popCopy c q
    else
      (s.modCore c fun k =>
        (k.fillG o.d 3 r.word o.id).addPending .copyFault (copyVal o.pc q r.why r.failmask) o.id).popCopy c q
  | _ => s

def execCopyComplete (c : CoreNo) (k : KField) (s : State) : Out := .next (s.copyComplete c.val k)

/-! ## QFENCE and QWAIT (R164) -/

/-- Whether copy queue `q` is named by a mask. -/
def maskHas (m : BitVec 5) (n : Nat) : Bool := m.getLsbD n

/-- The operations that a mask's queues hold, the follow-ons of their copies among them. -/
def Core.joined (k : Core) (m : BitVec 5) : List Nat :=
  (List.finRange 4).flatMap (fun q : Fin 4 =>
    if maskHas m q.val then (k.queues.get q).filterMap fun
      | .copy o _ => some o.id
      | .join _ => none
    else []) ++
  k.mqueue.filterMap fun
    | .mma id o => if maskHas m 4 || (match o.origin with | some q => maskHas m q.val | none => false) then some id else none
    | .mswap id _ => if maskHas m 4 then some id else none
    | .mzero id _ => if maskHas m 4 then some id else none
    | .mdrain id _ => if maskHas m 4 then some id else none
    | .matmul id => if maskHas m 4 then some id else none
    | .join _ => none

/-- QFENCE: a join marker for each queue of the mask. -/
def qfence (m : BitVec 5) (s : State) : State :=
  let k := s.me
  let full := (List.finRange 4).any (fun q : Fin 4 => maskHas m q.val && decide (16 ≤ (k.queues.get q).length)) ||
    (maskHas m 4 && k.matrixFull)
  if full then s.wait
  else
    let mk : Marker := ⟨k.joined m⟩
    let s := s.modMe fun k =>
      { k with
        queues := Vector.ofFn fun q : Fin 4 =>
          if maskHas m q.val then k.queues.get q ++ [CopyItem.join mk] else k.queues.get q
        mqueue := if maskHas m 4 then k.mqueue ++ [.join mk] else k.mqueue }
    (s.settleJoins s.cur).advance 4

def execQfence (m : BitVec 5) (s : State) : Out := .next (qfence m s)

/-- QWAIT: with d = 0 the core waits; else g[d] is armed, and filled with the mask. -/
def qwait (d : Reg) (m : BitVec 5) (s : State) : State :=
  s.issue (gUses [d]) fun s =>
    let deps := s.me.joined m
    if d = 0 then (if deps.isEmpty then s.advance 4 else s.wait)
    else
      let s := s.modMe fun k => ({ k with qwaits := k.qwaits ++ [QWait.mk d m deps] }.armG d).advance 4
      s.settleJoins s.cur

def execQwait (d : Reg) (m : BitVec 5) (s : State) : Out := .next (qwait d m s)

end Sys2Proof.Machine
end

