-- ==== Sys2Proof/Machine/Arena.lean ====
section
/-! DEFINITION. The choice arena: words that a core's sequencer reads and writes whole at its virtual addresses (R94, R95),
the header, the records and the swath (R367 to R373), and the waits of R374. -/
namespace Sys2Proof.Machine

/-! ## Sequences of accesses that one instruction makes -/

/-- Why a sequence stops: a trap at the instruction; a wait, after which it is performed anew; an error response to a read, with
which it ends (R98). -/
inductive Stop where
  | trap (t : TrapVal)
  | wait
  | bad

/-- A sequence of accesses. -/
abbrev Run (α : Type) := EStateM Stop State α

def Run.trap {α : Type} (c : Cause) (v : Word) : Run α := throw (.trap (c, v))
def Run.wait {α : Type} : Run α := throw .wait

/-- R12: of a sequence of core `c` that is undone nothing remains but what its translations have found at the core (R94,
R95). -/
def State.undoneAt (s : State) (c : Nat) (t : State) : State :=
  { s with tlbs := t.tlbs, walks := t.walks }.modCore c fun k => { k with tlb := (t.core c).tlb, ends := (t.core c).ends }

def State.undone (s t : State) : State := s.undoneAt s.cur t

/-- Where a sequence of the issuing core has stopped: `s` is the state before it, `t` that in which it stopped. A recoverable
fault keeps what a FAIL (`m`) has done; any other trap, and a wait, leave nothing of it (R12, R378, log entry 40). -/
def State.stopped (s : State) (m : Option Midway) (t : State) : Stop → State
  | .trap (c, v) =>
    if c = .translationFault ∧ m.isSome then (t.modMe fun k => { k with midway := m }).trap c v
    else ((s.undone t).modMe fun k => { k with midway := none }).trap c v
  | .wait => (s.undone t).wait
  | .bad => t.modMe fun k => { k with midway := none }.advance 4

/-- A sequence performed by an instruction of the issuing core. -/
def State.performAs (s : State) (m : Option Midway) (r : Run Unit) : State :=
  match r s with
  | .ok _ t => t.modMe fun k => { k with midway := none }
  | .error e t => s.stopped m t e

def State.perform (s : State) (r : Run Unit) : State := s.performAs none r

/-- The address checks of R100 for an 8-byte access, and its translation on the scalar path (R95): where the word lies, and
whether its page is device memory. -/
def wordPlace (c : Nat) (va : Word) (a : Access) : Run (Nat × Bool) := do
  if !addrForm va then Run.trap .accessViolation va
  else if va.toNat % 8 ≠ 0 then Run.trap .misaligned va
  else
    let (t, s) := (← get).translateVa c reqScalar va a
    set s
    match t with
    | .ok pa device => return (pa, device)
    | .trap x => Run.trap x va
    | .wait => Run.wait

def wordTarget (c : Nat) (va : Word) (a : Access) : Run Nat := Prod.fst <$> wordPlace c va a

/-- A word that an earlier access of the core, or a copy's event, has still to be done with (R281, R289). -/
def State.wordBusy (s : State) (c pa : Nat) : Bool :=
  s.landsOn [wordAddr pa] || (s.mine c).any fun p => p.unperformed && p.words.contains (wordAddr pa)

/-- What an access of core `c` at a home waits for: an assignment notice of the core's (R288); and, where the home is on
another frond, the core's earlier accesses (R288, R299). -/
def State.seqHeld (s : State) (c pa : Nat) : Bool :=
  s.unnoticed c || ((s.homeKind pa).frond c != frondOf c &&
    (s.mine c).any fun q => q.inUsc || ((q.rd || q.wr) && q.unperformed))

/-- A word of core `c`'s sequence may be accessed at its home: whether it is lost with a retired frond (R291). One on another
frond takes its counts at once (log entry 91). -/
def whenFree (c pa : Nat) (cnt : Bool) : Run Bool := do
  let s ← get
  if s.wordBusy c pa || s.seqHeld c pa then Run.wait
  else match s.far c pa cnt with
    | .here s => do set s; return false
    | .lost s => do set s; return true
    | .wait => Run.wait

/-- An error response to an access of the scalar path: logged, and ACCESS_VIOLATION at the next boundary (R98). -/
def noteError (c : Nat) (va : Word) : Run Unit := modify fun s => s.accessError c va va (s.core c).pc s.nextId

def readVa (c : Nat) (va : Word) : Run Word := do
  let pa ← wordTarget c va .read
  if ← whenFree c pa false then throw .bad
  match (← get).readHome pa with
  | none => do noteError c va; throw .bad
  | some w => do modify fun s => s.noteRead pa; return w

/-- A store of a whole word: whether its home took it. One that is lost raises its own cause. -/
def writeHere (c pa : Nat) (w : Word) : Run Bool := do
  if ← whenFree c pa true then return true
  match (← get).writeHome pa (BitVec.allOnes 64) w with
  | none => return false
  | some s => do set (s.carries c pa); return true

/-- A store of a whole word; one that its home refuses leaves the word, and the sequence goes on (R98). -/
def writeAt (c pa : Nat) (va w : Word) : Run Unit := do if !(← writeHere c pa w) then noteError c va

def writeVa (c : Nat) (va w : Word) : Run Unit := do writeAt c (← wordTarget c va .write) va w

/-- A 64-bit atomic of op-type `code` that returns, performed whole: the old value (R245). -/
def atomVa (c code : Nat) (va x : Word) : Run Word := do
  let pa ← wordTarget c va .rw
  if ← whenFree c pa true then throw .bad
  match (← get).atomAt pa code x 0 with
  | none => do noteError c va; throw .bad
  | some (old, _, s) => do set s; return old

/-! ## The arena (R367 to R371) -/

/-- The arena of core `c`'s context: its base and its size. -/
def State.arena (s : State) (c : Nat) : Word × Nat :=
  match s.launchOf c with
  | none => (0, 0)
  | some l => (l.arenaBase + BitVec.ofNat 64 ((s.core c).ctx * l.arenaSz), l.arenaSz)

def State.arenaVa (s : State) (c off : Nat) : Word := (s.arena c).1 + BitVec.ofNat 64 off

/-- A word of core `c`'s arena, by its offset. -/
def readArena (c off : Nat) : Run Word := do readVa c ((← get).arenaVa c off)
def writeArena (c off : Nat) (w : Word) : Run Unit := do writeVa c ((← get).arenaVa c off) w

/-- DSIZE as a multiple of 64: w0[5:0] are ignored (R369). -/
def dsizeOf (w0 : Word) : Nat := fld w0 6 27 * 64

def popCount (w : Word) : Nat := (List.range 64).countP fun i => w.getLsbD i

/-- The size of a record with this VMASK (R370). -/
def recordSize (vmask : Word) : Nat := 576 + 128 * popCount vmask

/-- The end of core `c`'s newest record, or of its data area where the choice stack is empty (R368). -/
def stackEnd (c : Nat) : Run Nat := do
  let top := ((← get).core c).ctop
  if top = 0 then return 64 + dsizeOf (← readArena c 0)
  else return top + recordSize (← readArena c (top + 32))

/-- R373: NEED and FREE. -/
def overflowVal (need free : Nat) : Word := BitVec.ofNat 64 (need * 2 ^ 32 + min free (2 ^ 32 - 1))

/-- R372, R373: room for a swath entry: its virtual address, where its two words lie, and whether a page of them is device
memory. -/
def swathRoom (c : Nat) : Run ((Word × Nat × Nat) × Bool) := do
  let last ← stackEnd c
  let sp := ((← get).core c).sp
  if sp < last + 16 then Run.trap .swathOverflow (overflowVal 16 (sp - last))
  else
    let va := (← get).arenaVa c (sp - 16)
    let (h0, d0) ← wordPlace c va .write
    let (h1, d1) ← wordPlace c (va + 8) .write
    return ((va, h0, h1), d0 || d1)

/-- SP moves down by one entry. -/
def pushSwath (c : Nat) : Run Unit := modify fun s => s.modCore c fun k => { k with sp := k.sp - 16 }

/-- A read or write of core `c` that has still to be performed, or an assignment notice that has still to come: a write that a
sequence makes comes after them (R288, R298, R301). -/
def State.accessOut (s : State) (c : Nat) : Bool := s.unnoticed c || (s.mine c).any fun p => (p.rd || p.wr) && p.unperformed

/-- R372: a KIND 0x2 or 0x3 entry for a tile, while CTOP ≠ 0. -/
def logTile (c kind : Nat) (name : Word) : Run Unit := do
  if ((← get).core c).ctop = 0 then return ()
  else
    let ((va, h0, h1), _) ← swathRoom c
    if (← get).accessOut c then Run.wait
    let a ← writeHere c h0 (BitVec.ofNat 64 (kind * 2 ^ 60 + fld name 0 32))
    let b ← writeHere c h1 0
    if !(a && b) then noteError c va
    pushSwath c

/-- The first `n` words of core `c`'s arena written 0: whether their homes took them. -/
def clearWords (c : Nat) : Nat → Run Bool
  | 0 => return true
  | n + 1 => do
    let done ← clearWords c n
    let pa ← wordTarget c ((← get).arenaVa c (8 * n)) .write
    return (← writeHere c pa 0) && done

/-- ARENA_HEADER_CLEAR (R368): the eight words of the arena header, before the context's first instruction, whose address is
the core's PC: a fault is raised there, with the header's address. -/
def State.clearHeader (s : State) : State :=
  s.perform do
    if !(← clearWords s.cur 8) then noteError s.cur (s.arenaVa s.cur 0)
    modify fun s => s.modMe fun k => { k with headerDue := false, stall := false }

/-! ## Issue -/

/-- R374: TRY, FAIL, CUT and CLAIM issue alone: here, once nothing of the core is in the network. -/
def State.alone (s : State) (c : Nat) : Bool := (s.mine c).isEmpty

/-- `tval` of LOFT_FAULT 0x1D: an instruction that may not stand in a CALL frame (R374). -/
def frameFault : TrapVal := (.loftFault, reasonVal 0x1D 0)

end Sys2Proof.Machine
end

