-- ==== Sys2Proof/Machine/Loft.lean ====
section
/-! DEFINITION. TALLOC (R139, R140), TFREE (R141, R142) and TSTAT (R144) at the issuing core. -/
namespace Sys2Proof.Machine

/-! ## Descriptors (R139) -/

/-- The fields of the descriptor word. -/
structure Desc where
  slot  : Nat
  rows  : Nat
  cols  : Nat
  fmt   : Option Fmt
  level : Option Level
  nrel  : Bool
  clean : Bool
deriving DecidableEq, Repr

def descOf (w : Word) : Desc :=
  { slot := fld w 0 12, rows := fld w 12 12 + 1, cols := fld w 24 12 + 1, fmt := fmtOfCode (fld w 36 5),
    level := (match fld w 41 2 with | 0 => some .S | 1 => some .H | 2 => some .X | _ => none),
    nrel := wbit w 43, clean := fld w 44 20 == 0 }

/-- NameOf (R140). -/
def nameOf (c : Nat) (rel : Bool) (gen : Byte) (slot : Nat) : Word :=
  if rel then BitVec.ofNat 64 (gen.toNat * 2 ^ 24 + 2 ^ 23 + slot) else absName c slot gen

/-- The entry that a tile's creation makes. -/
structure NewTile where
  slot  : Nat
  name  : Word
  entry : LoftEntry

/-- R140: the checks of a tile's creation in core `c`'s loft; the same for TSUSP. -/
def State.newTile (s : State) (c : Nat) (dsc org st : Word) : TrapVal ⊕ NewTile :=
  let d := descOf dsc
  let e := s.entry c d.slot
  let name := nameOf c d.nrel e.gen d.slot
  match d.fmt, d.level with
  | some f, some lv =>
    if !d.clean ∨ (f.isBlock ∧ d.cols % 32 ≠ 0) then .inl (loftFault 0x02 name)
    else if e.state ≠ .free then .inl (loftFault 0x01 name)
    else
      let nb := storageBytes d.rows d.cols f
      let bad : Bool := match lv with
        | .S => fld st 19 45 != 0 || fld st 0 3 != 0 || decide (2 ^ 19 < st.toNat + nb)
        | _ => fld st 56 8 != 0 || decide (0xFD ≤ fld st 48 8) || fld st 0 3 != 0
      if bad then .inl (loftFault 0x03 name)
      else if lv = .S ∧ s.occupied c st.toNat nb then .inl (loftFault 0x09 name)
      else .inr
        { slot := d.slot, name := name,
          entry := { e with
            state := .value, rows := d.rows, cols := d.cols, fmt := f, level := lv, base := st, row0 := fld org 0 24,
            col0 := fld org 24 24, stream := fld org 48 16, stook := none, owner := 0, ownerDepth := 0,
            waiters := [] } }
  | _, _ => .inl (loftFault 0x02 name)

/-- g[a], g[a + 1], g[b] and g[d]. -/
def allocUses (r : R3) : Uses := matrixUses r

/-- TALLOC (R140). -/
def talloc (r : R3) (s : State) : State :=
  s.issueFenced (allocUses r) fun s =>
    let k := s.me
    match s.newTile s.cur (k.gr r.a) (k.gr (regUp r.a 1)) (k.gr r.b) with
    | .inl (c, v) => s.trap c v
    | .inr t => s.perform do
        let c := s.cur
        logTile c 2 t.name
        modify fun s => ((s.setEntry c t.slot t.entry).sendValue c r.d 4 t.name).modCore c fun k => (k.armG r.d).advance 4

def execTalloc (r : R3) (s : State) : Out := .next (talloc r s)

/-! ## TFREE (R142) -/

/-- A name that core `h` holds of a slot of core `c`'s loft, whatever its generation. -/
def namesSlotAt (h c slot : Nat) (n : Word) : Bool := !nameMalformed n && nameOwner h n == c && nameSlot n == slot

/-- A name of core `c`'s own loft at a slot, whatever its generation. -/
def namesSlot (c slot : Nat) (n : Word) : Bool := namesSlotAt c c slot n

/-- A copy that names a slot of its core's loft: as source, metadata or destination, or by its follow-on. -/
def CopyItem.touches (c slot : Nat) : CopyItem → Bool
  | .copy o _ =>
    namesSlot c slot o.src || (ctlCmp o.ctl && namesSlot c slot o.metaName) ||
      (!ctlWb o.ctl && o.dsts.any (namesSlot c slot)) || (match o.follow with | some m => m.slot == slot | none => false)
  | .join _ => false

def MatItem.touches (slot : Nat) : MatItem → Bool
  | .mma _ o => o.slot == slot
  | .mdrain _ o => o.slot == slot
  | _ => false

def MatItem.isMatmul : MatItem → Bool
  | .matmul _ => true
  | _ => false

/-- A tile that is being evaluated, or an operand of its stook, is a slot of core `c`'s loft. -/
def State.evaluates (s : State) (c slot : Nat) (e : ForceEntry) : Bool :=
  (e.core == c && e.slot == slot) ||
    (s.entry e.core e.slot).stook.any fun st => st.names.any (namesSlotAt e.core c slot)

/-- R142: an operation of core `c` that names a slot of its loft is queued or in flight: a copy, an MMA or MDRAIN, or a MATMUL
of its force unit (R264), which names its result and its operands. -/
def State.slotBusy (s : State) (c slot : Nat) : Bool :=
  let k := s.core c
  (k.queues.toList.any fun q => q.any (·.touches c slot)) || k.mqueue.any (·.touches slot) ||
    (k.mqueue.any MatItem.isMatmul && k.force.stack.head?.any (s.evaluates c slot))

/-- The pool of the launch that holds core `c` gains a stook back (R259). -/
def State.releaseStook (s : State) (c : Nat) : State :=
  match s.launches.find? fun l => l.state ≠ .parked && l.holds c with
  | none => s
  | some l => s.setLaunch { l with pool := l.pool - 1 }

/-- R142, R269: the sparks of a freed tile leave every spark queue. -/
def State.withdrawSparks (s : State) (c slot : Nat) : State :=
  { s with cores := mapValues (fun k => { k with sparks := k.sparks.filter fun n => !namesSlot c slot n }) s.cores }

/-- The atomic step of R142 on an entry that is VALUE or SUSPENDED: its stook is released with no evaluation, and a spark
of it is withdrawn. -/
def State.freeSlot (s : State) (c slot : Nat) : State :=
  let e := s.entry c slot
  let s := if e.state = .suspended then s.releaseStook c else s
  (s.withdrawSparks c slot).setEntry c slot e.free

/-- TFREE (R142). -/
def tfree (a : Reg) (p : Bool) (s : State) : State :=
  s.issueFenced { traps := policy p [.g a], waits := [.g a] } fun s =>
    let n := s.me.gr a
    match s.resolveLocal s.cur n with
    | .inl (c, v) => s.trap c v
    | .inr slot =>
      if s.slotBusy s.cur slot then s.wait
      else match (s.entry s.cur slot).state with
        | .free => s.trap .loftFault (reasonVal 0x06 n)
        | .blackhole => s.trap .loftFault (reasonVal 0x07 n)
        | _ => (s.freeSlot s.cur slot).advance 4

def execTfree (a : Reg) (p : Bool) (s : State) : Out := .next (tfree a p s)

/-! ## TSTAT (R144) -/

/-- A TSTAT's packet: the core's own loft answers at issue; a request to another goes to the loft that owns the name. -/
def State.sendStat (s : State) (p : Packet) (t slot : Nat) (n : Word) : State :=
  if t = p.src then
    { s with net := s.net ++ [{ p with stage := .reply, got := [(0, (s.entry t slot).statWord n)] }], nextId := s.nextId + 1 }
  else s.send p

/-- TSTAT. One that the core's own loft answers is read when R299 and R91 let a read of the core be performed (log
entry 60). -/
def tstat (r : R2) (s : State) : State :=
  s.issueAccess { traps := policy r.pa [.g r.a], waits := [.g r.a] } fun s =>
    let n := s.me.gr r.a
    match s.resolve s.cur n with
    | .inl (c, v) => s.trap c v
    | .inr (t, slot) => s.whenFull r.d fun s =>
      let p := s.mkPacket s.cur (.tstat r.d n) [⟨scratchAddr t 0, 0, 0⟩] n true false false
      let p := { p with parts := [] }
      if t = s.cur && !s.mayLeave p then s.wait
      else (s.sendStat p t slot n).modMe fun k => (k.armG r.d).advance 4

def execTstat (r : R2) (s : State) : Out := .next (tstat r s)

end Sys2Proof.Machine
end

