-- ==== Sys2Proof/Machine/Demand.lean ====
section
/-! DEFINITION. Demand: the operation word (R256, R257), TSUSP (R258 to R260), FORCE and FORCE.nb (R262), SPARK (R269), TDONE
(R268), and the steps of the force unit (R261 to R272). -/
namespace Sys2Proof.Machine

/-! ## The operation word (R256, R257) -/

inductive OpKind where
  | ew | convert | scale | reduce | matmul | transpose | call
deriving DecidableEq, Repr

def opKind (w : Word) : Option OpKind :=
  match fld w 42 4 with
  | 0 => some .ew
  | 1 => some .convert
  | 2 => some .scale
  | 3 => some .reduce
  | 4 => some .matmul
  | 5 => some .transpose
  | 6 => some .call
  | _ => none

def opPure (w : Word) : Bool := wbit w 49
def opNops (w : Word) : Nat := fld w 46 3
def opMaj (w : Word) : Nat := fld w 37 2
def opSub (w : Word) : Nat := fld w 32 5
def opParam (w : Word) : Word32 := w.extractLsb' 0 32
def opCalls (w : Word) : Bool := opKind w == some .call

/-- The sources of the fn that an EW word names; none where it is not allocated (R190, R191). -/
def ewSources (maj sub : Nat) : Option Nat :=
  match maj with
  | 0 => if sub < 4 then some 2 else if sub < 7 then some 3 else if sub < 9 then some 2 else if sub < 11 then some 1
         else if sub = 11 then some 2 else none
  | 1 => if sub < 8 then some 1 else none
  | 2 => if sub < 12 then some 2 else none
  | _ => none

/-- R257: the fields that the kind fixes. -/
def opFieldsOk (w : Word) : Bool :=
  let n := opNops w
  let plain := opMaj w == 0 && opSub w == 0
  fld w 50 14 == 0 &&
    match opKind w with
    | none => false
    | some .ew => ewSources (opMaj w) (opSub w) == some n && opParam w == 0
    | some .convert => n == 1 && plain && opParam w == 0
    | some .scale => n == 1 && plain
    | some .reduce => n == 1 && opMaj w == 0 && decide (opSub w ≤ 3) && opParam w == 0
    | some .matmul => n == 2 && plain && opParam w == 0
    | some .transpose => n == 1 && plain && opParam w == 0
    | some .call => decide (n ≤ 4) && plain

/-- The shapes and formats of R257, for a result tile and its operands. -/
def opShapesOk (w : Word) (t : Tile) (ops : List Tile) : Bool :=
  let same := ops.all fun o => o.rows == t.rows && o.cols == t.cols
  let narrow := !t.fmt.is64 && ops.all fun o => !o.fmt.is64
  match opKind w with
  | some .ew => same && narrow
  | some .convert => same
  | some .scale => same && !t.fmt.isInt && ops.all fun o => !o.fmt.isInt
  | some .reduce => narrow && t.cols == 1 && ops.all fun o => o.rows == t.rows
  | some .matmul =>
    match ops with
    | [a, b] => a.rows == t.rows && b.cols == t.cols && a.cols == b.rows && a.fmt.mmaOk && b.fmt.mmaOk &&
        a.fmt.isInt == b.fmt.isInt && !t.fmt.is64
    | _ => false
  | some .transpose => ops.all fun o => o.rows == t.cols && o.cols == t.rows
  | some .call => true
  | none => false

/-! ## The force unit as the core sees it -/

/-- The address of the instruction whose push began a part of a chain. -/
def Root.pc : Root → Option Word
  | .force pc => some pc
  | .forceNb _ pc => some pc
  | .eager _ _ pc => some pc
  | .spark _ _ => none
  | .inner pc => some pc
  | .innerNb _ pc => some pc
  | .innerEager _ _ pc => some pc

/-- The matrix queue without the MATMUL of a chain (R264). -/
def State.dropMatmul (s : State) (c : Nat) : State :=
  if (s.core c).mqueue.any MatItem.isMatmul then
    (s.modCore c fun k => { k with mqueue := k.mqueue.filter fun i => !i.isMatmul }).settleJoins c
  else s

/-- The unit holds a chain. -/
def Core.chained (k : Core) : Bool := k.force.root.isSome

/-- R262: the stream waits in a blocking FORCE, or a frame's push is being forced. -/
def Core.blocked (k : Core) : Bool :=
  k.framePushed || (!k.inFrame && match k.force.root with | some (.force _) => true | _ => false)

/-- R262, R260: a chain that the issuing code is not running inside. -/
def Core.otherChain (k : Core) : Bool := k.chained && !k.inFrame

/-- R272, R392: the unit makes no step on a core that does not run, nor past a fault of its chain. -/
def Core.chainGoes (k : Core) : Bool := k.run == .running && k.pending.isEmpty && !k.force.absorbing && k.chained

/-- It makes its next step once what it has sent has been answered. -/
def Core.chainRuns (k : Core) : Bool := k.chainGoes && k.force.flying.isEmpty

/-- A request of core `c`'s force unit to the loft of a core on another frond: a counted packet (R283). -/
def State.sendLoft (s : State) (c t : Nat) (name : Word) : State :=
  let p := { s.mkPacket c .loft [⟨scratchAddr t 0, 0, 0⟩] name false false false with parts := [], since := (s.core c).force.since }
  (s.send p).modCore c fun k => { k with force := { k.force with flying := k.force.flying ++ [p.id] } }

def Core.setGoal (k : Core) (g : Goal) : Core := { k with force := { k.force with goal := g } }

def Goal.why : Goal → Option Root
  | .none => Option.none
  | .ask _ _ _ w => w
  | .asleep _ _ _ w => w
  | .woken _ _ _ w _ => w

/-- R271: the instruction whose push began the part of the chain that a step belongs to. -/
def ForceUnit.pushPc (u : ForceUnit) : Option Word :=
  match u.goal.why with
  | some r => r.pc
  | none => (u.stack.findSome? (·.why)).bind Root.pc

/-- The innermost tile's operation goes back to the point before its operands are read. -/
def ForceUnit.restart (u : ForceUnit) : ForceUnit :=
  { u with
    got := [], failed := none
    stack := match u.stack with
      | e :: r => (match e.phase with
        | .queued | .reading _ | .writing => { e with phase := .evaluate }
        | _ => e) :: r
      | [] => [] }

/-- A fault of a step of core `c`'s chain (R271): a spark's is absorbed (R270); any other is taken at the boundary. -/
def State.chainFault (s : State) (c : Nat) (t : TrapVal) : State :=
  (s.dropMatmul c).modCore c fun k =>
    let k := { k with force := k.force.restart }
    match k.force.root with
    | some (.spark _ _) => { k with force := { k.force with absorbing := true } }
    | r =>
      let pc := if t.1 = .translationFault then k.force.pushPc
        else match r with
          | some (.force pc) => some pc
          | _ => none
      k.addPendingAt t.1 t.2 pc s.nextId

/-- An operand name of a stook that core `holder`'s loft holds, at a use by core `c` (R255). -/
def State.resolveUse (s : State) (c holder : Nat) (n : Word) : TrapVal ⊕ (Nat × Nat) :=
  if nameMalformed n then .inl (loftFault 0x08 n)
  else
    let t := nameOwner holder n
    if s.reaches c t then .inr (t, nameSlot n) else .inl (.accessViolation, n)

def Core.setHead (k : Core) (f : ForceEntry → ForceEntry) : Core :=
  { k with force := { k.force with stack := match k.force.stack with | e :: r => f e :: r | [] => [] } }

/-- The next operand of the innermost tile is forced, or its operation comes to be evaluated (R263). -/
def State.nextOperand (s : State) (c : Nat) : State :=
  match (s.core c).force.stack with
  | [] => s
  | e :: _ =>
    match e.phase, (s.entry e.core e.slot).stook with
    | .operand i, some st =>
      match st.names[i]? with
      | none => s.modCore c fun k => k.setHead fun e => { e with phase := .evaluate }
      | some n =>
        match s.resolveUse c e.core n with
        | .inl t => s.chainFault c t
        | .inr (t, slot) =>
          s.modCore c fun k => { k with force := { k.force with goal := .ask t slot n none, how := 0 } }
    | _, _ => s

/-- The status word (R262). -/
def statusWord (how : Nat) : Word := BitVec.ofNat 64 (2 * how + 1)

/-- R361: a spark's pair is filled, and the GLEAN is done. -/
def Core.fillSpark (k : Core) (d : Reg) (v : Word) (name : Word) : Core :=
  let k := (k.fillG d 6 (0x8000000000000000 ||| v)).fillG (regUp d 1) 6 name
  { k with glean := none, force := ForceUnit.idle }.advance 4

/-- A forced tile is VALUE: what its forcing was for goes on (R262, R263). -/
def State.forced (s : State) (c : Nat) (why : Option Root) (how : Nat) : State :=
  match why with
  | none =>
    (s.modCore c fun k => k.setHead fun e =>
      { e with phase := match e.phase with | .operand i => .operand (i + 1) | p => p }).nextOperand c
  | some r => s.modCore c fun k =>
    let idle : Core := { k with force := ForceUnit.idle }
    match r with
    | .force _ => idle.advance 4
    | .forceNb d _ => idle.fillG d 5 (statusWord how)
    | .eager d name _ => idle.fillG d 4 name
    | .spark d name => k.fillSpark d (if how = 1 then 1 else 0) name
    | .inner _ => k.advance 4
    | .innerNb d _ => (k.fillG d 5 (statusWord how)).advance 4
    | .innerEager d name _ => (k.fillG d 4 name).advance 4

/-! ## Waiters (R265) -/

/-- A context that sleeps on a tile is told that the tile has left BLACKHOLE. -/
def Goal.wake (t slot : Nat) (value : Bool) : Goal → Goal
  | .asleep u n name why => if u = t ∧ n = slot then .woken u n name why value else .asleep u n name why
  | g => g

/-- Every waiter of a tile woken, its list emptied. -/
def State.wakeAll (s : State) (c t slot : Nat) (value : Bool) : State :=
  match s.launchOf c with
  | none => s
  | some l =>
    let e := s.entry t slot
    let s := s.setEntry t slot { e with waiters := [] }
    e.waiters.foldl (fun s ctx => s.modCore (l.coreOf ctx) fun k => k.setGoal (k.force.goal.wake t slot value)) s

/-- What a context's `waiting_on` holds: nothing for a parked context (R265, R272). -/
def State.waitingOn (s : State) (l : Launch) (ctx : Nat) : Option (Nat × Nat) :=
  let k := s.core (l.coreOf ctx)
  if k.run = .running then
    match k.force.goal with
    | .asleep t n _ _ => some (t, n)
    | _ => none
  else none

/-- The walk of R265 from context `h`: the hop at which it closes on context `me`. -/
def State.walkOwners (s : State) (l : Launch) (me : Nat) : Nat → Nat → Nat → Option Nat
  | 0, _, _ => none
  | fuel + 1, hop, h =>
    match s.waitingOn l h with
    | none => none
    | some (t, n) =>
      let e := s.entry t n
      if e.state ≠ .blackhole then none
      else if e.owner = me then some hop else s.walkOwners l me fuel (hop + 1) e.owner

/-- WaitOn (R265). -/
def State.waitOn (s : State) (c t slot : Nat) (name : Word) (why : Option Root) : State :=
  match s.launchOf c with
  | none => s
  | some l =>
    let k := s.core c
    let e := s.entry t slot
    if e.owner = k.ctx then s.chainFault c (.selfDependence, reasonVal 0 name)
    else match s.walkOwners l k.ctx 16 1 e.owner with
      | some hop => s.chainFault c (.selfDependence, reasonVal hop name)
      | none =>
        (s.setEntry t slot { e with waiters := e.waiters ++ [k.ctx] }).modCore c fun k =>
          { k with force := { k.force with goal := .asleep t slot name why, how := 2 } }

/-! ## Steps of the force unit -/

/-- A tile pushed (R263). -/
def ForceEntry.new (t slot : Nat) (gen : Byte) (why : Option Root) : ForceEntry :=
  { core := t, slot := slot, name := absName t slot gen, phase := .operand 0, why := why, save := none }

/-- A spark is at its root: at the take, a tile that is not SUSPENDED is dropped (R270). -/
def Core.sparkTake (k : Core) : Bool :=
  k.force.stack.isEmpty && k.sparkRoot

/-- A step at a loft has found that the forcing is over, with `how` as the unit holds it: what it was for goes on, at once, or
once the reply from another frond has come. -/
def State.forceFound (s : State) (c t slot : Nat) (name : Word) (why : Option Root) (far : Bool) : State :=
  if far then s.modCore c fun k => k.setGoal (.woken t slot name why true)
  else (s.modCore c fun k => k.setGoal .none).forced c why (s.core c).force.how

/-- The atomic step of Force at the owning loft (R263); `far` where that loft is on another frond. -/
def State.forceAct (s : State) (c : Nat) (far : Bool) : State :=
  let k := s.core c
  match k.force.goal with
  | .ask t slot name why =>
    let e := s.entry t slot
    if k.sparkTake ∧ (e.gen ≠ nameGen name ∨ e.state ≠ .suspended) then s.forceFound c t slot name why far
    else if e.gen ≠ nameGen name then s.chainFault c (loftFault 0x05 name)
    else match e.state with
      | .free => s.chainFault c (loftFault 0x06 name)
      | .value => s.forceFound c t slot name why far
      | .blackhole => s.waitOn c t slot name why
      | .suspended =>
        if 288 ≤ k.force.stack.length then s.chainFault c (.stookPoolExhausted, reasonVal 0x02 name)
        else
          let s := s.setEntry t slot { e with state := .blackhole, owner := k.ctx, ownerDepth := k.force.stack.length }
          (s.modCore c fun k =>
            { k with force := { k.force with goal := .none, stack := .new t slot e.gen why :: k.force.stack } }).nextOperand c
  | _ => s

/-- The force unit's request reaches the owning loft; one to another frond is a packet of the Rhizome (R283, R288). -/
def State.forceStep (s : State) (c : Nat) : State :=
  let k := s.core c
  if !k.chainRuns then s
  else match k.force.goal with
  | .ask t _ name _ =>
    if frondOf t ≠ frondOf c then s.sendLoft c t name
    else if t ≠ c ∧ s.unnoticed c then s
    else s.forceAct c false
  | _ => s

/-- LOFT_REQUEST: a TSTAT packet's (R144), or a force unit's (R263). -/
def State.loftRequest (s : State) : LoftWho → State
  | .packet n =>
    match s.packet? n with
    | none => s
    | some p =>
      if p.stage ≠ .torus ∨ p.cross then s
      else match p.op with
        | .tstat _ name => s.performStat p name
        | _ => s
  | .forceUnit c => s.forceStep c.val

def execLoftRequest (w : LoftWho) (s : State) : Out := .next (s.loftRequest w)

/-- WAITER_WAKE (R265): a waiter of a tile that became VALUE returns; one of a tile that is SUSPENDED again retries. -/
def State.waiterWake (s : State) (c : Nat) : State :=
  let k := s.core c
  if !k.chainRuns then s
  else match k.force.goal with
  | .woken t slot name why value =>
    if value then (s.modCore c fun k => k.setGoal .none).forced c why k.force.how
    else s.modCore c fun k => k.setGoal (.ask t slot name why)
  | _ => s

def execWaiterWake (c : CoreNo) (s : State) : Out := .next (s.waiterWake c.val)

/-- The VALUE step of R263 at the owning loft: the innermost tile becomes VALUE, its stook is released, and every waiter is
woken. -/
def State.valueAct (s : State) (c : Nat) : State :=
  match (s.core c).force.stack with
  | [] => s
  | e :: _ =>
    let x := s.entry e.core e.slot
    let s := (s.setEntry e.core e.slot { x with state := .value, stook := none, owner := 0, ownerDepth := 0 }).releaseStook c
    s.wakeAll c e.core e.slot true

/-- The innermost tile, which is VALUE, is popped. -/
def State.popForced (s : State) (c : Nat) : State :=
  match (s.core c).force.stack with
  | [] => s
  | e :: rest => (s.modCore c fun k => { k with force := { k.force with stack := rest } }).forced c e.why 1

/-- The VALUE step of R263. -/
def State.valueStep (s : State) (c : Nat) : State := (s.valueAct c).popForced c

/-- EVALUATION_COMPLETE (R263). The VALUE step at a loft on another frond is a packet of the Rhizome (R283, R288). -/
def State.evaluationComplete (s : State) (c : Nat) : State :=
  let k := s.core c
  match k.force.stack with
  | [] => s
  | e :: _ =>
    if !k.chainRuns then s
    else match e.phase with
      | .told => s.popForced c
      | .complete =>
        if frondOf e.core ≠ frondOf c then s.sendLoft c e.core e.name
        else if e.core ≠ c ∧ s.unnoticed c then s
        else s.valueStep c
      | _ => s

def execEvaluationComplete (c : CoreNo) (s : State) : Out := .next (s.evaluationComplete c.val)

/-- The step of core `c`'s force unit that its packet makes at a loft on another frond: that of Force, or the VALUE step
(R263, R283). A unit that has stopped since makes none, and asks again (R272). -/
def State.farStep (s : State) (c : Nat) : State :=
  let k := s.core c
  if !k.chainGoes then s
  else match k.force.goal, k.force.stack with
    | .ask .., _ => s.forceAct c true
    | .none, e :: _ =>
      if e.phase = .complete then (s.valueAct c).modCore c fun k => k.setHead fun e => { e with phase := .told } else s
    | _, _ => s

def execRhizomeApply (n : Nat) (s : State) : Out := .next (s.rhizomeApply State.farStep n)

/-! ## What an operation computes (R257) -/

/-- An operand: its tile, and its bytes. -/
structure Operand where
  tile : Tile
  rd   : Nat → Byte

def Operand.elem (x : Operand) (r c : Nat) : EVal := decodeElem x.tile.fmt x.tile.cols x.rd r c

/-- An element as a lane (R188). -/
def Operand.lane (x : Operand) (mode : RoundMode) (draw r c : Nat) : Word32 :=
  let f := x.tile.fmt
  (laneOfElem f mode draw (readBits x.rd (f.elemBit x.tile.cols r c) f.width) (x.elem r c)).1

/-- The integer lane rule of an fn of major 0x12 (R191). -/
def intLane (sub : Nat) (a b : Word32) : Word32 :=
  match sub with
  | 0 => a + b
  | 1 => a - b
  | 2 => a * b
  | 3 => if b.slt a then b else a
  | 4 => if a.slt b then b else a
  | 5 => a &&& b
  | 6 => a ||| b
  | 7 => a ^^^ b
  | 8 => a <<< laneShift b
  | 9 => a >>> laneShift b
  | 10 => a.sshiftRight (laneShift b)
  | _ => (satAdd a b).1

def specialOf : Nat → SpecialFn
  | 0 => .exp2
  | 1 => .log2
  | 2 => .sinpi
  | 3 => .cospi
  | 4 => .rcp
  | 5 => .rsqrt
  | 6 => .sqrt
  | _ => .tanh

/-- The lane rule that an EW word names (R190, R191), at order 0. -/
def ewLane (maj sub : Nat) (l : LaneIn) : Word32 :=
  let out := fun (x : LaneOut) => (x.at 0).1
  match maj with
  | 0 =>
    match sub with
    | 0 => out (laneAdd l)
    | 1 => out (laneSub l)
    | 2 => out (laneMul l)
    | 3 => out (laneDiv l)
    | 4 => out (laneFma false false l)
    | 5 => out (laneFma false true l)
    | 6 => out (laneFma true false l)
    | 7 => out (laneMinMax false l)
    | 8 => out (laneMinMax true l)
    | 9 => out (laneSign (fun a _ => a.msb) l)
    | 10 => out (laneSign (fun _ _ => true) l)
    | _ => out (laneSign (fun a b => a.msb != b.msb) l)
  | 1 => out (laneSpecial (specialOf sub) l)
  | _ => intLane sub (l.src0 0) (l.src0 1)

/-- REDUCE's combine (R195, R257). -/
def reduceNode (sub : Nat) (mode : RoundMode) (draw : Nat) (a b : Word32) : Word32 × FlagBits :=
  match sub with
  | 0 => fadd32 mode draw a b
  | 1 => fminmax32 true a b
  | 2 => fminmax32 false a b
  | _ => (a + b, 0)

/-- Element (r, c) of an EW, SCALE or REDUCE result as a lane; `draw` is the element's single draw. -/
def opLane (st : Stook) (ops : List Operand) (draw r c : Nat) : Word32 :=
  let w := st.op
  let src := fun i r c => match ops[i]? with | some x => x.lane st.mode draw r c | none => 0
  match opKind w with
  | some .scale => (fmul32 st.mode draw (src 0 r c) (opParam w)).1
  | some .reduce =>
    let n := match ops with | x :: _ => x.tile.cols | [] => 0
    ((treeRoot (fun _ => reduceNode (opSub w) st.mode draw) n fun j => some (src 0 r j)).1).getD 0
  | _ =>
    ewLane (opMaj w) (opSub w)
      { mode := st.mode, draw := draw, order := 0, srcs := (List.range ops.length).map fun i => [src i r c] }

/-- Lanes encoded into a tile as VSTT encodes them (R188). -/
def laneWrites (t : Tile) (mode : RoundMode) (srkey : Word) (f : Nat → Nat → Word32) : List BitWrite :=
  if t.fmt = .fp32 then
    (List.range t.rows).flatMap fun r => (List.range t.cols).map fun c =>
      ⟨t.fmt.elemBit t.cols r c, 32, (f r c).toNat⟩
  else (encodeRegion t mode srkey 0 0 t.rows t.cols fun r c => elemOfLane t.fmt (f r c)).1

/-- R257: an element of A by B, accumulated into a bank at +0 (R232). -/
def matmulElem (a b : Operand) (r c : Nat) : BitVec 40 :=
  let kdim := a.tile.cols
  let terms := (List.range kdim).map fun j => mmaTerm a.tile.fmt.isInt (a.elem r j).toF (b.elem j c).toF
  (List.range ((kdim + 31) / 32)).foldl (fun x blk => mmaStep x ((terms.drop (32 * blk)).take 32)) 0

/-- The bits that an evaluation writes into the result tile; they depend on the stook, the tile and the operands alone
(R257). -/
def opWrites (st : Stook) (t : Tile) (ops : List Operand) : List BitWrite :=
  let copied := fun tr => match ops with
    | x :: _ => Loaded.tileWrites ⟨⟨x.tile, none, 0, 0, x.tile.rows, x.tile.cols⟩, x.rd, fun _ => 0⟩ tr st.mode st.srkey t
    | [] => []
  match opKind st.op with
  | some .convert => copied false
  | some .transpose => copied true
  | some .matmul =>
    match ops with
    | [a, b] => (encodeRegion t st.mode st.srkey 0 0 t.rows t.cols fun r c => drainVal (matmulElem a b r c)).1
    | _ => []
  | some .call => []
  | _ => laneWrites t st.mode st.srkey fun r c =>
      opLane st ops (srDraw st.mode st.srkey (t.row0 + r) (t.col0 + c) t.stream) r c

/-! ## STOOK_EVALUATE (R263, R264) -/

def Tile.allWords (t : Tile) : List Nat := t.regionWords 0 0 t.rows t.cols

/-- The operands of a stook at their use, each generation checked again (R263). -/
def State.useOperands (s : State) (c holder : Nat) : List Word → TrapVal ⊕ List Tile
  | [] => .inr []
  | n :: ns =>
    match s.resolveUse c holder n with
    | .inl t => .inl t
    | .inr (t, slot) =>
      let e := s.entry t slot
      if e.gen ≠ nameGen n then .inl (loftFault 0x05 n)
      else match s.useOperands c holder ns with
        | .inl t => .inl t
        | .inr r => .inr (e.tile t :: r)

/-- The innermost tile's evaluation goes on to a phase. -/
def State.setPhase (s : State) (c : Nat) (p : Phase) : State := s.modCore c fun k => k.setHead fun e => { e with phase := p }

/-- Where the words of the operands lie (R95): one list of homes for each. -/
def State.operandHomes (s : State) (c : Nat) : List Tile → (Option TrapVal ⊕ List (List (Nat × Nat × Bool))) × State
  | [] => (.inr [], s)
  | t :: ts =>
    match s.tileHomes c reqForce t .read t.allWords with
    | (.fault va, s) => (.inl (some (.translationFault, va)), s)
    | (.violation va, s) => (.inl (some (.accessViolation, va)), s)
    | (.wait, s) => (.inl none, s)
    | (.ok hs, s) =>
      match s.operandHomes c ts with
      | (.inr r, s) => (.inr (hs :: r), s)
      | x => x

/-- Packets of core `c`'s force unit sent: they are in flight for it. -/
def State.sendForce (s : State) (c : Nat) (op : List Nat → PktOp) (xs : List EngWord) : State :=
  let (ids, s) := s.sendEngine c (s.core c).pc (s.core c).force.since op xs
  s.modCore c fun k => { k with force := { k.force with flying := k.force.flying ++ ids } }

/-- An operation other than CALL: its operands are checked again and translated, and their words are asked for (R263). -/
def State.evalRead (s : State) (c : Nat) (e : ForceEntry) (st : Stook) : State :=
  match s.useOperands c e.core st.names with
  | .inl t => s.chainFault c t
  | .inr tiles =>
    match s.operandHomes c tiles with
    | (.inl (some t), s) => s.chainFault c t
    | (.inl none, s) => s
    | (.inr hs, s) =>
      let s := s.setPhase c (.reading tiles)
      (tiles.zip hs).zipIdx.foldl (fun s ((t, h), i) => s.sendForce c (.engRead .force i t) (engineReads h)) s

/-- A MATMUL takes its place in the matrix queue where there is room; any other operation reads its operands (R264). -/
def State.evalStart (s : State) (c : Nat) (e : ForceEntry) (st : Stook) : State :=
  if opKind st.op = some .matmul then
    if (s.core c).matrixFull then s else (s.enqueueMatrix c fun id => .matmul id).setPhase c .queued
  else s.evalRead c e st

/-- The result's words are translated and sent to their homes (R263, R264). -/
def State.evalWrite (s : State) (c : Nat) (e : ForceEntry) (st : Stook) (tiles : List Tile) : State :=
  let got := (s.core c).force.got
  let t := (s.entry e.core e.slot).tile e.core
  let ws := gatherWrites (opWrites st t (tiles.zipIdx.map fun (x, i) => ⟨x, partyByte got i⟩))
  match s.tileHomes c reqForce t .write (ws.map (·.1)) with
  | (.fault va, s) => s.chainFault c (.translationFault, va)
  | (.violation va, s) => s.chainFault c (.accessViolation, va)
  | (.wait, s) => s
  | (.ok hs, s) => (s.setPhase c .writing).sendForce c (.engWrite .force 0 e.name t) (engineWrites hs ws)

/-- The evaluation's accesses have been answered: it goes on, or fails (R271). -/
def State.evalNext (s : State) (c : Nat) (e : ForceEntry) (st : Stook) : State :=
  let u := (s.core c).force
  if !u.flying.isEmpty then s
  else match u.failed, e.phase with
    | some va, _ => s.chainFault c (.accessViolation, va)
    | none, .reading tiles => s.evalWrite c e st tiles
    | none, _ => ((s.dropMatmul c).modCore c fun k => { k with force := { k.force with got := [] } }).setPhase c .complete

/-- g1 to g15 and the address at which a stream resumes, as a frame's end restores them (R267, R268). -/
def Core.restoreFrame (k : Core) (v : FrameSave) : Core :=
  let mine := onesAt 1 15
  { k with
    g := Vector.ofFn fun r => if 1 ≤ r.val ∧ r.val ≤ 15 then v.g.getD (r.val - 1) 0 else k.g.get r
    gfull := (k.gfull &&& ~~~mine) ||| (v.full &&& mine), pc := v.pc, stall := false }

/-- The number from which on everything belongs to a spark's frames; none where the chain has no frame (R270). -/
def ForceUnit.mark (u : ForceUnit) : Option Nat := ((u.stack.filterMap (·.save)).getLast?).map (·.mark)

/-- The number of a matrix operation; a join marker, which is none, has 0. -/
def MatItem.id : MatItem → Nat
  | .mma n _ | .mswap n _ | .mzero n _ | .mdrain n _ | .matmul n => n
  | .join _ => 0

/-- A copy that a frame issued and a translation fault stopped unstarted (R162, R270). -/
def CopyItem.abandoned (mark : Nat) : CopyItem → Bool
  | .copy o r => r.faulted && decide (mark ≤ o.id)
  | .join _ => false

/-- Everything that the frames of core `c`'s chain issued has been answered (R270). -/
def State.answeredAll (s : State) (c mark : Nat) : Bool :=
  let k := s.core c
  (s.mine c).all (fun p => decide (p.id < mark)) &&
    k.queues.toList.all (fun q => q.all fun
      | .copy o _ => decide (o.id < mark)
      | .join _ => true) &&
    k.mqueue.all (fun i => decide (i.id < mark)) &&
    k.qwaits.all fun w => decide (w.d.val = 0 ∨ 15 < w.d.val) && w.deps.all fun d => decide (d < mark)

/-- R270: a tile that a spark's chain blackholed returns to SUSPENDED, and its waiters retry. -/
def State.unforce (s : State) (c : Nat) (e : ForceEntry) : State :=
  let x := s.entry e.core e.slot
  if x.state = .blackhole ∧ x.owner = (s.core c).ctx then
    (s.setEntry e.core e.slot { x with state := .suspended, owner := 0, ownerDepth := 0 }).wakeAll c e.core e.slot false
  else s

/-- The chain of a spark ends (R270): its tiles return to SUSPENDED, and the GLEAN fills with v = 0. -/
def State.abandon (s : State) (c : Nat) (d : Reg) (name : Word) (frame : Option FrameSave) : State :=
  ((s.core c).force.stack.foldl (fun s e => s.unforce c e) s).modCore c fun k =>
    (match frame with | some v => k.restoreFrame v | none => k).fillSpark d 0 name

/-- SPARK_FAULT_ABSORB (R270): a chain waits until its accesses, and what its frames issued, have been answered; a copy of a
frame that stopped unstarted leaves its queue. -/
def State.absorb (s : State) (c : Nat) : State :=
  let k := s.core c
  let frame := k.force.stack.reverse.findSome? (·.save)
  match k.force.root with
  | some (.spark d name) =>
    if !k.force.flying.isEmpty then s
    else match k.force.mark with
      | none => s.abandon c d name frame
      | some mark =>
        match (List.finRange 4).find? fun q => (k.queues.get q).head?.any (·.abandoned mark) with
        | some q => s.popCopy c q
        | none => if s.answeredAll c mark then s.abandon c d name frame else s
  | _ => s

/-- STOOK_EVALUATE (R263): a CALL goes on to its frame. Accesses that an evaluation has handed to the engines complete
also on a core that has stopped (R272). -/
def State.stookEvaluate (s : State) (c : Nat) : State :=
  let k := s.core c
  if k.force.absorbing then
    let s := s.dropMatmul c
    if k.run = .running then s.absorb c else s
  else match k.force.stack with
    | [] => s
    | e :: _ =>
      match (s.entry e.core e.slot).stook with
      | none => s
      | some st =>
        match e.phase with
        | .evaluate =>
          if !k.chainRuns || k.force.goal != .none then s
          else if opCalls st.op then s.setPhase c .callWait
          else s.evalStart c e st
        | .queued => if k.mqueue.head?.any MatItem.isMatmul then s.evalRead c e st else s
        | .reading _ | .writing => s.evalNext c e st
        | _ => s

def execStookEvaluate (c : CoreNo) (s : State) : Out := .next (s.stookEvaluate c.val)

/-! ## CALL frames (R267, R268) -/

/-- g1 to g15. -/
def frameRegs : List Reg := (List.finRange 64).filter fun r => decide (1 ≤ r.val) && decide (r.val ≤ 15)

/-- The operand names of a frame, in absolute form (R267). -/
def State.frameNames (s : State) (c holder : Nat) : List Word → TrapVal ⊕ List Word
  | [] => .inr []
  | n :: ns =>
    match s.resolveUse c holder n with
    | .inl t => .inl t
    | .inr (t, slot) =>
      match s.frameNames c holder ns with
      | .inl t => .inl t
      | .inr r => .inr (absName t slot (nameGen n) :: r)

/-- A frame's registers set (R267). -/
def Core.enterFrame (k : Core) (mark : Nat) (name : Word) (ops : List Word) (param : Word32) (entry : Word) : Core :=
  let save : FrameSave :=
    { g := frameRegs.map k.gr
      full := k.gfull &&& onesAt 1 15, pc := k.pc, mark := mark }
  let value := fun r => if r = 1 then name else if r < 6 then ops.getD (r - 2) 0 else if r = 6 then param.zeroExtend 64 else 0
  let k := k.setHead fun e => { e with phase := .frame, save := some save }
  { k with
    g := Vector.ofFn fun r => if 1 ≤ r.val ∧ r.val ≤ 15 then value r.val else k.g.get r
    gfull := k.gfull ||| onesAt 1 15, pc := entry, stall := false }

/-- The interrupted stream at its boundary: a GLEAN that waits, but for the spark whose chain this is, and a pending GANG are
withdrawn, and issue again after the frame (log entry 64). -/
def Core.atBoundary (k : Core) : Core := { k.withdrawGlean with gangWait := none }

/-- CALL_FRAME_START (R267), at an instruction boundary with g1 to g15 full (log entry 21); on a ganged core it raises
GANG_FAULT, reason 0x06 (R324). -/
def State.callFrameStart (s : State) (c : Nat) : State :=
  let k := s.core c
  match k.force.stack with
  | [] => s
  | e :: _ =>
    if !k.chainRuns || e.phase != .callWait || k.midway.isSome then s
    else if k.inGang then s.chainFault c (.gangFault, 0x600)
    else if !frameRegs.all k.atBoundary.gIsFull then s
    else
      let x := s.entry e.core e.slot
      match x.stook with
      | none => s
      | some st =>
        match s.frameNames c e.core st.names with
        | .inl t => s.chainFault c t
        | .inr ops => s.modCore c fun k => k.atBoundary.enterFrame s.nextId (absName e.core e.slot x.gen) ops (opParam st.op) st.entry

def execCallFrameStart (c : CoreNo) (s : State) : Out := .next (s.callFrameStart c.val)

/-- TDONE (R268), which writes g1 to g15 (R168). Where the tile's loft is on another frond, the VALUE step goes there as a
packet (R283). -/
def tdone (s : State) : State :=
  let k := s.me
  if !k.inFrame then s.trap .loftFault (reasonVal 0x1A 0)
  else match k.force.stack with
    | [] => s.wait
    | e :: _ =>
      match e.phase, e.save with
      | .frame, some v =>
        if frameRegs.all k.gIsFull && k.queues.toList.all (·.isEmpty) && k.mqueue.isEmpty && s.writesDone s.cur then
          let t := s.modMe fun k => k.restoreFrame v
          if frondOf e.core ≠ frondOf s.cur then t.setPhase s.cur .complete
          else if e.core ≠ s.cur ∧ s.unnoticed s.cur then s.wait
          else t.valueStep s.cur
        else s.wait
      | _, _ => s.wait

def execTdone (s : State) : Out := .next (tdone s)

/-! ## FORCE, FORCE.nb and SPARK -/

/-- R131 with the generation, at the owning loft. -/
def State.resolveGen (s : State) (c : Nat) (n : Word) : TrapVal ⊕ (Nat × Nat) :=
  match s.resolve c n with
  | .inl t => .inl t
  | .inr (t, slot) => if (s.entry t slot).gen ≠ nameGen n then .inl (loftFault 0x05 n) else .inr (t, slot)

/-- A chain begins, or a frame pushes onto its chain (R262), with its place `since` in program order: the unit asks the owning
loft. -/
def Core.beginForce (k : Core) (r : Root) (t slot : Nat) (name : Word) (since : Nat) : Core :=
  if k.inFrame then { k with force := { k.force with goal := .ask t slot name (some r), how := 0, since := since }, stall := false }
  else { k with force := { ForceUnit.idle with root := some r, goal := .ask t slot name (some r), since := since } }

/-- The unit's request to a loft; one to the core's own loft reaches it in program order (R134). -/
def State.askLoft (s : State) (t : Nat) : State := if t = s.cur then s.forceStep t else s

/-- FORCE, and FORCE.nb with its register (R262). Its release toward the force unit: the core's earlier writes have been
performed (log entry 45). -/
def force (nb : Option Reg) (a : Reg) (p : Bool) (s : State) : State :=
  if s.me.blocked then s.wait
  else
    let d : List RegRef := match nb with | some d => [.g d] | none => []
    s.issueFenced { traps := policy p [.g a], waits := [.g a] ++ d } fun s =>
      if s.me.otherChain || s.writesOut s.cur then s.wait
      else
        let n := s.me.gr a
        match s.resolveGen s.cur n with
        | .inl (c, v) => s.trap c v
        | .inr (t, slot) => (s.modMe fun k =>
          let inside := k.inFrame
          match nb with
          | none => { k.beginForce (if inside then .inner k.pc else .force k.pc) t slot n s.nextId with stall := false }
          | some d =>
            let k' := (k.armG d).beginForce (if inside then .innerNb d k.pc else .forceNb d k.pc) t slot n s.nextId
            if inside then k' else k'.advance 4).askLoft t

def execForce (a : Reg) (p : Bool) (s : State) : Out := .next (force none a p s)
def execForceNb (r : R2) (s : State) : Out := .next (force (some r.d) r.a r.pa s)

/-- R363: the waiting GLEANs of a launch search again. -/
def State.publish (s : State) (c : Nat) : State :=
  match s.launchOf c with
  | none => s
  | some l => l.cores.foldl (fun s t => s.modCore t fun k =>
      { k with glean := k.glean.map fun w => if w.idle then { w with news := true } else w }) s

/-- SPARK (R269): it pushes onto the core's own spark queue, and is no release (log entry 84). -/
def spark (a : Reg) (p : Bool) (s : State) : State :=
  s.issueFenced { traps := policy p [.g a], waits := [.g a] } fun s =>
    let n := s.me.gr a
    match s.resolveGen s.cur n with
    | .inl (c, v) => s.trap c v
    | .inr (t, slot) =>
      let e := s.entry t slot
      let again : Bool := match e.stook with | some st => opPure st.op | none => false
      if e.state = .free then s.trap .loftFault (reasonVal 0x06 n)
      else if e.state = .suspended ∧ again ∧ s.me.sparks.length < 64 then
        (s.modMe fun k => { k with sparks := k.sparks ++ [absName t slot e.gen] }.advance 4).publish s.cur
      else s.advance 4

def execSpark (a : Reg) (p : Bool) (s : State) : Out := .next (spark a p s)

/-! ## TSUSP (R258 to R260) -/

/-- g[a] to g[a + 3]. -/
def suspUses (r : R3) : Uses :=
  let group := [.g r.a, .g (regUp r.a 1), .g (regUp r.a 2), .g (regUp r.a 3)]
  { traps := policy r.pa group, waits := group }

/-- The registers from g[b] up that the operation word has read. -/
def Core.suspRegs (k : Core) (r : R3) : List Reg :=
  let w := k.gr (regUp r.a 3)
  destRegs r.b (opNops w + if opCalls w then 1 else 0)

def Core.suspUses2 (k : Core) (r : R3) : Uses :=
  let regs := (k.suspRegs r).map RegRef.g
  { traps := policy r.pb regs, waits := regs ++ [.g r.d] }

/-- R260: the operands looked up at their lofts, in ascending order. -/
def State.suspOperands (s : State) (c : Nat) : List Word → TrapVal ⊕ List (LoftEntry × Tile)
  | [] => .inr []
  | n :: ns =>
    match s.resolveGen c n with
    | .inl t => .inl t
    | .inr (t, slot) =>
      let e := s.entry t slot
      if e.state = .free then .inl (loftFault 0x06 n)
      else match s.suspOperands c ns with
        | .inl t => .inl t
        | .inr r => .inr ((e, e.tile t) :: r)

/-- A tile that TSUSP is to make, and whether it is evaluated at once. -/
structure Susp where
  new   : NewTile
  stook : Stook
  eager : Bool

/-- HW (R259). -/
def Launch.highWater (l : Launch) : Nat := (l.poolN * l.hwPct + 99) / 100

/-- The indexes in a launch's pool that its stooks hold (R255). -/
def State.poolUsed (s : State) (l : Launch) : List Nat :=
  s.loft.filterMap fun e => if l.holds (e.1 / 4096) then e.2.stook.map (·.index) else none

/-- The checks of R260 in order. -/
def State.suspCheck (s : State) (r : R3) : TrapVal ⊕ Susp :=
  let k := s.me
  match s.newTile s.cur (k.gr r.a) (k.gr (regUp r.a 1)) (k.gr (regUp r.a 2)) with
  | .inl t => .inl t
  | .inr t =>
    let w := k.gr (regUp r.a 3)
    let call := opCalls w
    let first := k.gr r.b
    match (if opFieldsOk w && !(63 < r.b.val + (opNops w + if call then 1 else 0) - 1) && !(call && first.toNat % 4 != 0)
        then k.codeMode (fld w 39 3) else none) with
    | none => .inl (loftFault 0x18 t.name)
    | some mode =>
      let names := ((k.suspRegs r).drop (if call then 1 else 0)).map k.gr
      match s.suspOperands s.cur names with
      | .inl t => .inl t
      | .inr ops =>
        let depth := ops.foldl (fun m o => max m (o.1.stook.elim 0 (·.depth))) 0 + 1
        if !opShapesOk w (t.entry.tile s.cur) (ops.map (·.2)) then .inl (loftFault 0x19 t.name)
        else
          let stook : Stook :=
            { op := w, mode := mode, srkey := k.srkey, names := names, entry := if call then first else 0, depth := depth,
              index := 0 }
          match s.launchOf s.cur with
          | none => .inl (.stookPoolExhausted, reasonVal 0x01 t.name)
          | some l =>
            if l.poolN ≤ l.pool then .inl (.stookPoolExhausted, reasonVal 0x01 t.name)
            else .inr { new := t, stook := { stook with index := Config.poolIndex (s.poolUsed l) }, eager := decide (l.highWater ≤ l.pool ∨ l.dlim < depth) }

/-- The entry, the pool count and g[d] (R260); an eager tile is pushed. -/
def State.suspend (s : State) (r : R3) (x : Susp) : State :=
  let c := s.cur
  let k := s.me
  let t := x.new
  let s := match k.launch with
    | some key => s.modLaunch key fun l => { l with pool := l.pool + 1 }
    | none => s
  let e := { t.entry with stook := some x.stook }
  if !x.eager then
    ((s.setEntry c t.slot { e with state := .suspended }).sendValue c r.d 4 t.name).modCore c fun k => (k.armG r.d).advance 4
  else
    let inside := k.inFrame
    let why := if inside then Root.innerEager r.d t.name k.pc else Root.eager r.d t.name k.pc
    let s := s.setEntry c t.slot { e with state := .blackhole, owner := k.ctx, ownerDepth := k.force.stack.length }
    let s := s.modCore c fun k =>
      let k := k.armG r.d
      let stack := ForceEntry.new c t.slot t.entry.gen (some why) :: k.force.stack
      let k := { k with force := { k.force with root := if inside then k.force.root else some why, goal := .none, stack := stack, since := s.nextId } }
      if inside then { k with stall := false } else k.advance 4
    s.nextOperand c

/-- TSUSP (R258, R260). An eager one is a release toward the force unit, as a FORCE is (R326, log entry 45); one that finds
the force stack full faults the chain it stands in (R261). -/
def tsusp (r : R3) (s : State) : State :=
  if s.me.framePushed then s.wait
  else s.issueFenced (suspUses r) fun s => s.issue (s.me.suspUses2 r) fun s =>
    match s.suspCheck r with
    | .inl (c, v) => s.trap c v
    | .inr x =>
      if x.eager && (s.me.otherChain || s.writesOut s.cur) then s.wait
      else if x.eager && decide (288 ≤ s.me.force.stack.length) then
        s.chainFault s.cur (.stookPoolExhausted, reasonVal 0x02 x.new.name)
      else s.perform do
        logTile s.cur 3 x.new.name
        modify fun s => s.suspend r x

def execTsusp (r : R3) (s : State) : Out := .next (tsusp r s)

end Sys2Proof.Machine
end

