-- ==== Sys2Proof/Machine/Gang.lean ====
section
/-! DEFINITION. Gangs: GANG and its faults (R319, R320), GANG_FORM, UNGANG (R323). -/
namespace Sys2Proof

def GangSize.count : GangSize → Nat
  | .two => 2
  | .four => 4
  | .eight => 8

end Sys2Proof

namespace Sys2Proof.Machine

/-- `tval` of GANG_FAULT but for reason 0x05 (R324). -/
def gangVal (reason : Nat) : Word := BitVec.ofNat 64 (reason * 2 ^ 8)

/-- The set of a gang that contains core `c`; none where it does not exist (R319). -/
def gangSet (z : GangSize) (c : Nat) : Option (List Nat) :=
  let n := z.count
  let x0 := xOf c / n * n
  if x0 + n ≤ 12 then some ((List.range n).map fun i => coreAt (frondOf c) (yOf c) (x0 + i)) else none

def inGangSet (z : GangSize) (c t : Nat) : Bool := match gangSet z c with | some m => m.contains t | none => false

/-- Cores of a launch that wait at a GANG of another size which meets core `c`'s (R320, reason 0x01). -/
def State.gangClash (s : State) (l : Launch) (z : GangSize) (c : Nat) : List Nat :=
  l.cores.filter fun t => t != c && match (s.core t).gangWait with
    | some y => y != z && (inGangSet z c t || inGangSet y t c)
    | none => false

/-- Every GANG of a list faults at its core. -/
def State.gangFaults (s : State) (reason : Nat) (cs : List Nat) : State :=
  cs.foldl (fun s t =>
    (s.modCore t fun k => { k with gangWait := none }).trapOf t .gangFault (gangVal reason)) s

/-- The members of a set that wait at a GANG of its size, and the core that issues one (R320, reason 0x07). -/
def State.gangWaiting (s : State) (z : GangSize) (c : Nat) (set : List Nat) : List Nat :=
  set.filter fun t => t == c || (s.core t).gangWait == some z

/-- GANG (R320). It issues again while it waits, and so finds a core of its set that has ended meanwhile. DESIGN CHOICE
(log entry 74): of several reasons that hold, 0x03 comes first, then 0x02, 0x07 and 0x01. -/
def gangOp (z : GangSize) (s : State) : State :=
  let c := s.cur
  let k := s.me
  if k.inGang then s.trap .gangFault (gangVal 0x03)
  else match s.launchOf c, gangSet z c with
    | some l, some set =>
      if !set.all l.cores.contains then s.trap .gangFault (gangVal 0x02)
      else if set.any fun t => (s.core t).run == .ended || (s.core t).run == .idle || (s.core t).run == .faulted ||
          (s.core t).run == .stopped then
        s.gangFaults 0x07 (s.gangWaiting z c set)
      else
        let clash := s.gangClash l z c
        if !clash.isEmpty then s.gangFaults 0x01 (clash ++ [c])
        else (s.modMe fun k => { k with gangWait := some z }).wait
    | _, _ => s.trap .gangFault (gangVal 0x02)

def execGang (z : GangSize) (s : State) : Out := .next (gangOp z s)

/-- GANG_FORM (R320): the set of core `c` joins once every member holds a pending GANG of the same size. The stream goes
on at the leader's GANG address + 4. -/
def State.gangForm (s : State) (c : Nat) : State :=
  match (s.core c).gangWait with
  | none => s
  | some z =>
    match gangSet z c with
    | none => s
    | some set =>
      let ready := set.all fun t =>
        let k := s.core t
        k.gangWait == some z && k.run == .running && k.pending.isEmpty
      if !ready then s
      else
        let pc := (s.core (set.headD c)).pc + 4
        set.zipIdx.foldl (fun s (t, i) => s.modCore t fun k =>
          { k with gangWait := none, gidx := BitVec.ofNat 6 (z.code * 16 + i), pc := pc, stall := false }) s

def execGangForm (c : CoreNo) (s : State) : Out := .next (s.gangForm c.val)

/-- UNGANG at one member (R323). -/
def ungang (s : State) : State :=
  if !s.me.inGang then s.trap .gangFault (gangVal 0x04)
  else s.modMe fun k => { k with gidx := 0 }.advance 4

def execUngang (s : State) : Out := .next (ungang s)

end Sys2Proof.Machine
end

