-- ==== Sys2Proof/Machine/Search.lean ====
section
/-! DEFINITION. Search: TRY, FAIL, CUT, CHMARK, TST and CLAIM (R374 to R381). -/
namespace Sys2Proof.Machine

/-! ## Waits -/

/-- R376, R378: every register of a core is full. -/
def Core.allFull (k : Core) : Bool := k.gfull ||| 1 == BitVec.allOnes 64 && k.vfull == BitVec.allOnes 64

/-- The v registers of a VMASK, ascending. -/
def maskRegs (vmask : Word) : List Reg := (List.finRange 64).filter fun r => vmask.getLsbD r.val

/-- A misaligned jump target (R79); a gang's follower takes its leader's (R322). -/
def jumpTarget (c : Nat) (t : Word) : Run Word := do
  if t.toNat % 4 ≠ 0 && ((← get).core c).decides then Run.trap .misaligned t else return t

def modifyCore (c : Nat) (f : Core → Core) : Run Unit := modify fun s => s.modCore c f

/-! ## Unwinding (R378, R379) -/

/-- Unlog (R379). -/
def unlog (c : Nat) (name : Word) : Run Unit := do
  match (← get).resolveLocal c name with
  | .inl _ => return ()
  | .inr slot =>
    match ((← get).entry c slot).state with
    | .free => return ()
    | .blackhole => Run.wait
    | _ => modify fun s => s.freeSlot c slot

/-- One swath entry unwound, newest first; SP advances after it. A KIND that hardware does not write undoes nothing. -/
def unwindOne (c : Nat) : Run Unit := do
  let sp := ((← get).core c).sp
  let e ← readArena c sp
  match fld e 60 4 with
  | 1 =>
    let old ← readArena c (sp + 8)
    writeVa c (BitVec.ofNat 64 (fld e 0 56)) old
  | 2 => unlog c (BitVec.ofNat 64 (fld e 0 32))
  | 3 => unlog c (BitVec.ofNat 64 (fld e 0 32))
  | _ => pure ()
  modifyCore c fun k => { k with sp := k.sp + 16 }

def unwind (c : Nat) : Nat → Run Unit
  | 0 => return ()
  | n + 1 => do unwindOne c; unwind c n

/-- Words read one after another from an offset of the arena. -/
def readWordsAt (c off : Nat) : Nat → Run (List Word)
  | 0 => return []
  | n + 1 => do
    let w ← readArena c off
    let ws ← readWordsAt c (off + 8) n
    return w :: ws

def writeWordsAt (c off : Nat) : List Word → Run Unit
  | [] => return ()
  | w :: ws => do writeArena c off w; writeWordsAt c (off + 8) ws

/-- A v register from its 16 words, lane 0 first (R370). -/
def vregOfWords (ws : List Word) : VReg :=
  Vector.ofFn fun i => let w := ws.getD (i.val / 2) 0; if i.val % 2 = 0 then w.extractLsb' 0 32 else w.extractLsb' 32 32

def wordsOfVreg (x : VReg) : List Word :=
  (List.range 16).map fun i => x.at (2 * i + 1) ++ x.at (2 * i)

/-- The snapshot of a record (R370): g1 to g63, full, but for the registers that `keep` names. -/
def Core.restoreG (k : Core) (ws : List Word) (keep : Reg → Bool) : Core :=
  { k with
    g := Vector.ofFn fun r => if r.val = 0 ∨ keep r then k.g.get r else ws.getD (r.val - 1) 0
    gfull := wordOfBits fun i => if h : i < 64 then (if keep ⟨i, h⟩ then k.gfull.getLsbD i else true) else false }

/-- The saved v registers, full. -/
def Core.restoreV (k : Core) (regs : List Reg) (ws : List Word) : Core :=
  regs.zipIdx.foldl (fun k (r, i) =>
    { k.setV r (vregOfWords ((ws.drop (16 * i)).take 16)) with vfull := setBit k.vfull r.val true }) k

/-- How a FAIL ends. -/
inductive FailEnd where
  | goOn (pc : Word)
  | endPart
deriving DecidableEq, Repr

/-- R378 with an empty choice stack: the task has failed. -/
def failTask (c : Nat) : Run FailEnd := do
  let size := ((← get).arena c).2
  if size = 0 then return .endPart
  else do
    writeArena c 16 1
    writeArena c 40 0
    writeArena c 24 0
    writeArena c 32 0
    modifyCore c fun k => { k with sp := size }
    let pc := BitVec.ofNat 64 (fld (← readArena c 8) 0 56)
    if pc = 0 then return .endPart else do let t ← jumpTarget c pc; return .goOn t

/-- FAIL (R378): a record visited for each step of `fuel`; what remains is done when the instruction is performed again. -/
def failLoop (c : Nat) : Nat → Run FailEnd
  | 0 => Run.wait
  | fuel + 1 => do
    if !((← get).core c).allFull then Run.wait
    else
      let top := ((← get).core c).ctop
      if top = 0 then failTask c
      else do
        let mark := fld (← readArena c (top + 24)) 0 33
        unwind c ((mark - ((← get).core c).sp + 15) / 16)
        let vmask ← readArena c (top + 32)
        let gs ← readWordsAt c (top + 64) 63
        let regs := maskRegs vmask
        let vs ← readWordsAt c (top + 576) (16 * regs.length)
        modifyCore c fun k => (k.restoreG gs fun _ => false).restoreV regs vs
        let w2 ← readArena c (top + 16)
        let next := fld w2 16 16
        if next < fld w2 0 16 then do
          let base ← readArena c (top + 8)
          let e ← readVa c (BitVec.ofNat 64 (fld base 0 56 + 8 * next))
          let t ← jumpTarget c e
          writeArena c (top + 16) (w2 + 0x10000)
          return .goOn t
        else do
          let prev := fld (← readArena c top) 0 33
          modifyCore c fun k => { k with ctop := prev }
          failLoop c fuel

/-- FAIL performed, with the END that an empty stack may come to, once nothing of any member is outstanding (R318, R323); in a
gang the leader's outcome decides (R322, R385). -/
def failRun (c : Nat) : Run Unit := do
  match ← failLoop c (2 ^ 24) with
  | .goOn t => modifyCore c fun k => k.goto t
  | .endPart =>
    if !((← get).core c).decides then modifyCore c fun k => { k with stall := false }
    else do
      let s ← get
      if (s.gangOf c).all s.quiet then set (s.endPart c) else Run.wait

/-- The FAIL of an instruction of the issuing core: after a recoverable fault it goes on where it stands (R378). -/
def State.fail (s : State) : State := s.performAs (some .fail) (failRun s.cur)

/-- The FAIL that an instruction has begun goes on (R376, R378, R381). -/
def State.goesOn (s : State) (body : State → State) : State := if s.me.midway = some .fail then s.fail else body s

/-! ## FAIL, TRY, CUT, CHMARK -/

/-- R374: TRY, FAIL, CUT and CLAIM stand outside CALL frames, and issue alone. -/
def aloneOp (u : Uses) (body : State → State) (s : State) : State :=
  s.issueFenced u fun s =>
    if s.me.inFrame then s.trap frameFault.1 frameFault.2
    else if !s.alone s.cur then s.wait
    else body s

def execFailBack (s : State) : Out := .next (s.goesOn (aloneOp (gUses []) State.fail))

/-- The record that a TRY writes (R370). -/
def Core.recordWords (k : Core) (t : Word) (nalt : Nat) (vmask prune : Word) : List Word :=
  [BitVec.ofNat 64 k.ctop, t, BitVec.ofNat 64 (2 ^ 16 + nalt), BitVec.ofNat 64 k.sp, vmask, BitVec.ofNat 64 (fld prune 0 56), 0, 0] ++
    ((List.finRange 64).drop 1).map k.gr ++ [0] ++ (maskRegs vmask).flatMap fun r => wordsOfVreg (k.vr r)

/-- TRY's steps from the checks on (R376). -/
def tryRun (c : Nat) (t : Word) (nalt : Nat) (vmask prune : Word) : Run Unit := do
  if t.toNat % 8 ≠ 0 ∨ fld t 56 8 ≠ 0 then Run.trap .misaligned t
  else
    let need := recordSize vmask
    if ((← get).arena c).2 = 0 then Run.trap .choiceOverflow (overflowVal need 0)
    else do
      let base ← stackEnd c
      let k := (← get).core c
      if k.sp < base + need then Run.trap .choiceOverflow (overflowVal need (k.sp - base))
      else do
        writeWordsAt c base (k.recordWords t nalt vmask prune)
        let e ← jumpTarget c (← readVa c t)
        modifyCore c fun k => { k with ctop := base }.goto e
        modify fun s => s.publish c

/-- TRY (R376): every g register and the v registers of VMASK are full. -/
def tryAlternatives (a b : Reg) (pa pb : Bool) (s : State) : State :=
  let ra := [RegRef.g a, .g (regUp a 1)]
  let rb := [RegRef.g b, .g (regUp b 1)]
  s.goesOn fun s => s.issue { traps := policy pa ra ++ policy pb rb, waits := ra ++ rb } fun s =>
    if s.me.inFrame then s.trap frameFault.1 frameFault.2
    else
      let vmask := s.me.gr b
      aloneOp { traps := [], waits := (List.finRange 64).map RegRef.g ++ (maskRegs vmask).map RegRef.v } (fun s =>
        let nalt := fld (s.me.gr (regUp a 1)) 0 16
        if nalt = 0 then s.fail else s.perform (tryRun s.cur (s.me.gr a) nalt vmask (s.me.gr (regUp b 1)))) s

def execTryAlt (a b : Reg) (p q : Bool) (s : State) : Out := .next (tryAlternatives a b p q s)

/-- The increments that a CUT has still to send, while it has begun. -/
def Core.cutAdds (k : Core) : List PruneAdd :=
  match k.midway with
  | some (.cut adds) => adds
  | _ => []

/-- CUT's loop (R380): records are popped, and the increments of stolen ones are put down. -/
def cutLoop (c marker : Nat) : Nat → Run Unit
  | 0 => Run.wait
  | fuel + 1 => do
    let top := ((← get).core c).ctop
    if top ≤ marker then return ()
    else do
      let stolen := wbit (← readArena c (top + 16)) 32
      let prune := BitVec.ofNat 64 (fld (← readArena c (top + 40)) 0 56)
      let add ← if stolen ∧ prune ≠ 0 then do
          let (h, device) ← wordPlace c prune .rw
          pure [(⟨prune, h, device⟩ : PruneAdd)]
        else pure []
      let prev := fld (← readArena c top) 0 33
      modifyCore c fun k => { k with ctop := prev, midway := some (.cut (k.cutAdds ++ add)) }
      cutLoop c marker fuel

/-- A CUT is done: with the choice stack empty, the swath is too (R380). -/
def State.cutDone (s : State) : State :=
  let size := (s.arena s.cur).2
  s.modMe fun k => { (if k.ctop = 0 then { k with sp := size } else k) with midway := none }.advance 4

/-- An increment: AADD.z64.nr.rel.package 1 to a prune word (R380). -/
def State.sendPrune (s : State) (a : PruneAdd) : State :=
  s.send (s.mkPacket s.cur (.atom 0x01 1 0 true 0 (a.home % 8)) [⟨a.home, 0, 0⟩] a.va true true a.device)

/-- A CUT that has popped its records goes on: its next increment leaves once the one before it has been performed, since it is
a release; with the last the CUT is done. -/
def State.cutGoesOn (s : State) : State :=
  match s.me.cutAdds with
  | [] => s.cutDone
  | a :: r =>
    if !s.alone s.cur then s.wait
    else
      let t := s.sendPrune a
      if r.isEmpty then t.cutDone else t.modMe fun k => { k with midway := some (.cut r), stall := true }

/-- CUT's steps (R380). Its recoverable fault, as any other trap, comes before any effect (R12); an error response to a read
ends its loop (R98). -/
def State.cut (s : State) (marker : Word) : State :=
  match cutLoop s.cur marker.toNat (2 ^ 24) s with
  | .ok _ t => t.cutGoesOn
  | .error .bad t => t.cutGoesOn
  | .error e t => s.stopped none t e

/-- CUT (R380). -/
def execCutTo (a : Reg) (p : Bool) (s : State) : Out :=
  .next (if s.me.cutting then s.cutGoesOn
    else aloneOp { traps := policy p [.g a], waits := [.g a] } (fun s => s.cut (s.me.gr a)) s)

/-- CHMARK (R375). -/
def execChmark (d : Reg) (b : ChSel) (s : State) : Out :=
  .next (s.issue (gUses [d]) fun s => s.retireG d (match b with
    | .marker => BitVec.ofNat 64 s.me.ctop
    | .base => (s.arena s.cur).1))

/-! ## TST and CLAIM -/

/-- TST (R377): the swath entry's place is checked and taken at issue. It is an access of device memory where the word's page is,
or the entry's (R91). -/
def tst (r : R2) (s : State) : State :=
  s.issueAccess { traps := policy r.pa [.g r.a], waits := [.g r.a, .g r.d] } fun s =>
    let ea := s.me.gr r.a
    let x := s.me.gr r.d
    s.atTarget ea 8 .rw fun h device s => s.perform do
      let c := s.cur
      let logs := s.me.ctop ≠ 0
      let entry ← if logs then some <$> swathRoom c else pure none
      let p := (← get).mkPacket c (.tst x (entry.map (·.1))) [⟨h, 0, 0⟩] ea true true (device || entry.any (·.2))
      if (← get).uscFull p then Run.wait
      else do
        if logs then pushSwath c
        modify fun s => (s.send p).modCore c fun k => k.advance 4

def execTst (r : R2) (s : State) : Out := .next (tst r s)

/-- Whether the task that core `c` runs was stolen and its prune word has changed since (R381). -/
def pruned (c : Nat) : Run Bool := do
  if ((← get).arena c).2 = 0 then return false
  else do
    let stolen := wbit (← readArena c 40) 0
    let addr := BitVec.ofNat 64 (fld (← readArena c 24) 0 56)
    if !stolen ∨ addr = 0 then return false
    else do
      let v ← atomVa c 0x19 addr 0
      return v != (← readArena c 32)

/-- CLAIM's release (R381): its store goes to its home as an AST. -/
def State.publishClaim (s : State) (d : Reg) (ea : Word) (h : Nat) (device : Bool) : State :=
  let p := s.mkPacket s.cur (.atom 0x1B (s.me.gr d) 0 true d (h % 8)) [⟨h, 0, 0⟩] ea false true device
  (s.send p).modMe fun k => { k with midway := none }.advance 4

/-- CLAIM (R381). -/
def claim (r : R2) (s : State) : State :=
  s.goesOn (aloneOp { traps := policy r.pa [.g r.a], waits := [.g r.a, .g r.d] } fun s =>
    let ea := s.me.gr r.a
    s.atTarget ea 8 .write fun h device s =>
      match pruned s.cur s with
      | .error e t => s.stopped none t e
      | .ok true t => t.fail
      | .ok false t => t.publishClaim r.d ea h device)

def execClaim (r : R2) (s : State) : Out := .next (claim r s)

end Sys2Proof.Machine
end

