-- ==== Sys2Proof/Machine/Glean.lean ====
section
/-! DEFINITION. Gleaning: RANGE (R358, R359), GLEAN and its search (R361, R362), and the takes of ranges (R360), sparks (R270) and
alternatives (R382, R383), with the end of a search that finds nothing (R363). -/
namespace Sys2Proof.Machine

/-! ## RANGE -/

/-- RANGE (R359); its push is a release. -/
def rangeInit (r : R3) (s : State) : State :=
  let ra := [RegRef.g r.a, .g (regUp r.a 1)]
  s.issue { traps := policy r.pa ra ++ policy r.pb [.g r.b], waits := ra ++ [.g r.b, .g r.d] } fun s =>
    let k := s.me
    let w := k.gr r.a
    let entry := k.gr r.b
    let lo := fld w 0 32
    let hi := fld w 32 32
    let grain := fld (k.gr (regUp r.a 1)) 0 16
    if entry.toNat % 4 ≠ 0 ∨ fld entry 56 8 ≠ 0 then s.trap .misaligned entry
    else if hi ≤ lo then s.retireG r.d 2
    else if 8 ≤ k.deque.length then s.retireG r.d 0
    else if !s.orderedBefore .rel .package then s.wait
    else
      let e : RangeEntry := { lo := lo, hi := hi, grain := if grain = 0 then 1 else grain, entry := entry }
      ((s.modMe fun k => { k with deque := e :: k.deque }).retireG r.d 1).publish s.cur

def execRangeInit (r : R3) (s : State) : Out := .next (rangeInit r s)

/-! ## The search (R362) -/

/-- One step of the glean LFSR. -/
def lfsrStep (r : BitVec 16) : BitVec 16 :=
  let b := r.getLsbD 0 ^^ r.getLsbD 2 ^^ r.getLsbD 3 ^^ r.getLsbD 5
  (r >>> 1) ||| (if b then 0x8000 else 0)

/-- Torus hops (R103). -/
def hops (a b : Nat) : Nat :=
  let d := fun x y : Nat => let n := if x < y then y - x else x - y; min n (12 - n)
  d (xOf a) (xOf b) + d (yOf a) (yOf b)

/-- The kinds in the order of GORDER. -/
def kindOrder (g : Nat) : List WorkKind :=
  match g with
  | 0 => [.range, .spark, .alternative]
  | 1 => [.range, .alternative, .spark]
  | 2 => [.spark, .range, .alternative]
  | 3 => [.spark, .alternative, .range]
  | 4 => [.alternative, .range, .spark]
  | _ => [.alternative, .spark, .range]

/-- The place of a pair in the order of the key (c, h, k, t): a number that orders as the key does. -/
def pairKey (c v rank : Nat) (r : BitVec 16) : Nat :=
  let far := if frondOf v = frondOf c then 0 else 1
  let h := if v = c then 0 else hops c v
  ((far * 64 + h) * 4 + rank) * 2048 + (v ^^^ (r.toNat % 2048))

/-- Insertion by key. -/
def insertKey {α : Type} (k : Nat) (x : α) : List (Nat × α) → List (Nat × α)
  | [] => [(k, x)]
  | (j, y) :: r => if k < j then (k, x) :: (j, y) :: r else (j, y) :: insertKey k x r

/-- The pairs that core `c` considers, in order. -/
def Launch.pairs (l : Launch) (c : Nat) (r : BitVec 16) : List (Nat × WorkKind) :=
  let all := l.cores.flatMap fun v => (kindOrder l.gorder).zipIdx.map fun (k, i) => (pairKey c v i r, (v, k))
  (all.foldl (fun acc e => insertKey e.1 e.2 acc) []).map (·.2)

/-- A word of core `v`'s arena as a search reads it, none where the read fails, and the words that are read for it. -/
def State.peekArena (s : State) (v off : Nat) : Option Word × List Nat :=
  match s.translateNow v (s.arenaVa v off) .read with
  | (.ok pa _, as) => (s.readHome pa, as ++ [pa])
  | (_, as) => (none, as)

/-- The oldest record of core `v` from an offset downward with an untried alternative, and the words that are read for it. -/
def State.oldestAlt (s : State) (v : Nat) : Nat → Nat → Option Nat → List Nat → Option Nat × List Nat
  | 0, _, _, as => (none, as)
  | fuel + 1, off, best, as =>
    if off = 0 then (best, as)
    else match s.peekArena v off, s.peekArena v (off + 16) with
      | (some w0, a), (some w2, b) =>
        s.oldestAlt v fuel (fld w0 0 33) (if fld w2 16 16 < fld w2 0 16 then some off else best) (as ++ a ++ b)
      | (_, a), (_, b) => (none, as ++ a ++ b)

def State.alternatives (s : State) (v : Nat) : Option Nat × List Nat := s.oldestAlt v (2 ^ 24) (s.core v).ctop none []

def State.stealable (s : State) (v : Nat) : Option Nat := (s.alternatives v).1

/-- Core `c` looks for alternatives at core `v` (R362, R382). A core that has ended has discarded its own (R318). -/
def State.looksAt (s : State) (c v : Nat) : Bool :=
  v != c && (s.arena c).2 != 0 && (s.core c).ctop == 0 && (s.core v).run != .idle && (s.core v).run != .ended

/-- Whether a pair has work for core `c` (R362). -/
def State.hasWork (s : State) (c : Nat) (x : Nat × WorkKind) : Bool :=
  let k := s.core x.1
  k.run != .parked &&
    match x.2 with
    | .range => !k.deque.isEmpty
    | .spark => !k.sparks.isEmpty && !(s.core c).chained
    | .alternative => s.looksAt c x.1 && (s.stealable x.1).isSome

/-- The reads of a search noted (R89): those of the alternatives that it looks at, up to the first pair with work. -/
def State.noteSearch (s : State) (c : Nat) (ps : List (Nat × WorkKind)) : State :=
  if s.nothingToNote then s
  else
    let seen := ps.takeWhile (fun p => !s.hasWork c p) ++ (ps.find? (s.hasWork c)).toList
    s.noteReads <| seen.flatMap fun p =>
      if p.2 = .alternative ∧ (s.core p.1).run ≠ .parked ∧ s.looksAt c p.1 then (s.alternatives p.1).2 else []

/-- GLEAN's pair filled; the instruction is done (R361). -/
def Core.fillPair (k : Core) (d : Reg) (x y : Word) : Core :=
  { (k.fillG d 6 x).fillG (regUp d 1) 6 y with glean := none }.advance 4

/-- A spark taken: the oldest entry of a victim's queue, evaluated as a chain of the taker (R270). A name that the launch
no longer reaches is dropped. -/
def State.takeSpark (s : State) (c v : Nat) (w : GleanWait) : State :=
  match (s.core v).sparks with
  | [] => s
  | n :: rest =>
    let s := s.modCore v fun k => { k with sparks := rest }
    let t := nameOwner c n
    let root := Root.spark w.d n
    if s.reaches c t then
      s.modCore c fun k =>
        { k with
          glean := some { w with target := none, idle := false, news := false }
          force := { ForceUnit.idle with root := some root, goal := .ask t (nameSlot n) n (some root), since := s.nextId } }
    else s.modCore c fun k => k.fillSpark w.d 0 n

/-- A search of core `c`'s GLEAN over pairs in order: a spark is taken at once; another kind is the target of a take; with
nothing found it waits (R363). -/
def State.searchOver (s : State) (c : Nat) (w : GleanWait) (ps : List (Nat × WorkKind)) : State :=
  let s := s.noteSearch c ps
  match ps.find? (s.hasWork c) with
  | none => s.modCore c fun k => { k with glean := some { w with target := none, idle := true, news := false } }
  | some (v, .spark) => s.takeSpark c v w
  | some p => s.modCore c fun k => { k with glean := some { w with target := some p, idle := false, news := false } }

def State.pairsOf (s : State) (c : Nat) : List (Nat × WorkKind) :=
  match s.launchOf c with
  | none => []
  | some l => l.pairs c (s.core c).lfsr

/-- GLEAN (R361): it holds its core until its pair is filled. -/
def glean (d : Reg) (s : State) : State :=
  if s.me.glean.isSome ∧ !s.me.inFrame then s.wait
  else s.issue (gUses [d, regUp d 1]) fun s => if s.me.inFrame then s.trap .loftFault (reasonVal 0x1C 0) else
    let k := s.me
    let w : GleanWait :=
      { d := d, old0 := k.gr d, old1 := k.gr (regUp d 1), lfsr0 := k.lfsr, pc := k.pc, target := none, idle := false, news := false }
    let s := s.modMe fun k => { (k.armG d).armG (regUp d 1) with lfsr := lfsrStep k.lfsr, stall := false }
    s.searchOver s.cur w (s.pairsOf s.cur)

def execGlean (d : Reg) (s : State) : Out := .next (glean d s)

/-- GLEAN_RESEARCH (R363). -/
def State.gleanResearch (s : State) (c : Nat) : State :=
  match (s.core c).glean with
  | some w => if w.idle && w.news && (s.core c).run == .running then s.searchOver c w (s.pairsOf c) else s
  | none => s

def execGleanResearch (c : CoreNo) (s : State) : Out := .next (s.gleanResearch c.val)

/-- GLEAN_EMPTY (R363): every context of the launch has ended or waits in a GLEAN, and no work remains: none that one of the
waiting GLEANs could take (DESIGN CHOICE, log entry 88). -/
def State.gleanEmpty (s : State) (key : Nat) : State :=
  match s.launch? key with
  | none => s
  | some l =>
    let waits := l.cores.filter fun c => (s.core c).run == .running && match (s.core c).glean with
      | some w => w.idle && !w.news
      | none => false
    let rest := l.cores.filter fun c => !waits.contains c
    let finished := rest.all (fun c => (s.core c).run == .ended) && waits.all fun c => (s.pairsOf c).all fun p => !s.hasWork c p
    if waits.isEmpty || !finished then s
    else waits.foldl (fun s c => s.modCore c fun k =>
      match k.glean with | some w => k.fillPair w.d 0 0 | none => k) s

def execGleanEmpty (l : Nat) (s : State) : Out := .next (s.gleanEmpty l)

/-! ## Ranges (R360) -/

/-- An owner's take from its bottom entry: the piece, and the deque after. -/
def ownTake : List RangeEntry → Option (RangeEntry × List RangeEntry)
  | [] => none
  | e :: r =>
    let n := min (e.lo + e.grain) e.hi
    some ({ e with hi := n }, if e.lo + e.grain < e.hi then { e with lo := e.lo + e.grain } :: r else r)

/-- A thief's take from the top entry: what it pushes on its own deque, and the victim's deque after. -/
def thiefTake (q : List RangeEntry) : Option (RangeEntry × List RangeEntry) :=
  match q.getLast? with
  | none => none
  | some e =>
    if e.hi - e.lo ≤ 1 then some (e, q.dropLast)
    else
      let m := e.lo + (e.hi - e.lo) / 2
      some ({ e with lo := m }, q.dropLast ++ [{ e with hi := m }])

/-- The owner's take of core `c`, which fills its pair. -/
def State.takeOwn (s : State) (c : Nat) (d : Reg) : State :=
  match ownTake (s.core c).deque with
  | none => s
  | some (e, q) => s.modCore c fun k =>
    { k with deque := q }.fillPair d (0x4000000000000000 ||| e.entry) (BitVec.ofNat 64 (e.hi * 2 ^ 32 + e.lo))

/-- RANGE_TAKE (R360): a thief takes the upper half of the victim's top entry, then makes an owner's take of it. -/
def State.rangeTake (s : State) (c : Nat) : State :=
  match (s.core c).glean with
  | some w =>
    match w.target with
    | some (v, .range) =>
      if !s.hasWork c (v, .range) then s.searchOver c w (s.pairsOf c)
      else if v = c then s.takeOwn c w.d
      else match thiefTake (s.core v).deque with
        | none => s
        | some (e, q) =>
          ((s.modCore v fun k => { k with deque := q }).modCore c fun k => { k with deque := e :: k.deque }).takeOwn c w.d
    | _ => s
  | none => s

def execRangeTake (c : CoreNo) (s : State) : Out := .next (s.rangeTake c.val)

/-! ## Alternatives (R382, R383) -/

/-- An address of core `v` translated on the scalar path of thief `c` (R95): a window is the victim's (R382). -/
def State.translateFor (s : State) (c v : Nat) (va : Word) (a : Access) : Tr × State :=
  if !addrForm va then (.trap .accessViolation, s)
  else if isWindow va then
    match windowHome s v va with
    | some h => (.ok h false, s)
    | none => (.trap .accessViolation, s)
  else s.translateReq c reqScalar va a

/-- Where a word at a victim lies. -/
def takePlace (c v : Nat) (va : Word) (a : Access) : Run Nat := do
  let (t, s) := (← get).translateFor c v va a
  set s
  match t with
  | .ok pa _ => return pa
  | .trap x => Run.trap x va
  | .wait => Run.wait

/-- An error response to a read of a take: logged (R98); the take is abandoned (R382). -/
def takeError {α : Type} (c : Nat) (va : Word) : Run α := do
  modify fun s => s.logError c va (s.core c).pc
  throw .bad

/-- A word at a victim's virtual address, read for thief `c`. -/
def takeWord (c v : Nat) (va : Word) : Run Word := do
  let pa ← takePlace c v va .read
  if ← whenFree c pa false then throw .bad
  match (← get).readHome pa with
  | some w => do modify fun s => s.noteRead pa; return w
  | none => takeError c va

def takeArena (c v off : Nat) : Run Word := do takeWord c v ((← get).arenaVa v off)

/-- Words of core `v`'s arena from an offset. -/
def takeWords (c v off : Nat) : Nat → Run (List Word)
  | 0 => return []
  | n + 1 => do
    let w ← takeArena c v off
    let ws ← takeWords c v (off + 8) n
    return w :: ws

/-- What a take reads (R382, step 4): the data area, the swath entries newest first, the record and where its word 2 lies,
the taken entry of its table, and the prune word with its address in absolute form. -/
structure Stolen where
  record : Nat
  home   : Nat
  dsize  : Nat
  data   : List Word
  swath  : List (Word × Word)
  w2     : Word
  vmask  : Word
  gs     : List Word
  vs     : List Word
  entry  : Word
  prune  : Word
  value  : Word

/-- A prune address in absolute form (R383). -/
def pruneAbs (v : Nat) (a : Word) : Word :=
  if fld a 48 8 = 0xFD then match windowCore v a with | some t => windowVa t (windowOff a) | none => a else a

def pairUp : List Word → List (Word × Word)
  | a :: b :: r => (a, b) :: pairUp r
  | _ => []

/-- The value of the prune word, read as an ALD (R245). -/
def takePrune (c v : Nat) (a : Word) : Run Word := do
  if a = 0 then return 0
  else if a.toNat % 8 ≠ 0 then Run.trap .misaligned a
  else do
    let pa ← takePlace c v a .rw
    if ← whenFree c pa true then throw .bad
    match (← get).atomAt pa 0x19 0 0 with
    | some (old, _, s) => do set s; return old
    | none => takeError c a

/-- Where the word of core `v`'s record that a take changes lies. -/
def recordHome (c v record : Nat) : Run Nat := do takePlace c v ((← get).arenaVa v (record + 16)) .write

/-- The oldest untried alternative of core `v`, read (R382, step 4). -/
def takeStolen (c v : Nat) : Run Stolen := do
  match (← get).stealable v with
  | none => throw .bad
  | some record =>
    let n := dsizeOf (← takeArena c v 0)
    let data ← takeWords c v 64 (n / 8)
    let head ← takeWords c v record 8
    let mark := fld (wordAt head 3) 0 33
    let sp := ((← get).core v).sp
    let swath ← takeWords c v sp ((mark - sp) / 16 * 2)
    let vmask := wordAt head 4
    let gs ← takeWords c v (record + 64) 63
    let vs ← takeWords c v (record + 576) (16 * popCount vmask)
    let w2 := wordAt head 2
    let entry ← takeWord c v (BitVec.ofNat 64 (fld (wordAt head 1) 0 56 + 8 * fld w2 16 16))
    let prune := BitVec.ofNat 64 (fld (wordAt head 5) 0 56)
    let value ← takePrune c v prune
    let home ← recordHome c v record
    return { record := record, home := home, dsize := n, data := data, swath := pairUp swath, w2 := w2, vmask := vmask,
             gs := gs, vs := vs, entry := entry, prune := pruneAbs v prune, value := value }

/-- The data area after the OLD values of the swath entries that lie in it are applied, newest first (R383). -/
def Stolen.area (x : Stolen) (base : Word) : List Word :=
  x.swath.foldl (fun ws (e, old) =>
    let off := (BitVec.ofNat 64 (fld e 0 56) - base).toNat
    if fld e 60 4 = 1 ∧ 64 ≤ off ∧ off < 64 + x.dsize then ws.set ((off - 64) / 8) old else ws) x.data

/-- The offsets of the words of its own arena that a thief writes: the data area, and the header (R383). -/
def stolenOffsets (n : Nat) : List Nat := (List.range n).map (fun i => 64 + 8 * i) ++ [0, 24, 32, 40]

/-- The words of core `c`'s own arena at some offsets translated for a write, on its scalar path (R382, step 1). -/
def arenaHomes (c : Nat) : List Nat → Run (List Nat)
  | [] => return []
  | off :: r => do
    let h ← wordTarget c ((← get).arenaVa c off) .write
    let hs ← arenaHomes c r
    return h :: hs

/-- Words written one after another where they have been found to lie. -/
def writeArenaAt (c : Nat) : List Nat → List Nat → List Word → Run Unit
  | off :: offs, h :: hs, w :: ws => do
    writeAt c h ((← get).arenaVa c off) w
    writeArenaAt c offs hs ws
  | _, _, _ => return ()

/-- What a thief writes at `stolenOffsets` (R383). -/
def Stolen.words (x : Stolen) (base : Word) : List Word := x.area base ++ [BitVec.ofNat 64 x.dsize, x.prune, x.value, 1]

/-- Step 5 of R382 and the set-up of R383; `hs` says where the thief's words lie. -/
def setUpStolen (c v : Nat) (d : Reg) (hs : List Nat) (x : Stolen) : Run Unit := do
  let s ← get
  writeAt c x.home (s.arenaVa v (x.record + 16)) ((x.w2 + 0x10000) ||| onesAt 32 1)
  writeArenaAt c (stolenOffsets (x.dsize / 8)) hs (x.words (s.arena v).1)
  let (base, size) := s.arena c
  modifyCore c fun k =>
    let k := (k.restoreG x.gs fun r => r = d || r = regUp d 1).restoreV (maskRegs x.vmask) x.vs
    { k with ctop := 0, sp := size }.fillPair d (0xC000000000000000 ||| x.entry) base

/-- R382: the victim, and its gang with it, is held at an instruction boundary; it has made the waits of FENCE .rel, and no
TST reply of it is outstanding. -/
def State.victimQuiet (s : State) (v : Nat) : Bool :=
  !(s.core v).blocked && (s.gangOf v).all (fun m => (s.core m).midway.isNone) &&
  s.loadsDone v && s.writesDone v && (s.mine v).all fun p => !(p.op.isStat || p.op.isTst)

/-- R382: no register of the thief but the pair is armed. -/
def Core.onlyPairArmed (k : Core) (d : Reg) : Bool :=
  (List.finRange 64).all (fun r => k.gIsFull r || r = d || r = regUp d 1) && k.vfull == BitVec.allOnes 64

/-- What follows a pair in the order of the search. -/
def pairsAfter (p : Nat × WorkKind) (ps : List (Nat × WorkKind)) : List (Nat × WorkKind) := (ps.dropWhile (· ≠ p)).drop 1

/-- A take of core `v`'s oldest alternative once the thief's own words have been found: one that waits is made anew; a failing
read abandons it, and the search goes on. -/
def State.takeAlternative (s : State) (c v : Nat) (w : GleanWait) (hs : List Nat) : State :=
  match takeStolen c v s with
  | .error .wait t => s.undoneAt c t
  | .error _ t => t.searchOver c w (pairsAfter (v, .alternative) (s.pairsOf c))
  | .ok x t =>
    match setUpStolen c v w.d hs x t with
    | .ok _ t => t
    | .error _ t => s.undoneAt c t

/-- A GLEAN that traps has done nothing: its registers and the glean LFSR are as before it (R12). -/
def Core.undoGlean (k : Core) : Core :=
  match k.glean with
  | some w => { k.withdrawGlean with lfsr := w.lfsr0 }
  | none => k

/-- ALTERNATIVE_THEFT (R382, R383). What the thief writes comes after its own earlier accesses (R95, R298). -/
def State.alternativeTheft (s : State) (c : Nat) : State :=
  let k := s.core c
  match k.glean with
  | some w =>
    match w.target with
    | some (v, .alternative) =>
      if k.run ≠ .running then s
      else if !s.hasWork c (v, .alternative) then s.searchOver c w (s.pairsOf c)
      else if !k.onlyPairArmed w.d || s.accessOut c then s
      else
        let n := (s.peekArena v 0).1.elim 0 fun w0 => dsizeOf w0 / 8
        match arenaHomes c (stolenOffsets n) s with
        | .error (.trap (x, va)) t => ((s.undoneAt c t).modCore c Core.undoGlean).trapOf c x va
        | .error _ t => s.undoneAt c t
        | .ok hs t => if t.victimQuiet v then t.takeAlternative c v w hs else t
    | _ => s
  | none => s

def execAlternativeTheft (c : CoreNo) (s : State) : Out := .next (s.alternativeTheft c.val)

end Sys2Proof.Machine
end

