-- ==== Sys2Proof/Machine/Sync.lean ====
section
/-! DEFINITION. Barriers and phasers: BARR and BWAIT (R334), PHREG, PHSIG and PHWAIT (R335, R336), and the requests that a
group's channels process (R331, R337, R339). -/
namespace Sys2Proof

/-! ## Roles (R335) -/

def Role.signals : Role → Bool
  | .sig | .both => true
  | _ => false

def Role.waits : Role → Bool
  | .wait | .both => true
  | _ => false

end Sys2Proof

namespace Sys2Proof.Machine

/-! ## Groups -/

/-- `tval` of BARRIER_MISUSE (R333). -/
def misuseVal (reason : Nat) (g : GroupNo) : Word := BitVec.ofNat 64 (reason * 2 ^ 8 + g.val)

def Launch.group (l : Launch) (g : GroupNo) : Group := mapGet (Group.start []) l.groups g.val

def State.setGroup (s : State) (key : Nat) (g : GroupNo) (x : Group) : State :=
  s.modLaunch key fun l => { l with groups := mapSet l.groups g.val x }

/-- R329: a group whose members lie on several fronds. -/
def Launch.crosses (l : Launch) (x : Group) : Bool :=
  let fs := x.members.map fun m => frondOf (l.coreOf m)
  fs.any fun f => f != fs.headD 0

/-- A count that has reached another (R334: by the sign of the difference). -/
def reached (p n : Word32) : Bool := 0 ≤ (p - n).toInt


def Group.roleOf (x : Group) (ctx : Nat) : Role := mapGet .withdraw x.roles ctx
def Group.sOf (x : Group) (ctx : Nat) : Word32 := mapGet 0 x.s ctx
def Group.wOf (x : Group) (ctx : Nat) : Word32 := mapGet 0 x.w ctx

/-- A context has requests that have not reached the channel. -/
def Group.sending (x : Group) (ctx : Nat) : Bool := x.queue.any fun q => q.ctx == ctx

def Group.push (x : Group) (ctx : Nat) (op : ChanOp) : Group := { x with queue := x.queue ++ [{ ctx := ctx, op := op }] }

/-! ## The channel (R334 to R337, R339) -/

/-- PHASE_COMPLETE (R334, R336): the open phase completes where its condition holds. -/
def Group.complete (x : Group) : Group :=
  match x.mode with
  | .unset => x
  | .barrier =>
    let left := x.members.filter fun m => !x.gone.contains m
    if !left.isEmpty && left.all fun m => reached (mapGet 0 x.arrived m) (x.phase + 1) then { x with phase := x.phase + 1 } else x
  | .phaser =>
    if x.signalled && x.members.all fun m => !((x.roleOf m).signals && x.sOf m == x.phase) then
      { x with phase := x.phase + 1, signalled := false }
    else x

/-- PHREG at the channel: the table of R335. -/
def Group.register (x : Group) (ctx : Nat) (r : Role) : Group :=
  let old := x.roleOf ctx
  { x with
    roles := mapSet x.roles ctx r
    s := if r.signals then (if old.signals then x.s else mapSet x.s ctx x.phase) else mapErase x.s ctx
    w := if r.waits then (if old.waits then x.w else mapSet x.w ctx x.phase) else mapErase x.w ctx }

/-- A request processed; an answer to a question about the mode is kept by the channel of the asker's frond (R331). -/
def Group.process (x : Group) (frond : Nat) (q : ChanReq) : Group :=
  match q.op with
  | .ask b =>
    { x with
      mode := if x.mode = .unset then (if b then .barrier else .phaser) else x.mode
      known := if x.known.contains frond then x.known else x.known ++ [frond] }
  | .arrive => Group.complete { x with arrived := mapSet x.arrived q.ctx (mapGet 0 x.arrived q.ctx + 1) }
  | .signal => Group.complete { x with s := mapSet x.s q.ctx (x.sOf q.ctx + 1), signalled := true }
  | .register r => (x.register q.ctx r).complete
  | .ended => Group.complete { x.register q.ctx .withdraw with gone := x.gone ++ [q.ctx] }

/-- CHANNEL_REQUEST (R337): the first request of a group of launch `key`. DESIGN CHOICE (log entry 75): requests of
different cores reach a group's channel in the order in which they were issued. -/
def State.channelRequest (s : State) (key : Nat) (g : GroupNo) : State :=
  match s.launch? key with
  | none => s
  | some l =>
    let x := l.group g
    match x.queue with
    | [] => s
    | q :: rest =>
      let c := l.coreOf q.ctx
      let s := s.setGroup key g ({ x with queue := rest }.process (frondOf c) q)
      match q.op with
      | .ask _ =>
        if (s.core c).launch = some key then
          s.modCore c fun k =>
            { k with groups := k.groups.map fun m => if m.1 = g.val then (m.1, { m.2 with asked := false }) else m }
        else s
      | _ => s

def execChannelRequest (l : Nat) (g : GroupNo) (s : State) : Out := .next (s.channelRequest l g)

/-! ## The instructions (R332, R333) -/

/-- The issuing core's counts and role for a group replaced. -/
def Core.setMember (k : Core) (g : GroupNo) (m : Member) : Core :=
  { k with groups := k.groups.map fun e => if e.1 = g.val then (e.1, m) else e }

/-- The checks of R333 up to the mode, and the question of R331; `body` receives the launch, the group with its mode set
(R330), and the member. -/
def syncOp (g : GroupNo) (barrier : Bool) (body : Launch → Group → Member → State → State) (s : State) : State :=
  match s.launchOf s.cur, s.me.groups.find? fun e => e.1 = g.val with
  | some l, some (_, m) =>
    let x := l.group g
    let ctx := s.me.ctx
    if l.crosses x && !x.known.contains (frondOf s.cur) then
      if m.asked then s.wait
      else ((s.setGroup l.key g (x.push ctx (.ask barrier))).modMe fun k => k.setMember g { m with asked := true }).wait
    else
      let mine : GroupMode := if barrier then .barrier else .phaser
      if x.mode ≠ .unset ∧ x.mode ≠ mine then s.trap .barrierMisuse (misuseVal 0x02 g)
      else
        let x := { x with mode := mine }
        body l x m (s.setGroup l.key g x)
  | _, _ => s.trap .barrierMisuse (misuseVal 0x01 g)

/-- The waits of FENCE .rel (R296). -/
def State.released (s : State) : Bool :=
  s.orderedBefore .rel .group && !(s.mine s.cur).any fun p => p.op.isStat

/-- The holds of FENCE .acq (R296). -/
def State.acquire (s : State) : State :=
  let ids := s.fenceHolds s.cur
  s.modMe fun k => { k with holdFence := k.holdFence ++ ids }

/-- BARR (R334). -/
def barr (g : GroupNo) (s : State) : State :=
  syncOp g true (fun l x m s =>
    if m.a ≠ m.w then s.trap .barrierMisuse (misuseVal 0x04 g)
    else if !s.released then s.wait
    else (s.setGroup l.key g (x.push s.me.ctx .arrive)).modMe fun k => (k.setMember g { m with a := m.a + 1 }).advance 4) s

/-- BWAIT (R334). -/
def bwait (g : GroupNo) (s : State) : State :=
  syncOp g true (fun _ x m s =>
    if m.w = m.a then s.trap .barrierMisuse (misuseVal 0x03 g)
    else if x.sending s.me.ctx || !reached x.phase (m.w + 1) then s.wait
    else s.acquire.modMe fun k => (k.setMember g { m with w := m.w + 1 }).advance 4) s

/-- PHREG (R335). -/
def phreg (r : Role) (g : GroupNo) (s : State) : State :=
  syncOp g false (fun l x m s =>
    if !s.released then s.wait
    else (s.setGroup l.key g (x.push s.me.ctx (.register r))).modMe fun k => (k.setMember g { m with role := r }).advance 4) s

/-- PHSIG (R336). -/
def phsig (g : GroupNo) (s : State) : State :=
  syncOp g false (fun l x m s =>
    if !m.role.signals then s.trap .barrierMisuse (misuseVal 0x05 g)
    else if !s.released || x.sending s.me.ctx || x.sOf s.me.ctx != x.phase then s.wait
    else (s.setGroup l.key g (x.push s.me.ctx .signal)).advance 4) s

/-- PHWAIT (R336). -/
def phwait (g : GroupNo) (s : State) : State :=
  syncOp g false (fun l x m s =>
    let ctx := s.me.ctx
    if !m.role.waits then s.trap .barrierMisuse (misuseVal 0x06 g)
    else if x.sending ctx then s.wait
    else if m.role = .both ∧ x.sOf ctx = x.phase ∧ x.wOf ctx = x.phase then s.trap .barrierMisuse (misuseVal 0x07 g)
    else if !reached x.phase (x.wOf ctx + 1) then s.wait
    else
      (s.setGroup l.key g { x with w := mapSet x.w ctx (x.wOf ctx + 1) }).acquire.advance 4) s

def execBarr (g : GroupNo) (s : State) : Out := .next (barr g s)
def execBwait (g : GroupNo) (s : State) : Out := .next (bwait g s)
def execPhreg (r : Role) (g : GroupNo) (s : State) : Out := .next (phreg r g s)
def execPhsig (g : GroupNo) (s : State) : Out := .next (phsig g s)
def execPhwait (g : GroupNo) (s : State) : Out := .next (phwait g s)

end Sys2Proof.Machine
end

