-- ==== Sys2Proof/Machine/Boundary.lean ====
section
/-! DEFINITION. TAKE_BOUNDARY_TRAP: what an instruction boundary takes (R392), the halt (R407, R408) and the pre-emption (R398) of
a core or of its gang (R325). INBOUND_SVL_REQUEST: what a host or peer asks of the package (R415, R423). -/
namespace Sys2Proof.Machine

/-! ## Pending causes (R392) -/

/-- The first pending cause by rank; of one rank, the one that arose first. -/
def firstPending : List Pending → Option Pending
  | [] => none
  | p :: r =>
    match firstPending r with
    | some q => if q.rank < p.rank then some q else some p
    | none => some p

/-- The pending list without one entry. -/
def dropPending (p : Pending) : List Pending → List Pending
  | [] => []
  | q :: r => if q = p then r else q :: dropPending p r

/-- The launch of core `c` is ending (R397). -/
def State.launchEnding (s : State) (c : Nat) : Bool :=
  match s.launchOf c with
  | some l => l.state == .ending
  | none => false

/-- The contexts of core `c`'s launch drain: it is being pre-empted, or is ending (R392, R397, R398). -/
def State.launchDrains (s : State) (c : Nat) : Bool :=
  match s.launchOf c with
  | some l => l.state == .ending || l.state == .preempting
  | none => false

/-- A context whose pending causes are taken: it runs, and no CUT of it has increments left to send (R385); or it drains. -/
def State.takesPending (s : State) (c : Nat) : Bool :=
  match (s.core c).run with
  | .running => !(s.core c).cutting
  | .preempted | .halted | .stopped | .faulted => true
  | .parked => s.launchDrains c
  | .idle | .ended => false

/-- A cause taken at core `c`'s boundary. A translation fault of a copy parks a core that runs; one that drains keeps the
copy unstarted (R162). -/
def State.takeCause (s : State) (c : Nat) (p : Pending) : State :=
  let k := s.core c
  if p.cause = Cause.translationFault.code then
    if k.run = .running then s.takePark c p.tval (p.tpc.getD k.pc) else s
  else s.takeFatal c p.cause p.tval (p.tpc.getD k.pc)

/-- Causes written to the fault ring, but a copy's translation fault (R392, R394). -/
def State.postCauses (s : State) (c : Nat) (ps : List Pending) : State :=
  let k := s.core c
  (ps.filter fun q => q.cause ≠ Cause.translationFault.code).foldl (fun s q => s.post c q.cause q.tval (q.tpc.getD k.pc)) s

/-- The pending causes of core `c`: the first is taken, also while its launch ends (R324, R392, R397); each other fatal one is
still written to the ring, as is every one of a core that has taken a fatal cause. Those of work that a spark's frame issued
are absorbed (R270). -/
def State.takePending (s : State) (c : Nat) : State :=
  let k := s.core c
  let (mine, rest) := k.pending.partition fun q => k.absorbs q.born
  let s := s.modCore c fun k =>
    { k with pending := [], force := if mine.isEmpty then k.force else { k.force with absorbing := true } }
  if k.run = .faulted then s.postCauses c rest
  else match firstPending rest with
    | none => s
    | some p => (s.postCauses c (dropPending p rest)).takeCause c p

/-! ## Requests (R325, R398, R407, R408) -/

/-- A halted core that has drained writes the register part of its block and posts its record (R408). -/
def State.finishHalt (s : State) (c : Nat) : State :=
  let s := s.modCore c Core.withdrawWaits
  let s := s.saveRegisters c 6
  let k := s.core c
  (s.post c Cause.debugHalt.code k.tval k.tpc).modCore c fun k => { k with haltReq := false }

/-- A boundary at which core `c` may stop: its pending causes come first (R392); a spark's frame that is being abandoned comes to
its end (R270), and a CUT is completed (R385). -/
def State.mayStop (s : State) (c : Nat) : Bool :=
  let k := s.core c
  k.pending.isEmpty && !k.force.absorbing && !k.cutting

/-- The members of core `c`'s gang that run: after a halt some may have been resumed alone. -/
def State.runningGang (s : State) (c : Nat) : List Nat := (s.gangOf c).filter fun t => (s.core t).run == .running

/-- A halt, then a pre-emption; either takes a gang together (R325), whose members stand at one boundary of its stream but
for waits of an instruction that they have issued (log entry 56). -/
def State.takeRequest (s : State) (c : Nat) : State :=
  let gang := s.runningGang c
  if !gang.all s.mayStop then s
  else if gang.any fun t => (s.core t).haltReq then gang.foldl (fun s t => s.takeHalt t 2) s
  else if gang.any fun t => (s.core t).preemptReq then gang.foldl State.takePreempt s
  else s

/-- TAKE_BOUNDARY_TRAP (R392): a pending cause; the stop of a core that completed a FAIL or CUT while its launch began to end
(R385, R397); or the end of a halt's drain. -/
def State.takeBoundary (s : State) (c : Nat) : State :=
  let k := s.core c
  if !k.pending.isEmpty && s.takesPending c then s.takePending c
  else if k.run = .running && s.launchEnding c then s.stopCore c
  else if k.run = .halted && k.haltReq && s.drained c then s.finishHalt c
  else s

def execTakeBoundaryTrap (c : CoreNo) (s : State) : Out := .next (s.takeBoundary c.val)

/-! ## Inbound SVL requests (R415, R423) -/

/-- A range that an inbound request may name. -/
def inboundHome (s : State) (a : Nat) : Bool :=
  match s.homeKind a with
  | .hbm _ | .cxl _ | .control _ => true
  | _ => false

def isControl (s : State) (a : Nat) : Bool := match s.homeKind a with | .control _ => true | _ => false

/-- The length and alignment rules of R423 and R415. -/
def inboundOk (s : State) (a len : Nat) : Bool :=
  a % 8 == 0 && len % 8 == 0 && decide (8 ≤ len) && decide (len ≤ 256) && a / 4096 == (a + len - 1) / 4096 && inboundHome s a &&
    (!isControl s a || len == 8)

/-- Aligned words read one after another; none for an error response. -/
def State.inboundRead (s : State) (a : Nat) : Nat → Option (List Byte × State)
  | 0 => some ([], s)
  | n + 1 =>
    match s.readHome a with
    | none => none
    | some w => ((s.noteRead a).inboundRead (a + 8) n).map fun (bs, s) => (bytesOfWord w ++ bs, s)

/-- Aligned words written one after another; the words before an error stand. -/
def State.inboundWrite (s : State) (a : Nat) : List Byte → Nat → Bool × State
  | _, 0 => (true, s)
  | bs, n + 1 =>
    match s.writeHome a (BitVec.allOnes 64) ((wordOfBytes64 bs)) with
    | none => (false, s)
    | some s => s.inboundWrite (a + 8) (bs.drop 8) n
where
  wordOfBytes64 (bs : List Byte) : Word :=
    BitVec.ofNat 64 ((bs.take 8).foldr (fun b acc => b.toNat + 2 ^ 8 * acc) 0)

def State.reply (s : State) (port : Nat) (error : Bool) (data : List Byte) : State :=
  { s with hostOut := s.hostOut ++ [{ port := port, error := error, data := data }] }

/-- The words that an inbound request names. -/
def inboundWords (rq : SvlRequest) : List Nat :=
  let n := match rq.op with
    | .read len => len
    | .write data => data.length
    | .atom .. => 8
  (List.range ((n + 7) / 8)).map fun i => wordAddr (rq.addr + 8 * i)

/-- An atomic that may come in: of the region only an access to a whole word (R415). -/
def inboundAtomOk (s : State) (a code : Nat) : Bool :=
  decide (code ≤ 0x1B) && a % atomBytes code == 0 && inboundHome s a && (!isControl s a || atomBytes code == 8)

/-- INBOUND_SVL_REQUEST (R423): it is performed at its home, or receives an error completion. A request received ends the
port's run of retries (R422). One for a word that a copy's event holds comes after it (R289). -/
def State.inbound (s : State) (rq : SvlRequest) : State :=
  if rq.port ≥ 144 || !s.portReady rq.port || s.landsOn (inboundWords rq) then s
  else
    let s := s.linkGood rq.port
    let fail := s.reply rq.port true []
    match rq.op with
    | .read len =>
      if !inboundOk s rq.addr len then fail
      else match s.inboundRead rq.addr (len / 8) with
        | some (bs, s) => s.reply rq.port false bs
        | none => fail
    | .write data =>
      if !inboundOk s rq.addr data.length then fail
      else match s.inboundWrite rq.addr data (data.length / 8) with
        | (true, s) => s.reply rq.port false []
        | (false, s) => s.reply rq.port true []
    | .atom code x y =>
      if !inboundAtomOk s rq.addr code then fail
      else match s.atomAt rq.addr code x y with
        | some (old, _, s) => s.reply rq.port false (bytesOfWord (atomReply code old))
        | none => fail

def execInboundSvlRequest (rq : SvlRequest) (s : State) : Out := .next (s.inbound rq)

end Sys2Proof.Machine
end

