-- ==== Sys2Proof/Machine/Jets.lean ====
section
/-! DEFINITION. JSEED, JCONST, JEXT, JEXT.d and JINS (R217, R218). -/
namespace Sys2Proof.Machine

/-- JSEED, JCONST: a jet destination and one single source; `f` gives coefficient c ≥ 1. -/
def jetSeed (i : Instr) (f : Nat → Word32) (x : Option Pfx) (r : R2) (s : State) : State :=
  let order := s.me.order
  s.issueLegal i (jetAligned order r.d)
      { traps := policy r.pa [.v r.a], waits := .v r.a :: group order r.d } fun s => s.modMe fun k =>
    let mask := k.lanes x
    let va := k.vr r.a
    (k.writeCoeffs order r.d mask (pfxMz x)
      (fun i => (List.range (order + 1)).map fun c => (if c = 0 then va.at i else f c, 0))).advance (pfxBytes x)

def execJseed (x : Option Pfx) (r : R2) (s : State) : Out :=
  .next (jetSeed (.jseed x r) (fun c => if c = 1 then 0x3F800000 else 0) x r s)
def execJconst (x : Option Pfx) (r : R2) (s : State) : Out := .next (jetSeed (.jconst x r) (fun _ => 0) x r s)

/-- The uses of JEXT and JEXT.d: only coefficient c of the a group, and nothing where c > k (R206). -/
def jextUses (order : Nat) (d a : Reg) (c : Fin 8) (p : Bool) : Uses :=
  if c.val ≤ order then { traps := policy p [.v (regUp a c.val)], waits := [.v (regUp a c.val), .v d] }
  else { traps := [], waits := [.v d] }

/-- JEXT, JEXT.d: `f` acts on the lane's coefficient; +0 where c > k. -/
def jetExtract (i : Instr) (legal : Bool) (mode : RoundMode) (f : RoundMode → Nat → Word32 → Word32 × FlagBits)
    (x : Option Pfx) (d a : Reg) (c : Fin 8) (p : Bool) (s : State) : State :=
  let order := s.me.order
  s.issueLegal i (legal && jetAligned order a) (jextUses order d a c p) fun s => s.modMe fun k =>
    k.perform x mode 0 d [regUp a c.val] fun l => [if c.val ≤ order then f l.mode l.draw (l.src0 0) else (0, 0)]

def factorial : Nat → Nat
  | 0 => 1
  | n + 1 => (n + 1) * factorial n

def execJext (x : Option Pfx) (d a : Reg) (c : Fin 8) (p : Bool) (s : State) : Out :=
  .next (jetExtract (.jext x d a c p) true .rne (fun _ _ v => (v, 0)) x d a c p s)
def execJextD (x : Option Pfx) (d a : Reg) (c : Fin 8) (p : Bool) (s : State) : Out :=
  .next (jetExtract (.jextD x d a c p) (s.me.modeOf x).isSome ((s.me.modeOf x).getD .rne)
    (fun m r v => fmul32 m r (fpNat (factorial c.val)) v) x d a c p s)

/-- JINS (R218): with c > k it writes nothing and waits for no destination. DESIGN CHOICE (log entry 72): with c ≤ k it waits
for the register that it writes alone, and under mz = 1 it writes +0 to that one alone. -/
def jetInsert (i : Instr) (x : Option Pfx) (d a : Reg) (c : Fin 8) (p : Bool) (s : State) : State :=
  let order := s.me.order
  let r := regUp d c.val
  s.issueLegal i (jetAligned order d)
      { traps := policy p [.v a], waits := .v a :: if c.val ≤ order then [.v r] else [] } fun s => s.modMe fun k =>
    if c.val ≤ order then
      (k.setV r (maskedReg (k.lanes x) (pfxMz x) (fun i => (k.vr a).at i) (k.vr r))).advance (pfxBytes x)
    else k.advance (pfxBytes x)

def execJins (x : Option Pfx) (d a : Reg) (c : Fin 8) (p : Bool) (s : State) : Out :=
  .next (jetInsert (.jins x d a c p) x d a c p s)

end Sys2Proof.Machine
end

