-- ==== Sys2Proof/Machine/Dispatch.lean ====
section
/-! DEFINITION. One arm per constructor of `Instr`: the meaning each calls. Rows 0 to 210 of the opcode table act for
the core `State.cur`; the other rows are steps of the package. -/
namespace Sys2Proof.Machine

def exec (i : Instr) (s : State) : Host.Outcome State Fault Refusal :=
  match i with
  | .add r => Sys2Proof.Machine.execAdd r s
  | .sub r => Sys2Proof.Machine.execSub r s
  | .and r => Sys2Proof.Machine.execAnd r s
  | .or r => Sys2Proof.Machine.execOr r s
  | .xor r => Sys2Proof.Machine.execXor r s
  | .sll r => Sys2Proof.Machine.execSll r s
  | .srl r => Sys2Proof.Machine.execSrl r s
  | .sra r => Sys2Proof.Machine.execSra r s
  | .ror r => Sys2Proof.Machine.execRor r s
  | .mul r => Sys2Proof.Machine.execMul r s
  | .mulh r => Sys2Proof.Machine.execMulh r s
  | .mulhu r => Sys2Proof.Machine.execMulhu r s
  | .div r => Sys2Proof.Machine.execDiv r s
  | .divu r => Sys2Proof.Machine.execDivu r s
  | .rem r => Sys2Proof.Machine.execRem r s
  | .remu r => Sys2Proof.Machine.execRemu r s
  | .slt r => Sys2Proof.Machine.execSlt r s
  | .sltu r => Sys2Proof.Machine.execSltu r s
  | .seq r => Sys2Proof.Machine.execSeq r s
  | .min r => Sys2Proof.Machine.execMin r s
  | .max r => Sys2Proof.Machine.execMax r s
  | .minu r => Sys2Proof.Machine.execMinu r s
  | .maxu r => Sys2Proof.Machine.execMaxu r s
  | .clz r => Sys2Proof.Machine.execClz r s
  | .ctz r => Sys2Proof.Machine.execCtz r s
  | .popc r => Sys2Proof.Machine.execPopc r s
  | .addi d a imm => Sys2Proof.Machine.execAddi d a imm s
  | .andi d a imm => Sys2Proof.Machine.execAndi d a imm s
  | .ori d a imm => Sys2Proof.Machine.execOri d a imm s
  | .xori d a imm => Sys2Proof.Machine.execXori d a imm s
  | .slli d a n => Sys2Proof.Machine.execSlli d a n s
  | .srli d a n => Sys2Proof.Machine.execSrli d a n s
  | .srai d a n => Sys2Proof.Machine.execSrai d a n s
  | .rori d a n => Sys2Proof.Machine.execRori d a n s
  | .ldi d imm => Sys2Proof.Machine.execLdi d imm s
  | .ldih d imm => Sys2Proof.Machine.execLdih d imm s
  | .ldZ8 d a imm => Sys2Proof.Machine.execLdZ8 d a imm s
  | .ldZ16 d a imm => Sys2Proof.Machine.execLdZ16 d a imm s
  | .ldZ32 d a imm => Sys2Proof.Machine.execLdZ32 d a imm s
  | .ldZ64 d a imm => Sys2Proof.Machine.execLdZ64 d a imm s
  | .ldS8 d a imm => Sys2Proof.Machine.execLdS8 d a imm s
  | .ldS16 d a imm => Sys2Proof.Machine.execLdS16 d a imm s
  | .ldS32 d a imm => Sys2Proof.Machine.execLdS32 d a imm s
  | .stZ8 d a imm => Sys2Proof.Machine.execStZ8 d a imm s
  | .stZ16 d a imm => Sys2Proof.Machine.execStZ16 d a imm s
  | .stZ32 d a imm => Sys2Proof.Machine.execStZ32 d a imm s
  | .stZ64 d a imm => Sys2Proof.Machine.execStZ64 d a imm s
  | .ldb d a w p => Sys2Proof.Machine.execLdb d a w p s
  | .stb d a w p => Sys2Proof.Machine.execStb d a w p s
  | .beq a b s2 => Sys2Proof.Machine.execBeq a b s2 s
  | .bne a b s2 => Sys2Proof.Machine.execBne a b s2 s
  | .bra a s2 => Sys2Proof.Machine.execBra a s2 s
  | .jal d s2 => Sys2Proof.Machine.execJal d s2 s
  | .jalr r => Sys2Proof.Machine.execJalr r s
  | .jtab r => Sys2Proof.Machine.execJtab r s
  | .dcb a b s2 => Sys2Proof.Machine.execDcb a b s2 s
  | .csrr d c => Sys2Proof.Machine.execCsrr d c s
  | .csrw d a c => Sys2Proof.Machine.execCsrw d a c s
  | .csrs d a c => Sys2Proof.Machine.execCsrs d a c s
  | .csrc d a c => Sys2Proof.Machine.execCsrc d a c s
  | .nop => Sys2Proof.Machine.execNop s
  | .endLaunch => Sys2Proof.Machine.execEndLaunch s
  | .brk => Sys2Proof.Machine.execBrk s
  | .vadd x r => Sys2Proof.Machine.execVadd x r s
  | .vsub x r => Sys2Proof.Machine.execVsub x r s
  | .vmul x r => Sys2Proof.Machine.execVmul x r s
  | .vdiv x r => Sys2Proof.Machine.execVdiv x r s
  | .vfma x r => Sys2Proof.Machine.execVfma x r s
  | .vfms x r => Sys2Proof.Machine.execVfms x r s
  | .vfnma x r => Sys2Proof.Machine.execVfnma x r s
  | .vmin x r => Sys2Proof.Machine.execVmin x r s
  | .vmax x r => Sys2Proof.Machine.execVmax x r s
  | .vabs x r => Sys2Proof.Machine.execVabs x r s
  | .vneg x r => Sys2Proof.Machine.execVneg x r s
  | .vcpys x r => Sys2Proof.Machine.execVcpys x r s
  | .vexp2 x r => Sys2Proof.Machine.execVexp2 x r s
  | .vlog2 x r => Sys2Proof.Machine.execVlog2 x r s
  | .vsinpi x r => Sys2Proof.Machine.execVsinpi x r s
  | .vcospi x r => Sys2Proof.Machine.execVcospi x r s
  | .vrcp x r => Sys2Proof.Machine.execVrcp x r s
  | .vrsqrt x r => Sys2Proof.Machine.execVrsqrt x r s
  | .vsqrt x r => Sys2Proof.Machine.execVsqrt x r s
  | .vtanh x r => Sys2Proof.Machine.execVtanh x r s
  | .viadd x r => Sys2Proof.Machine.execViadd x r s
  | .visub x r => Sys2Proof.Machine.execVisub x r s
  | .vimul x r => Sys2Proof.Machine.execVimul x r s
  | .vimin x r => Sys2Proof.Machine.execVimin x r s
  | .vimax x r => Sys2Proof.Machine.execVimax x r s
  | .vand x r => Sys2Proof.Machine.execVand x r s
  | .vor x r => Sys2Proof.Machine.execVor x r s
  | .vxor x r => Sys2Proof.Machine.execVxor x r s
  | .vsll x r => Sys2Proof.Machine.execVsll x r s
  | .vsrl x r => Sys2Proof.Machine.execVsrl x r s
  | .vsra x r => Sys2Proof.Machine.execVsra x r s
  | .viadds x r => Sys2Proof.Machine.execViadds x r s
  | .vceq x r => Sys2Proof.Machine.execVceq x r s
  | .vclt x r => Sys2Proof.Machine.execVclt x r s
  | .vcle x r => Sys2Proof.Machine.execVcle x r s
  | .viceq x r => Sys2Proof.Machine.execViceq x r s
  | .viclt x r => Sys2Proof.Machine.execViclt x r s
  | .vicltu x r => Sys2Proof.Machine.execVicltu x r s
  | .vsel x r => Sys2Proof.Machine.execVsel x r s
  | .mand x d a b => Sys2Proof.Machine.execMand x d a b s
  | .mor x d a b => Sys2Proof.Machine.execMor x d a b s
  | .mxor x d a b => Sys2Proof.Machine.execMxor x d a b s
  | .mnot x d a => Sys2Proof.Machine.execMnot x d a s
  | .mtog x d a => Sys2Proof.Machine.execMtog x d a s
  | .gtom x d a p => Sys2Proof.Machine.execGtom x d a p s
  | .vcvtfi x r => Sys2Proof.Machine.execVcvtfi x r s
  | .vcvtfu x r => Sys2Proof.Machine.execVcvtfu x r s
  | .vcvtif x r => Sys2Proof.Machine.execVcvtif x r s
  | .vcvtuf x r => Sys2Proof.Machine.execVcvtuf x r s
  | .vcvth x r => Sys2Proof.Machine.execVcvth x r s
  | .vcvtb x r => Sys2Proof.Machine.execVcvtb x r s
  | .vcvte4 x r => Sys2Proof.Machine.execVcvte4 x r s
  | .vcvte5 x r => Sys2Proof.Machine.execVcvte5 x r s
  | .vwidh x r => Sys2Proof.Machine.execVwidh x r s
  | .vwidb x r => Sys2Proof.Machine.execVwidb x r s
  | .vwide4 x r => Sys2Proof.Machine.execVwide4 x r s
  | .vwide5 x r => Sys2Proof.Machine.execVwide5 x r s
  | .vperm x r => Sys2Proof.Machine.execVperm x r s
  | .vbcast x d a n p => Sys2Proof.Machine.execVbcast x d a n p s
  | .vslideup x d a n p => Sys2Proof.Machine.execVslideup x d a n p s
  | .vslidedn x d a n p => Sys2Proof.Machine.execVslidedn x d a n p s
  | .vzip x r => Sys2Proof.Machine.execVzip x r s
  | .vunzip x r => Sys2Proof.Machine.execVunzip x r s
  | .vrsum x r => Sys2Proof.Machine.execVrsum x r s
  | .vrmax x r => Sys2Proof.Machine.execVrmax x r s
  | .vrmin x r => Sys2Proof.Machine.execVrmin x r s
  | .virsum x r => Sys2Proof.Machine.execVirsum x r s
  | .vldtRow x r => Sys2Proof.Machine.execVldtRow x r s
  | .vldtCol x r => Sys2Proof.Machine.execVldtCol x r s
  | .vsttRow x r => Sys2Proof.Machine.execVsttRow x r s
  | .vsttCol x r => Sys2Proof.Machine.execVsttCol x r s
  | .jseed x r => Sys2Proof.Machine.execJseed x r s
  | .jconst x r => Sys2Proof.Machine.execJconst x r s
  | .jext x d a c p => Sys2Proof.Machine.execJext x d a c p s
  | .jextD x d a c p => Sys2Proof.Machine.execJextD x d a c p s
  | .jins x d a c p => Sys2Proof.Machine.execJins x d a c p s
  | .mcfg a p k => Sys2Proof.Machine.execMcfg a p k s
  | .mma r k => Sys2Proof.Machine.execMma r k s
  | .mswap k => Sys2Proof.Machine.execMswap k s
  | .mrowGet r k => Sys2Proof.Machine.execMrowGet r k s
  | .mrowPut r k => Sys2Proof.Machine.execMrowPut r k s
  | .mcolGet r k => Sys2Proof.Machine.execMcolGet r k s
  | .mcolPut r k => Sys2Proof.Machine.execMcolPut r k s
  | .mdrain r k => Sys2Proof.Machine.execMdrain r k s
  | .mzero k => Sys2Proof.Machine.execMzero k s
  | .cpy r k => Sys2Proof.Machine.execCpy r k s
  | .cpyMma r k => Sys2Proof.Machine.execCpyMma r k s
  | .cpym r k => Sys2Proof.Machine.execCpym r k s
  | .cpymMma r k => Sys2Proof.Machine.execCpymMma r k s
  | .qfence m => Sys2Proof.Machine.execQfence m s
  | .qwait d m => Sys2Proof.Machine.execQwait d m s
  | .talloc r => Sys2Proof.Machine.execTalloc r s
  | .tfree a p => Sys2Proof.Machine.execTfree a p s
  | .tstat r => Sys2Proof.Machine.execTstat r s
  | .tsusp r => Sys2Proof.Machine.execTsusp r s
  | .force a p => Sys2Proof.Machine.execForce a p s
  | .forceNb r => Sys2Proof.Machine.execForceNb r s
  | .spark a p => Sys2Proof.Machine.execSpark a p s
  | .tdone => Sys2Proof.Machine.execTdone s
  | .aaddZ32 t n => Sys2Proof.Machine.execAaddZ32 t n s
  | .aaddZ64 t n => Sys2Proof.Machine.execAaddZ64 t n s
  | .aminS32 t n => Sys2Proof.Machine.execAminS32 t n s
  | .aminS64 t n => Sys2Proof.Machine.execAminS64 t n s
  | .aminZ32 t n => Sys2Proof.Machine.execAminZ32 t n s
  | .aminZ64 t n => Sys2Proof.Machine.execAminZ64 t n s
  | .amaxS32 t n => Sys2Proof.Machine.execAmaxS32 t n s
  | .amaxS64 t n => Sys2Proof.Machine.execAmaxS64 t n s
  | .amaxZ32 t n => Sys2Proof.Machine.execAmaxZ32 t n s
  | .amaxZ64 t n => Sys2Proof.Machine.execAmaxZ64 t n s
  | .aandZ32 t n => Sys2Proof.Machine.execAandZ32 t n s
  | .aandZ64 t n => Sys2Proof.Machine.execAandZ64 t n s
  | .aorZ32 t n => Sys2Proof.Machine.execAorZ32 t n s
  | .aorZ64 t n => Sys2Proof.Machine.execAorZ64 t n s
  | .axorZ32 t n => Sys2Proof.Machine.execAxorZ32 t n s
  | .axorZ64 t n => Sys2Proof.Machine.execAxorZ64 t n s
  | .aswapZ32 t n => Sys2Proof.Machine.execAswapZ32 t n s
  | .aswapZ64 t n => Sys2Proof.Machine.execAswapZ64 t n s
  | .acasZ32 t => Sys2Proof.Machine.execAcasZ32 t s
  | .acasZ64 t => Sys2Proof.Machine.execAcasZ64 t s
  | .afaddF32 t n => Sys2Proof.Machine.execAfaddF32 t n s
  | .afaddBf16x2 t n => Sys2Proof.Machine.execAfaddBf16x2 t n s
  | .asnapZ32 t => Sys2Proof.Machine.execAsnapZ32 t s
  | .asnapZ64 t => Sys2Proof.Machine.execAsnapZ64 t s
  | .aldZ32 t => Sys2Proof.Machine.execAldZ32 t s
  | .aldZ64 t => Sys2Proof.Machine.execAldZ64 t s
  | .astZ32 t => Sys2Proof.Machine.execAstZ32 t s
  | .astZ64 t => Sys2Proof.Machine.execAstZ64 t s
  | .fence o s2 => Sys2Proof.Machine.execFence o s2 s
  | .barr g => Sys2Proof.Machine.execBarr g s
  | .bwait g => Sys2Proof.Machine.execBwait g s
  | .phreg r g => Sys2Proof.Machine.execPhreg r g s
  | .phsig g => Sys2Proof.Machine.execPhsig g s
  | .phwait g => Sys2Proof.Machine.execPhwait g s
  | .gang z => Sys2Proof.Machine.execGang z s
  | .ungang => Sys2Proof.Machine.execUngang s
  | .rangeInit r => Sys2Proof.Machine.execRangeInit r s
  | .glean d => Sys2Proof.Machine.execGlean d s
  | .tryAlt a b p q => Sys2Proof.Machine.execTryAlt a b p q s
  | .failBack => Sys2Proof.Machine.execFailBack s
  | .cutTo a p => Sys2Proof.Machine.execCutTo a p s
  | .chmark d b => Sys2Proof.Machine.execChmark d b s
  | .tst r => Sys2Proof.Machine.execTst r s
  | .claim r => Sys2Proof.Machine.execClaim r s
  | .sow x r => Sys2Proof.Machine.execSow x r s
  | .sowIx x r => Sys2Proof.Machine.execSowIx x r s
  | .topk x r => Sys2Proof.Machine.execTopk x r s
  | .gnorm x r => Sys2Proof.Machine.execGnorm x r s
  | .part x r => Sys2Proof.Machine.execPart x r s
  | .illegalInstruction tv => Sys2Proof.Machine.execIllegalInstruction tv s
  | .deviceReset => Sys2Proof.Machine.execDeviceReset s
  | .functionReady f bit decoded => Sys2Proof.Machine.execFunctionReady f bit decoded s
  | .functionFail f bit => Sys2Proof.Machine.execFunctionFail f bit s
  | .registerWrite off v => Sys2Proof.Machine.execRegisterWrite off v s
  | .doorbell q v => Sys2Proof.Machine.execDoorbell q v s
  | .takeBoundaryTrap c => Sys2Proof.Machine.execTakeBoundaryTrap c s
  | .launchPark l => Sys2Proof.Machine.execLaunchPark l s
  | .launchResume l => Sys2Proof.Machine.execLaunchResume l s
  | .launchEnd l => Sys2Proof.Machine.execLaunchEnd l s
  | .serviceResume c => Sys2Proof.Machine.execServiceResume c s
  | .serviceAbort c => Sys2Proof.Machine.execServiceAbort c s
  | .serviceHalt c => Sys2Proof.Machine.execServiceHalt c s
  | .faultRingRead f v => Sys2Proof.Machine.execFaultRingRead f v s
  | .substituteCore v => Sys2Proof.Machine.execSubstituteCore v s
  | .substituteBank v => Sys2Proof.Machine.execSubstituteBank v s
  | .retireFrond v => Sys2Proof.Machine.execRetireFrond v s
  | .substitutionPerform => Sys2Proof.Machine.execSubstitutionPerform s
  | .wearOutRemoval c => Sys2Proof.Machine.execWearOutRemoval c s
  | .rebase => Sys2Proof.Machine.execRebase s
  | .tlbInvalidate v => Sys2Proof.Machine.execTlbInvalidate v s
  | .tlbInvalidateComplete => Sys2Proof.Machine.execTlbInvalidateComplete s
  | .attestRequest => Sys2Proof.Machine.execAttestRequest s
  | .attestReportReady => Sys2Proof.Machine.execAttestReportReady s
  | .inboundSvlRequest rq => Sys2Proof.Machine.execInboundSvlRequest rq s
  | .homeAccess n => Sys2Proof.Machine.execHomeAccess n s
  | .errorResponse n => Sys2Proof.Machine.execErrorResponse n s
  | .storeAck n => Sys2Proof.Machine.execStoreAck n s
  | .registerFill n => Sys2Proof.Machine.execRegisterFill n s
  | .atomicAtHome n => Sys2Proof.Machine.execAtomicAtHome n s
  | .routerMerge n m => Sys2Proof.Machine.execRouterMerge n m s
  | .translationWalk c req => Sys2Proof.Machine.execTranslationWalk c req s
  | .heldWriteRelease n => Sys2Proof.Machine.execHeldWriteRelease n s
  | .niPacketRelease n => Sys2Proof.Machine.execNiPacketRelease n s
  | .packetEviction w b => Sys2Proof.Machine.execPacketEviction w b s
  | .nackResend n => Sys2Proof.Machine.execNackResend n s
  | .rhizomeStamp n => Sys2Proof.Machine.execRhizomeStamp n s
  | .rhizomeArrival n => Sys2Proof.Machine.execRhizomeArrival n s
  | .rhizomeApply n => Sys2Proof.Machine.execRhizomeApply n s
  | .rhizomeResend n => Sys2Proof.Machine.execRhizomeResend n s
  | .copyStart c k => Sys2Proof.Machine.execCopyStart c k s
  | .copyComplete c k => Sys2Proof.Machine.execCopyComplete c k s
  | .mmaPerform c => Sys2Proof.Machine.execMmaPerform c s
  | .mswapPerform c => Sys2Proof.Machine.execMswapPerform c s
  | .mzeroPerform c => Sys2Proof.Machine.execMzeroPerform c s
  | .mdrainPerform c => Sys2Proof.Machine.execMdrainPerform c s
  | .loftRequest w => Sys2Proof.Machine.execLoftRequest w s
  | .stookEvaluate c => Sys2Proof.Machine.execStookEvaluate c s
  | .evaluationComplete c => Sys2Proof.Machine.execEvaluationComplete c s
  | .waiterWake c => Sys2Proof.Machine.execWaiterWake c s
  | .callFrameStart c => Sys2Proof.Machine.execCallFrameStart c s
  | .channelRequest l g => Sys2Proof.Machine.execChannelRequest l g s
  | .gangForm c => Sys2Proof.Machine.execGangForm c s
  | .rangeTake c => Sys2Proof.Machine.execRangeTake c s
  | .alternativeTheft c => Sys2Proof.Machine.execAlternativeTheft c s
  | .gleanResearch c => Sys2Proof.Machine.execGleanResearch c s
  | .gleanEmpty l => Sys2Proof.Machine.execGleanEmpty l s
  | .svlVisibilityConfirm c port => Sys2Proof.Machine.execSvlVisibilityConfirm c port s
  | .linkLevelRetry port => Sys2Proof.Machine.execLinkLevelRetry port s
  | .wearRecordUpdate u wear eolh => Sys2Proof.Machine.execWearRecordUpdate u wear eolh s

end Sys2Proof.Machine
end

