-- ==== Sys2Proof/Machine/Issue.lean ====
section
/-! DEFINITION. Issue: fetch (R64, R79, R316), the instruction that issues at a core or at every member of its gang (R322),
and an instruction boundary with its pending causes and requests (R392). The meaning of an instruction is the argument
`ex`, so that this file stands before the table of meanings. -/
namespace Sys2Proof.Machine

/-! ## Fetch -/

/-- What a fetch of one word gives: the word, a trap, or a wait for a translation. -/
inductive Fetch where
  | word (w : Word32)
  | trap (c : Cause)
  | wait
deriving DecidableEq, Repr

/-- The word at a virtual address (R316), once no copy's event holds it (R289); an error response is logged (R98). -/
def State.fetchWord (s : State) (va : Word) : Fetch × State :=
  match s.translateFetch va with
  | (.trap c, s) => (.trap c, s)
  | (.wait, s) => (.wait, s)
  | (.ok pa _, s) =>
    if s.landsOn [wordAddr pa] then (.wait, s)
    else match s.readHome pa with
    | some w => (.word (w.extractLsb' (8 * (pa % 8)) 32), s.noteRead pa)
    | none => (.trap .accessViolation, s.logError s.cur va va)

/-- R59, R64: a prefix. -/
def isPrefix (w : Word32) : Bool := bitsOf w 26 6 == 0x3E

/-- What the sequencer of the core `cur` has to issue at its PC: an instruction, a trap with its `tval`, or a wait. Words that are
not an instruction issue as ILLEGAL_INSTRUCTION (R76, R78). -/
inductive Next where
  | instr (i : Instr)
  | trap (c : Cause) (tv : Word)
  | wait
deriving DecidableEq, Repr

/-- R78: the words of a `tval`. -/
def illegalVal (w0 w1 : Word32) : Word := if isPrefix w0 then w1 ++ w0 else w0.zeroExtend 64

/-- The instruction that two words hold, the second read by a prefix alone. -/
def instrOfWords (w0 w1 : Word32) : Instr :=
  match decodeWords w0 w1 with
  | .ok (i, _) => i
  | .error _ => .illegalInstruction (illegalVal w0 w1)

def State.fetch (s : State) : Next × State :=
  let pc := s.me.pc
  match s.fetchWord pc with
  | (.trap c, s) => (.trap c pc, s)
  | (.wait, s) => (.wait, s)
  | (.word w0, s) =>
    if isPrefix w0 then
      match s.fetchWord (pc + 4) with
      | (.trap c, s) => (.trap c (pc + 4), s)
      | (.wait, s) => (.wait, s)
      | (.word w1, s) => (.instr (instrOfWords w0 w1), s)
    else (.instr (instrOfWords w0 0), s)

/-! ## One core -/

/-- The core issues nothing now: a blocking FORCE or a frame's push waits (R262), a GLEAN waits (R361), a CALL frame is to
start (R267), or a spark's frame is being abandoned (R270). -/
def Core.holds (k : Core) : Bool :=
  k.blocked || (k.glean.isSome && !k.inFrame) || k.force.absorbing ||
    match k.force.stack with | e :: _ => e.phase == .callWait | [] => false

/-- The state of an outcome that is a next state; any other leaves the state. -/
def outState (s : State) : Out → State
  | .next t => t
  | _ => s

/-- What the fetch at the core `cur` leads to there. -/
def State.issueNext (s : State) (ex : Instr → State → Out) : Next → Out
  | .instr i => ex i s
  | .trap c tv => .next (s.trap c tv)
  | .wait => .next s.wait

/-- The core `cur` issues on its own: before a context's first instruction, its arena header is cleared (R368). -/
def State.issueOne (s : State) (ex : Instr → State → Out) : Out :=
  if s.me.headerDue then .next s.clearHeader
  else if s.me.holds then .next s.wait
  else match s.fetch with
    | (n, t) => t.issueNext ex n

/-! ## Gangs (R322) -/

/-- One member issues what its gang has fetched. -/
def State.issueAt (s : State) (ex : Instr → State → Out) (n : Next) (c : Nat) : State :=
  outState s ({ s with cur := c }.issueNext ex n)

/-- A member that a trap, a park or a halt has stopped. -/
def Core.stopped (k : Core) : Bool := k.run != .running

/-- The members issue in order of position; a trap at one ends the gang there (R324). A halt (R325) takes them all. -/
def State.issueMembers (s : State) (ex : Instr → State → Out) (n : Next) : List Nat → State
  | [] => s
  | c :: r =>
    let t := s.issueAt ex n c
    let k := t.core c
    if k.stopped && k.run != .halted && k.run != .ended then t else t.issueMembers ex n r

/-- The members that stand at the earliest instruction of the stream: the others have completed it. -/
def State.laggards (s : State) (cs : List Nat) : List Nat :=
  let least := cs.foldl (fun m c => min m (s.core c).pc.toNat) (2 ^ 64)
  cs.filter fun c => (s.core c).pc.toNat = least

/-- The stream goes on at every member where it goes on at the leader, and ends where it ends there (R322, R323). -/
def State.followLeader (s : State) (cs : List Nat) : State :=
  match cs with
  | [] => s
  | lead :: rest =>
    if (s.core lead).run == .ended then
      rest.foldl (fun t c => if (t.core c).run == .running then t.endPart c else t) s
    else if (cs.all fun c => (s.core c).run == .running && !(s.core c).holds && !(s.core c).stall) then
      rest.foldl (fun t c => t.modCore c fun k => { k with pc := (s.core lead).pc }) s
    else s

/-- Every member of a gang runs, with no cause to take and no CUT to complete: after a halt they issue again together (R325). -/
def State.gangRuns (s : State) (cs : List Nat) : Bool :=
  cs.all fun c => (s.core c).run == .running && (s.core c).pending.isEmpty && !(s.core c).cutting

/-- A gang issues (R322): no member issues while one waits. -/
def State.issueGang (s : State) (ex : Instr → State → Out) (cs : List Nat) : State :=
  let active := s.laggards cs
  if !s.gangRuns cs || active.any fun c => (s.core c).holds then s.wait
  else
    let me := active.headD s.cur
    let (n, t) := { s with cur := me }.fetch
    let waiting := active.filter fun c => ((t.issueAt ex n c).core c).stall
    if !waiting.isEmpty then waiting.foldl (fun t c => t.issueAt ex n c) t
    else
      let u := t.issueMembers ex n active
      if active = cs then u.followLeader cs else u

/-! ## A boundary (R392) -/

/-- The core `cur` issues, alone or with its gang. -/
def State.issueStream (s : State) (ex : Instr → State → Out) : Out :=
  if s.me.inGang then .next (s.issueGang ex (s.gangOf s.cur)) else s.issueOne ex

/-- A halt or a pre-emption has been asked of the core or of its gang. -/
def State.requested (s : State) (c : Nat) : Bool :=
  (s.runningGang c).any fun t => (s.core t).haltReq || (s.core t).preemptReq

/-- An issue that met a precise cause, at one of the cores `cs`: it comes before a request. -/
def stoppedAt (cs : List Nat) : Out → Bool
  | .next t => cs.any fun c => (t.core c).stopped && (t.core c).run != .ended
  | _ => true

/-- A FAIL that core `c` has begun goes on before a request, and before its launch's end stops it (R385), unless it stands still for something other than its own
accesses: a tile that another context's chain holds. -/
def State.failGoesOn (s : State) (c : Nat) : Out → Bool
  | .next t =>
    (s.core c).midway.isSome &&
      !((t.core c).stall && t.alone c && (t.misses (frondOf c)).all fun m => m.core != c || m.req != reqScalar)
  | _ => false

/-- The turn of core `c` at an instruction boundary: a CUT that it has begun goes on (R385); else a pending cause, then the next
instruction's precise causes, then a request; else the instruction issues. A core that does not run takes what its drain
leaves pending. -/
def State.turnOf (s : State) (ex : Instr → State → Out) (c : Nat) : Out :=
  let s := { s with cur := c }
  let k := s.me
  if k.run = .running ∧ k.cutting then .next s.cutGoesOn
  else if k.run ≠ .running ∨ k.pending ≠ [] ∨ (s.launchEnding c ∧ k.midway.isNone) then .next (s.takeBoundary c)
  else if s.requested c || s.launchEnding c then
    let o := s.issueStream ex
    if stoppedAt (s.runningGang c) o || s.failGoesOn c o then o
    else if s.launchEnding c then .next (s.stopNow c)
    else .next (s.takeRequest c)
  else s.issueStream ex

/-! ## Which agent moves -/

/-- The steps that a packet may make. -/
def packetSteps (p : Packet) : List (State → Out) :=
  [execHeldWriteRelease p.id, execNiPacketRelease p.id, execNackResend p.id, execRhizomeStamp p.id,
   execRhizomeArrival p.id, execRhizomeApply p.id, execRhizomeResend p.id, execHomeAccess p.id, execAtomicAtHome p.id,
   execLoftRequest (.packet p.id), execErrorResponse p.id, execStoreAck p.id, execRegisterFill p.id]

/-- The steps that core `c`'s engines, its force unit and its boundary may make. -/
def coreSteps (c : CoreNo) (k : Core) : List (State → Out) :=
  execTakeBoundaryTrap c ::
    (List.finRange 4).flatMap (fun q => [execCopyStart c q, execCopyComplete c q]) ++
    [execMmaPerform c, execMswapPerform c, execMzeroPerform c, execMdrainPerform c, execLoftRequest (.forceUnit c),
     execWaiterWake c, execStookEvaluate c, execEvaluationComplete c, execCallFrameStart c, execGangForm c,
     execRangeTake c, execAlternativeTheft c, execGleanResearch c] ++ k.svlPorts.map fun p => execSvlVisibilityConfirm c p

def groupNo (g : Nat) : GroupNo := ⟨g % 256, Nat.mod_lt _ (by decide)⟩
def coreNo (c : Nat) : CoreNo := ⟨c % 1152, Nat.mod_lt _ (by decide)⟩

/-- The walks that the frond's walkers may make (R95). -/
def walkSteps (ms : List Miss) : List (State → Out) :=
  ms.map fun m => execTranslationWalk (coreNo m.core) ⟨m.req % 8, Nat.mod_lt _ (by decide)⟩

/-- The steps that a launch may make. -/
def launchSteps (l : Launch) : List (State → Out) :=
  l.groups.map (fun g => execChannelRequest l.key (groupNo g.1)) ++
    [execGleanEmpty l.key, execLaunchPark l.key, execLaunchResume l.key, execLaunchEnd l.key]

/-- Every step that the package may make without the outside. -/
def State.steps (s : State) : List (State → Out) :=
  s.net.flatMap packetSteps ++ s.cores.flatMap (fun e => coreSteps (coreNo e.1) e.2) ++
    s.launches.flatMap launchSteps ++ s.walks.flatMap (fun e => walkSteps e.2) ++
    s.hostPending.map (fun w => execSvlVisibilityConfirm (coreNo 0) w.port) ++
    [execSubstitutionPerform, execRebase, execTlbInvalidateComplete, execAttestReportReady]

/-- Whether two states are one; where the machine that runs the model holds them at one place, it need not look. -/
def State.same (s t : State) : Bool := @decide (s = t) (withPtrEqDecEq s t fun _ => inferInstance)

/-- The first step of a list that changes the state, and what it gives. -/
def State.firstMove (s : State) : List (State → Out) → Option Out
  | [] => none
  | f :: r =>
    match f s with
    | .next t => if t.same s then s.firstMove r else some (.next t)
    | o => some o

/-- The next core that runs, after the core that issued last. -/
def State.nextCore (s : State) : Option Nat :=
  let running := (s.cores.filter fun e => e.2.run == .running).map (·.1)
  match running.find? (s.cur < ·) with
  | some c => some c
  | none => running.head?

/-- A step that the package can make, where there is one; the search begins one step further each time, so that none is
passed over for ever. -/
def State.eventTurn (s : State) : Out :=
  let fs := s.steps
  let n := s.beat / 2 % (fs.length + 1)
  (s.firstMove (fs.drop n ++ fs.take n)).getD (.next s)

/-- The next core issues, where one runs. -/
def State.coreTurn (s : State) (ex : Instr → State → Out) : Out :=
  match s.nextCore with
  | some c => s.turnOf ex c
  | none => .next s

/-- A turn that nothing from outside proposes: a core and a step of the package alternate (log entry 3). -/
def State.ownTurn (s : State) (ex : Instr → State → Out) : Out :=
  let t := { s with beat := s.beat + 1 }
  if s.beat % 2 = 0 then t.coreTurn ex else t.eventTurn

/-- A step of the package that no instruction word encodes, other than ILLEGAL_INSTRUCTION. -/
def isEvent : Instr → Bool
  | .illegalInstruction _ => false
  | i => i.word == 0

/-- A turn proposed from outside: a core issues, or the package makes a step. -/
def State.takeTurn (s : State) (ex : Instr → State → Out) : Turn → Out
  | .issue c => s.turnOf ex c
  | .event i => if isEvent i then ex i s else .next s

/-- One step of the package. -/
def State.stepWith (s : State) (ex : Instr → State → Out) : Out :=
  match s.agenda with
  | t :: r => { s with agenda := r }.takeTurn ex t
  | [] => s.ownTurn ex

/-! ## A program placed at reset -/

/-- A leaf of R91 that maps a 1 GiB page for reading, writing and fetching. -/
def placedLeaf (asn : Nat) (va : Word) (pa : Nat) : TlbEntry :=
  { asn := asn, level := 2, vpage := va.toNat / 2 ^ pageBits 2, leaf := BitVec.ofNat 64 (0x1F + pa) }

/-- Where the words that are placed lie: at the place of core 0's PC in the first GiB of HBM4E; a second page that they reach
is the second GiB. -/
def placedHome (pc va : Word) : Nat :=
  va.toNat % 2 ^ 30 + if va.toNat / 2 ^ 30 = pc.toNat / 2 ^ 30 then 0 else 2 ^ 30

/-- The four bytes of a word in memory. -/
def Memory.placeWord (m : Memory) (a : Nat) (w : Word32) : Memory :=
  m.writeBytes a ((List.range 4).map fun i => w.extractLsb' (8 * i) 8)

/-- The launch that core 0 runs where the state has none (log entry 22). -/
def placedLaunch (key : Nat) : Launch :=
  { key := key, state := .running, launchid := 0, prio := 0, parts := 1, cores := [0], variant := 0, reloc := false,
    entry := 0, ptroot := 0, asn := 0, poolN := 0, pool := 0, hwPct := 0, dlim := 0, gorder := 0, arenaBase := 0,
    arenaSz := 0, ctxBase := 0, flagOff := 0, args := 0, srkey := 0, compl := 0, groups := [], status := 0, note := none,
    saved := [], savedLoft := [], phys := [] }

/-- Core 0 in a launch. -/
def State.placeLaunch (s : State) : State :=
  match s.launchOf 0 with
  | some _ => s
  | none =>
    { s with launches := s.launches ++ [placedLaunch s.nextId], nextId := s.nextId + 1 }.modCore 0 fun k =>
      { k with launch := some s.nextId, ctx := 0 }

/-- An address from which words can be fetched (R80, R92). -/
def fetchable (pc : Word) : Bool := addrForm pc && !isWindow pc && pc.toNat % 4 == 0

/-- The PC, or 0 where nothing can be fetched at it. -/
def Core.placedPc (k : Core) : Word := if fetchable k.pc && fetchable (k.pc + 4) then k.pc else 0

/-- Core 0 at a boundary at which nothing but its next instruction stands, its page mapped. -/
def Core.placed (k : Core) (asn : Nat) : Core :=
  let k := { k with pc := k.placedPc }
  { k with
    run := .running, pending := [], haltReq := false, preemptReq := false, gidx := 0, force := ForceUnit.idle,
    glean := none, gangWait := none, headerDue := false, midway := none, ends := [], stall := false,
    tlb := [placedLeaf asn k.pc (placedHome k.pc k.pc / 2 ^ 30 * 2 ^ 30),
            placedLeaf asn (k.pc + 4) (placedHome k.pc (k.pc + 4) / 2 ^ 30 * 2 ^ 30)] }

/-- A copy's event that would hold one of the words `ws` from a fetch. -/
def Packet.holdsWords (ws : List Nat) (p : Packet) : Bool := p.stage == .landing && p.words.any ws.contains

/-- The two words `w0`, `w1` placed where core 0 fetches next, HBM4E stack 0 ready, and core 0 next to issue. -/
def State.placeWords (s : State) (w0 w1 : Word32) : State :=
  let s := s.placeLaunch
  let s := s.modCore 0 fun k => k.placed (s.asnOf 0)
  let pc := (s.core 0).pc
  let a := placedHome pc pc
  let b := placedHome pc (pc + 4)
  { s with
    mem := (s.mem.placeWord a w0).placeWord b w1
    eccBad := s.eccBad.filter fun k => k ≠ wordAddr a ∧ k ≠ wordAddr b
    eccOne := s.eccOne.filter fun k => k ≠ wordAddr a ∧ k ≠ wordAddr b
    net := s.net.filter fun p => !p.holdsWords [wordAddr a, wordAddr b]
    ready := mapSet s.ready 0 (mapGet 0 s.ready 0 ||| 2)
    cur := 0
    agenda := [.issue 0] }

end Sys2Proof.Machine
end

