-- ==== Sys2Proof/Safety.lean ====
section
/-! DEFINITION. What counts as a safe state and a safe run, in the terms that claims use. -/
namespace Sys2Proof.Machine

/-- The invariant of the package: its memory is in canonical form. -/
def Inv (s : State) : Prop := s.mem.wf = true

/-- An outcome that goes on, in a state that keeps the invariant. -/
def SafeOutcome (o : Host.Outcome State Fault Refusal) : Prop := ∃ t, o = .next t ∧ Inv t

/-- An outcome whose next state, where there is one, keeps the invariant. -/
def KeepsInv (o : Host.Outcome State Fault Refusal) : Prop := ∀ t, o = .next t → Inv t

end Sys2Proof.Machine
end

