-- ==== Sys2Proof/Certificates/Slice0/Obligations.lean ====
section
/-! DEFINITION. The statements about the package, each with the rules of the manual that it formalises. -/

/-! ## Words of the statements -/

namespace Sys2Proof.Claims
open Sys2Proof.Machine

/-- Every register of a list is full at a core. -/
abbrev fullAt (k : Core) (rs : List RegRef) : Prop := ∀ r ∈ rs, k.isFull r = true

/-- A core's g[d] := v, and its stream goes on `n` bytes further. -/
def wrote (d : Reg) (v : Word) (n : Nat) (k : Core) : Core := (k.setG d v).advance n

/-- R179, the two-operand instructions: what each writes for x and y. -/
def scalarTable : List ((R3 → Instr) × (Word → Word → Word)) :=
  [(.add, fun x y => BitVec.ofNat 64 (x.toNat + y.toNat)),
   (.sub, fun x y => BitVec.ofInt 64 (x.toInt - y.toInt)),
   (.and, fun x y => x &&& y),
   (.or, fun x y => x ||| y),
   (.xor, fun x y => x ^^^ y),
   (.sll, fun x y => BitVec.ofNat 64 (x.toNat * 2 ^ (y.toNat % 64))),
   (.srl, fun x y => BitVec.ofNat 64 (x.toNat / 2 ^ (y.toNat % 64))),
   (.sra, fun x y => BitVec.ofInt 64 (x.toInt / 2 ^ (y.toNat % 64))),
   (.ror, fun x y => x.rotateRight (y.toNat % 64)),
   (.mul, fun x y => BitVec.ofInt 64 (x.toInt * y.toInt)),
   (.mulh, fun x y => BitVec.ofInt 64 (x.toInt * y.toInt / 2 ^ 64)),
   (.mulhu, fun x y => BitVec.ofNat 64 (x.toNat * y.toNat / 2 ^ 64)),
   (.div, fun x y => if y.toInt = 0 then -1 else BitVec.ofInt 64 (x.toInt.tdiv y.toInt)),
   (.divu, fun x y => if y.toNat = 0 then BitVec.ofNat 64 (2 ^ 64 - 1) else BitVec.ofNat 64 (x.toNat / y.toNat)),
   (.rem, fun x y => if y.toInt = 0 then x else BitVec.ofInt 64 (x.toInt.tmod y.toInt)),
   (.remu, fun x y => if y.toNat = 0 then x else BitVec.ofNat 64 (x.toNat % y.toNat)),
   (.slt, fun x y => if x.toInt < y.toInt then 1 else 0),
   (.sltu, fun x y => if x.toNat < y.toNat then 1 else 0),
   (.seq, fun x y => if x = y then 1 else 0),
   (.min, fun x y => if x.toInt ≤ y.toInt then x else y),
   (.max, fun x y => if x.toInt ≤ y.toInt then y else x),
   (.minu, fun x y => if x.toNat ≤ y.toNat then x else y),
   (.maxu, fun x y => if x.toNat ≤ y.toNat then y else x)]

/-- R180: each immediate form, with the register form's rule and the y that replaces g[b]. -/
def immediateTable : List ((Reg → Reg → BitVec 14 → Instr) × (Word → Word → Word) × (BitVec 14 → Word)) :=
  [(.addi, fun x y => BitVec.ofNat 64 (x.toNat + y.toNat), fun i => BitVec.ofInt 64 i.toInt),
   (.andi, fun x y => x &&& y, fun i => BitVec.ofNat 64 i.toNat),
   (.ori, fun x y => x ||| y, fun i => BitVec.ofNat 64 i.toNat),
   (.xori, fun x y => x ^^^ y, fun i => BitVec.ofNat 64 i.toNat)]

def shiftTable : List ((Reg → Reg → BitVec 6 → Instr) × (Word → Nat → Word)) :=
  [(.slli, fun x n => BitVec.ofNat 64 (x.toNat * 2 ^ n)),
   (.srli, fun x n => BitVec.ofNat 64 (x.toNat / 2 ^ n)),
   (.srai, fun x n => BitVec.ofInt 64 (x.toInt / 2 ^ n)),
   (.rori, fun x n => x.rotateRight n)]

end Sys2Proof.Claims

open Sys2Proof Sys2Proof.Machine Sys2Proof.Claims

/-! ## Scalar instructions -/

/-- R179: ADD to MAXU, CLZ, CTZ and POPC write g[d] as the table gives it (nothing where d = 0), nothing else changes, and the
stream goes on at the next word; d may be a source. -/
def Obligations.ScalarRegisterResults : Prop :=
  (∀ e ∈ scalarTable, ∀ (r : R3) (s : State), fullAt s.me [.g r.a, .g r.b, .g r.d] →
    exec (e.1 r) s = .next (s.modMe (wrote r.d (e.2 (s.me.gr r.a) (s.me.gr r.b)) 4))) ∧
  (∀ (r : R2) (s : State) (n : Nat), fullAt s.me [.g r.a, .g r.d] → n ≤ 64 →
    ((∀ i < n, (s.me.gr r.a).getMsbD i = false) → (n < 64 → (s.me.gr r.a).getMsbD n = true) →
      exec (.clz r) s = .next (s.modMe (wrote r.d (BitVec.ofNat 64 n) 4))) ∧
    ((∀ i < n, (s.me.gr r.a).getLsbD i = false) → (n < 64 → (s.me.gr r.a).getLsbD n = true) →
      exec (.ctz r) s = .next (s.modMe (wrote r.d (BitVec.ofNat 64 n) 4))) ∧
    (((List.range 64).map fun i => ((s.me.gr r.a).getLsbD i).toNat).sum = n →
      exec (.popc r) s = .next (s.modMe (wrote r.d (BitVec.ofNat 64 n) 4))))

/-- R180: ADDI, ANDI, ORI, XORI and the shifts by a constant have the effects of the register forms with y replaced by the
immediate of R69. -/
def Sys2Proof.Claims.ScalarImmediateResults : Prop :=
  (∀ e ∈ immediateTable, ∀ (d a : Reg) (i : BitVec 14) (s : State), fullAt s.me [.g a, .g d] →
    exec (e.1 d a i) s = .next (s.modMe (wrote d (e.2.1 (s.me.gr a) (e.2.2 i)) 4))) ∧
  (∀ e ∈ shiftTable, ∀ (d a : Reg) (n : BitVec 6) (s : State), fullAt s.me [.g a, .g d] →
    exec (e.1 d a n) s = .next (s.modMe (wrote d (e.2 (s.me.gr a) n.toNat) 4)))

/-- R69: LDI writes its sign-extended constant, and LDIH shifts g[d] up by 19 bits and enters its constant below. -/
def Sys2Proof.Claims.LoadConstants : Prop :=
  ∀ (d : Reg) (i : BitVec 19) (s : State), s.me.gIsFull d = true →
    exec (.ldi d i) s = .next (s.modMe (wrote d (BitVec.ofInt 64 i.toInt) 4)) ∧
    exec (.ldih d i) s = .next (s.modMe (wrote d (BitVec.ofNat 64 ((s.me.gr d).toNat * 2 ^ 19 + i.toNat)) 4))

/-- R180, R69: the immediate forms of the scalar instructions, and the constants that LDI and LDIH load. -/
def Obligations.ConstantsAndImmediateForms : Prop := ScalarImmediateResults ∧ LoadConstants

namespace Sys2Proof.Claims
open Sys2Proof.Machine

/-- PC + 4 × disp (R60, R313). -/
def branchTo (pc : Word) (disp : Int) : Word := pc + BitVec.ofInt 64 (4 * disp)

/-- R73: the bits of each CSR that a program may write, and those that a written 1 clears. -/
def csrBit : Csr → Nat → Bool × Bool
  | .fcsr, i => (decide (i < 3 ∨ 4 ≤ i ∧ i < 9), false)
  | .jord, i => (decide (i < 3), false)
  | .nroute, i => (decide (i < 2 ∨ 8 ≤ i ∧ i < 16), false)
  | .srkey, _ => (true, false)
  | .jfl, i => (false, decide (i < 40))
  | .vstat, i => (false, decide (i < 3))
  | _, _ => (false, false)

end Sys2Proof.Claims

/-! ## Branches, jumps, CSRs, NOP, END, BREAK -/

/-- R313, R314: BEQ, BNE, BRA, JAL and DCB go on at the target where their condition holds and at the next word where not;
JAL writes the link; DCB compares the decremented counter. Nothing else changes. -/
def Sys2Proof.Claims.BranchesGoWhereTheyShould : Prop :=
  ∀ (s : State),
    (∀ (a b : Reg) (disp : BitVec 14), fullAt s.me [.g a, .g b] →
      let there := branchTo s.me.pc disp.toInt
      exec (.beq a b disp) s = .next (s.modMe fun k => if s.me.gr a = s.me.gr b then k.goto there else k.advance 4) ∧
      exec (.bne a b disp) s = .next (s.modMe fun k => if s.me.gr a ≠ s.me.gr b then k.goto there else k.advance 4) ∧
      (a ≠ 0 → a ≠ b → exec (.dcb a b disp) s = .next (s.modMe fun k =>
        if s.me.gr a - 1 ≠ s.me.gr b then (k.setG a (s.me.gr a - 1)).goto there
        else (k.setG a (s.me.gr a - 1)).advance 4))) ∧
    (∀ (a : Reg) (disp : BitVec 14), exec (.bra a disp) s = .next (s.modMe fun k => k.goto (branchTo s.me.pc disp.toInt))) ∧
    (∀ (d : Reg) (disp : BitVec 20), s.me.gIsFull d = true →
      exec (.jal d disp) s = .next (s.modMe fun k => (k.setG d (s.me.pc + 4)).goto (branchTo s.me.pc disp.toInt)))

/-- R313, R79: JALR and JTAB read their sources before they write the link, and go to their target; a target that is not a
multiple of 4 raises MISALIGNED at the jump, with `tval` the target. (Of a gang the leader alone decides, R322: `decides`.) -/
def Sys2Proof.Claims.IndirectJumpsCheckTheirTarget : Prop :=
  ∀ (s : State),
    (∀ (r : R2), fullAt s.me [.g r.a, .g r.d] →
      let t := s.me.gr r.a
      (t.toNat % 4 = 0 → exec (.jalr r) s = .next (s.modMe fun k => (k.setG r.d (s.me.pc + 4)).goto t)) ∧
      (t.toNat % 4 ≠ 0 → s.me.decides = true → exec (.jalr r) s = .next (s.trap .misaligned t))) ∧
    (∀ (r : R3), fullAt s.me [.g r.a, .g r.b, .g r.d] →
      let t := BitVec.ofNat 64 ((s.me.gr r.a).toNat + 4 * (s.me.gr r.b).toNat)
      (t.toNat % 4 = 0 → exec (.jtab r) s = .next (s.modMe fun k => (k.setG r.d (s.me.pc + 4)).goto t)) ∧
      (t.toNat % 4 ≠ 0 → s.me.decides = true → exec (.jtab r) s = .next (s.trap .misaligned t)))

/-- R176, R73: once no earlier instruction has still to update the CSR, an access writes its old value to g[d], and every bit
of the CSR comes out as its access code says; the next read gives that value. Nothing else changes. -/
def Sys2Proof.Claims.CsrAccessesReadAndWriteByField : Prop :=
  ∀ (s : State) (x : Csr) (d a : Reg), fullAt s.me [.g a, .g d] → s.csrPending s.cur x = false →
    let old := s.me.csrValue s.cur x
    let w := s.me.gr a
    let done := fun (i : Instr) (bit : Nat → Bool) => ∃ v : Word, (∀ n < 64, v.getLsbD n = bit n) ∧
      exec i s = .next (s.modMe fun k => ((k.setCsr x v).setG d old).advance 4) ∧
      (s.me.setCsr x v).csrValue s.cur x = v
    done (.csrr d x) (fun n => old.getLsbD n) ∧
    done (.csrw d a x) (fun n => if (csrBit x n).1 then w.getLsbD n
      else if (csrBit x n).2 then old.getLsbD n && !w.getLsbD n else old.getLsbD n) ∧
    done (.csrs d a x) (fun n => old.getLsbD n || (w.getLsbD n && (csrBit x n).1)) ∧
    done (.csrc d a x) (fun n => old.getLsbD n && !(w.getLsbD n && ((csrBit x n).1 || (csrBit x n).2)))

/-- R313, R314, R79, R176: where branches and jumps go on, what they write, and where a jump traps; what the CSR instructions read and write. -/
def Obligations.BranchesJumpsAndCsrs : Prop := BranchesGoWhereTheyShould ∧ IndirectJumpsCheckTheirTarget ∧ CsrAccessesReadAndWriteByField

/-- R176, R318, R298, R407: NOP only goes on. END, once the queues, `usc`, the registers and the force unit are quiet and every
write of the core has been performed, ends the core's part: its thread stops, its place in a gang ends, and each of its groups
is told; a write of its own that is still held makes it wait (R298); inside a CALL frame it raises LOFT_FAULT 0x1B. BREAK halts a core with a debugger, which waits for no chain of its own, at the next word, and without one raises DEBUG_HALT with `tval` 1. -/
def Obligations.NopEndAndBreak : Prop :=
  ∀ (s : State),
    exec .nop s = .next (s.modMe fun k => k.advance 4) ∧
    (s.me.inFrame = false → (∀ q : Fin 4, s.me.queues.get q = []) → s.me.mqueue = [] → s.me.usc = 0 →
      (∀ r : Reg, s.me.gIsFull r = true ∧ s.me.vIsFull r = true) → s.me.force.root = none →
      (∀ p ∈ s.net, p.src = s.cur → p.wr = true → p.stage = .reply ∨ p.stage = .error) →
      ∃ t, exec .endLaunch s = .next t ∧ t.mem = s.mem ∧
        t.me = { s.me with run := .ended, gidx := 0, stall := false } ∧ (∀ c, c ≠ s.cur → t.core c = s.core c) ∧
        (∀ l, s.launchOf s.cur = some l → ∃ l', t.launchOf s.cur = some l' ∧
          ∀ g, (mapGet (Group.start []) l'.groups g).queue = (mapGet (Group.start []) l.groups g).queue ++
            if (mapGet (Group.start []) l.groups g).members.contains s.me.ctx then [⟨s.me.ctx, .ended⟩] else [])) ∧
    (s.me.inFrame = false → (∃ p ∈ s.net, p.src = s.cur ∧ p.wr = true ∧ p.stage = .held) →
      exec .endLaunch s = .next (s.modMe fun k => { k with stall := true })) ∧
    (s.me.inFrame = true → exec .endLaunch s = .next (s.trap .loftFault (BitVec.ofNat 64 (0x1B * 2 ^ 32)))) ∧
    (s.me.inGang = false → s.me.debugger = true → s.me.glean = none → s.me.atChain = false →
      exec .brk s = .next (s.modMe fun k =>
        { k with run := .halted, haltReq := true, stall := false, tcause := 0x11, tval := 0,
                 tpc := BitVec.ofNat 64 (s.me.pc.toNat % 2 ^ 56), pc := s.me.pc + 4 })) ∧
    (s.me.inGang = false → s.me.debugger = false → exec .brk s = .next (s.takeTrapAt s.cur .debugHalt 1 s.me.pc))

namespace Sys2Proof.Claims
open Sys2Proof.Machine

/-- The fault record of a cause at a core (R394): `tpc` holds [55:0] of an address. -/
def recordFor (s : State) (c : Nat) (cause : Byte) (tv pc : Word) : FaultRecord :=
  { launchid := match s.launchOf c with | some l => l.launchid | none => 0
    ctx := (s.core c).ctx, wdrawn := false, coord := c / 144 * 256 + c % 144 / 12 * 16 + c % 12,
    cause := cause.toNat, tval := tv, tpc := BitVec.ofNat 64 (pc.toNat % 2 ^ 56) }

/-- R394: a record enters a ring as entry COUNT mod 256 where it would not overwrite an unread one and none waits before it;
else it waits. -/
def ringWith (r : FaultRing) (f : FaultRecord) : FaultRing :=
  if r.waiting = [] ∧ ∀ n ∈ r.unread, n % 256 ≠ r.count.toNat % 256 then
    { r with entries := mapSet r.entries (r.count.toNat % 256) f, unread := r.unread ++ [r.count.toNat], count := r.count + 1 }
  else { r with waiting := r.waiting ++ [f] }

/-- A core outside a gang, and not in a CALL frame of a spark's chain: its traps are taken, and at it alone. -/
abbrev plain (k : Core) : Prop := k.gidx.toNat / 16 = 0 ∧ k.inSparkFrame = false

/-- R365: a GLEAN that has found nothing is withdrawn: its pair regains its values, full, and its core stands at the GLEAN
again. A GLEAN whose spark is being evaluated stays as it is. -/
def gleanBack (k : Core) : Core :=
  match k.glean, k.force.root with
  | none, _ => k
  | _, some (.spark _ _) => k
  | some w, _ =>
    { (k.setG w.d w.old0).setG (regUp w.d 1) w.old1 with
      gfull := k.gfull ||| 1#64 <<< w.d.val ||| 1#64 <<< (regUp w.d 1).val, pc := w.pc, glean := none }

/-- What an end of its launch does to a core (R397): it stops issuing, as for a pre-emption; a running one that has begun a FAIL or
CUT completes it first (R385). -/
def stoppedBy (key : Nat) (cores : List Nat) (c : Nat) (k : Core) : Core :=
  if c ∈ cores ∧ k.launch = some key ∧ (k.run = .running ∧ k.midway = none ∨ k.run = .preempted ∨ k.run = .halted) then
    { gleanBack k with run := .stopped, stall := false } else k

/-- R391, R394, R397: the core that takes a fatal cause stops with the trap CSRs set, its record is posted, its launch
ends with this fault noted and stops its other cores; memory, lofts and packets stay. -/
structure TookFatal (s t : State) (cause : Byte) (tv : Word) : Prop where
  core : t.me = { s.me with tcause := cause, tval := tv, tpc := BitVec.ofNat 64 (s.me.pc.toNat % 2 ^ 56), run := .faulted,
                            stall := false }
  posted : ∀ f, mapGet FaultRing.reset t.rings f = if f = s.cur / 144
    then ringWith (mapGet FaultRing.reset s.rings f) (recordFor s s.cur cause tv s.me.pc)
    else mapGet FaultRing.reset s.rings f
  launch : ∀ key l, s.me.launch = some key → s.launch? key = some l → l.state ≠ .ending →
    t.launch? key = some { l with
      state := .ending, status := 1
      note := some ⟨s.cur / 144 * 256 + s.cur % 144 / 12 * 16 + s.cur % 12, cause.toNat, tv,
        BitVec.ofNat 64 (s.me.pc.toNat % 2 ^ 56)⟩ } ∧
    ∀ c, c ≠ s.cur → t.core c = stoppedBy key l.cores c (s.core c)
  kept : t.mem = s.mem ∧ t.loft = s.loft ∧ t.net = s.net ∧ t.cur = s.cur

end Sys2Proof.Claims

/-! ## Taking an exception -/

/-- R390, R391, R394, R397: taking a fatal cause, at a core outside a gang while no context of the package is parked. Every
cause is fatal but TRANSLATION_FAULT, PREEMPT and, at a core with a debugger attached, DEBUG_HALT (R390). -/
def Sys2Proof.Claims.FatalCausesEndTheLaunch : Prop :=
  ∀ (s : State) (cause : Cause) (tv : Word), plain s.me → (∀ c, (s.core c).run ≠ .parked) →
    cause ≠ .translationFault → cause ≠ .preempt → (cause = .debugHalt → s.me.debugger = false) →
    TookFatal s (s.trap cause tv) (BitVec.ofNat 8 cause.code) tv

/-- R393, R394: a TRANSLATION_FAULT parks the core: the trap CSRs hold it, a record is posted, and nothing else changes; the
launch goes on. -/
def Sys2Proof.Claims.TranslationFaultsPark : Prop :=
  ∀ (s : State) (va : Word), plain s.me →
    let t := s.trap .translationFault va
    t.me = { s.me with tcause := 0x08, tval := va, tpc := BitVec.ofNat 64 (s.me.pc.toNat % 2 ^ 56), run := .parked,
                       stall := false } ∧
    (∀ f, mapGet FaultRing.reset t.rings f = if f = s.cur / 144
      then ringWith (mapGet FaultRing.reset s.rings f) (recordFor s s.cur 0x08 va s.me.pc)
      else mapGet FaultRing.reset s.rings f) ∧
    (∀ c, c ≠ s.cur → t.core c = s.core c) ∧ t.mem = s.mem ∧ t.launches = s.launches ∧ t.loft = s.loft ∧ t.net = s.net

/-- R391, R393, R394, R397: what taking a fatal cause and taking a TRANSLATION_FAULT do. -/
def Obligations.TrapsAreTaken : Prop := FatalCausesEndTheLaunch ∧ TranslationFaultsPark

namespace Sys2Proof.Claims
open Sys2Proof.Machine

/-- The codes of R390, as the manual's table lists them. -/
def causeTable : List (Cause × Nat) :=
  [(.illegalInstruction, 0x01), (.emptyRead, 0x02), (.unarmedFill, 0x03), (.unconfiguredAcc, 0x04), (.loftFault, 0x05),
   (.selfDependence, 0x06), (.stookPoolExhausted, 0x07), (.translationFault, 0x08), (.accessViolation, 0x09),
   (.misaligned, 0x0A), (.copyFault, 0x0B), (.swathOverflow, 0x0C), (.choiceOverflow, 0x0D), (.barrierMisuse, 0x0E),
   (.gangFault, 0x0F), (.preempt, 0x10), (.debugHalt, 0x11), (.rhizomeDiscard, 0x12)]

/-- The integer lane instructions of R191 but VIADDS. -/
def intTable : List ((Option Pfx → R3 → Instr) × (Word32 → Word32 → Word32)) :=
  [(.viadd, fun x y => BitVec.ofNat 32 (x.toNat + y.toNat)),
   (.visub, fun x y => BitVec.ofInt 32 (x.toInt - y.toInt)),
   (.vimul, fun x y => BitVec.ofInt 32 (x.toInt * y.toInt)),
   (.vimin, fun x y => if x.toInt ≤ y.toInt then x else y),
   (.vimax, fun x y => if x.toInt ≤ y.toInt then y else x),
   (.vand, fun x y => x &&& y),
   (.vor, fun x y => x ||| y),
   (.vxor, fun x y => x ^^^ y),
   (.vsll, fun x y => BitVec.ofNat 32 (x.toNat * 2 ^ (y.toNat % 32))),
   (.vsrl, fun x y => BitVec.ofNat 32 (x.toNat / 2 ^ (y.toNat % 32))),
   (.vsra, fun x y => BitVec.ofInt 32 (x.toInt / 2 ^ (y.toNat % 32)))]

/-- The instructions that round (R77): those of majors 0x10 and 0x11 that do, the conversions, VRSUM, GNORM, JEXT.d and the slice
accesses. -/
def roundingForms (x : Option Pfx) (r : R3) (c : Fin 8) : List Instr :=
  let u : R2 := ⟨r.d, r.a, r.pa⟩
  [.vadd x r, .vsub x r, .vmul x r, .vdiv x r, .vfma x r, .vfms x r, .vfnma x r, .vexp2 x u, .vlog2 x u, .vsinpi x u, .vcospi x u,
   .vrcp x u, .vrsqrt x u, .vsqrt x u, .vtanh x u, .vcvtfi x u, .vcvtfu x u, .vcvtif x u, .vcvtuf x u, .vcvth x u, .vcvtb x u,
   .vcvte4 x u, .vcvte5 x u, .vrsum x u, .gnorm x u, .jextD x r.d r.a c r.pa, .vldtRow x r, .vldtCol x r, .vsttRow x r, .vsttCol x r]

/-- The jet fields of each instruction (R205). -/
def jetFields (x : Option Pfx) (r : R3) (c : Fin 8) : List (Instr × List Reg) :=
  let u : R2 := ⟨r.d, r.a, r.pa⟩
  let q : Reg := match x with | some p => p.q4 | none => 0
  [(.vadd x r, [r.d, r.a, r.b]), (.vsub x r, [r.d, r.a, r.b]), (.vmul x r, [r.d, r.a, r.b]), (.vdiv x r, [r.d, r.a, r.b]),
   (.vmin x r, [r.d, r.a, r.b]), (.vmax x r, [r.d, r.a, r.b]), (.vcpys x r, [r.d, r.a, r.b]), (.vfma x r, [r.d, r.a, r.b, q]),
   (.vfms x r, [r.d, r.a, r.b, q]), (.vfnma x r, [r.d, r.a, r.b, q]), (.vabs x u, [r.d, r.a]), (.vneg x u, [r.d, r.a]),
   (.vexp2 x u, [r.d, r.a]), (.vlog2 x u, [r.d, r.a]), (.vsinpi x u, [r.d, r.a]), (.vcospi x u, [r.d, r.a]), (.vrcp x u, [r.d, r.a]),
   (.vrsqrt x u, [r.d, r.a]), (.vsqrt x u, [r.d, r.a]), (.vtanh x u, [r.d, r.a]), (.jseed x u, [r.d]), (.jconst x u, [r.d]),
   (.jins x r.d r.a c r.pa, [r.d]), (.jext x r.d r.a c r.pa, [r.a]), (.jextD x r.d r.a c r.pa, [r.a])]

/-- G: the least power of two at or above k + 1 (R58). -/
def groupOf (k : Nat) : Nat := if k = 0 then 1 else if k = 1 then 2 else if k ≤ 3 then 4 else 8

end Sys2Proof.Claims

/-- R63, R62, R168: a read under the trapping policy of an empty register raises EMPTY_READ with the file and the register in
`tval`, the first in the order a, b; with none of those, an empty source or destination makes the instruction wait, and nothing
but the mark of the wait changes. A scalar register's file is 0, a vector register's 1. -/
def Obligations.EmptyRegistersTrapOrWait : Prop :=
  ∀ (s : State) (r : R3),
    (∀ e ∈ scalarTable,
      (r.pa = true → s.me.gIsFull r.a = false →
        exec (e.1 r) s = .next (s.trap .emptyRead (BitVec.ofNat 64 r.a.val))) ∧
      ((r.pa = true → s.me.gIsFull r.a = true) → r.pb = true → s.me.gIsFull r.b = false →
        exec (e.1 r) s = .next (s.trap .emptyRead (BitVec.ofNat 64 r.b.val))) ∧
      ((r.pa = true → s.me.gIsFull r.a = true) → (r.pb = true → s.me.gIsFull r.b = true) → ¬ fullAt s.me [.g r.a, .g r.b, .g r.d] →
        exec (e.1 r) s = .next (s.modMe fun k => { k with stall := true }))) ∧
    (∀ e ∈ intTable, ∀ x : Option Pfx,
      (r.pa = true → s.me.vIsFull r.a = false →
        exec (e.1 x r) s = .next (s.trap .emptyRead (BitVec.ofNat 64 (1 * 2 ^ 6 + r.a.val)))) ∧
      ((r.pa = true → s.me.vIsFull r.a = true) → r.pb = true → s.me.vIsFull r.b = false →
        exec (e.1 x r) s = .next (s.trap .emptyRead (BitVec.ofNat 64 (1 * 2 ^ 6 + r.b.val)))) ∧
      ((r.pa = true → s.me.vIsFull r.a = true) → (r.pb = true → s.me.vIsFull r.b = true) → ¬ fullAt s.me [.v r.a, .v r.b, .v r.d] →
        exec (e.1 x r) s = .next (s.modMe fun k => { k with stall := true })))

/-- R390, R76, R78, R77, R58, R205: the codes of the causes; words that are no instruction, and an instruction that CSRs make illegal
(one that rounds while `fcsr` names no mode, or with a jet field that is not a multiple of G), raise ILLEGAL_INSTRUCTION with the
words in `tval`, whatever registers are empty. -/
def Obligations.IllegalInstructionsTrap : Prop :=
  (∀ e ∈ causeTable, e.1.code = e.2) ∧ (∀ c : Cause, c ∈ causeTable.map (·.1)) ∧
  (∀ (s : State) (tv : Word), exec (.illegalInstruction tv) s = .next (s.trap .illegalInstruction tv)) ∧
  (∀ (s : State) (r : R3), s.me.fcsr.toNat % 8 = 0 ∨ s.me.fcsr.toNat % 8 = 7 →
    exec (.vadd none r) s = .next (s.trap .illegalInstruction ((encR3 0x10 0 r).zeroExtend 64))) ∧
  (∀ (s : State) (x : Option Pfx) (r : R3) (c : Fin 8), x.bind (·.rm) = none → s.me.fcsr.toNat % 8 = 0 ∨ s.me.fcsr.toNat % 8 = 7 →
    ∀ i ∈ roundingForms x r c, exec i s = .next (s.trap .illegalInstruction i.words64)) ∧
  (∀ (s : State) (r : R2) (n : KField), s.me.fcsr.toNat % 8 = 0 ∨ s.me.fcsr.toNat % 8 = 7 →
    ∀ i ∈ [Instr.mrowGet r n, .mcolGet r n], exec i s = .next (s.trap .illegalInstruction i.words64)) ∧
  (∀ (s : State) (x : Option Pfx) (r : R3) (c : Fin 8), ∀ e ∈ jetFields x r c,
    (∃ f ∈ e.2, f.val % groupOf s.me.jord.toNat ≠ 0) → exec e.1 s = .next (s.trap .illegalInstruction e.1.words64)) ∧
  (∀ (s : State) (p : Pfx) (r : R3), s.me.jord = 1 → r.d.val % 2 = 1 ∨ r.a.val % 2 = 1 ∨ r.b.val % 2 = 1 →
    exec (.vmin (some p) r) s = .next (s.trap .illegalInstruction ((encR3 0x10 7 r) ++ p.word)))

namespace Sys2Proof.Claims
open Sys2Proof.Machine

/-- A field of a word by its bounds. -/
def bits (w : Word) (hi lo : Nat) : Nat := w.toNat / 2 ^ lo % 2 ^ (hi + 1 - lo)

/-- R80: an address of the form that accesses accept. -/
abbrev wellFormedAddress (va : Word) : Prop := bits va 63 56 = 0 ∧ bits va 55 48 ≠ 0xFF

/-- The core that an absolute window address names (R82): FROND, Y and X. -/
def windowTarget (va : Word) : Nat := 144 * bits va 47 45 + 12 * bits va 44 41 + bits va 40 37

/-- A leaf in the core's micro-TLB that maps a page address (R91 to R94), first in the list. -/
abbrev mapped (s : State) (va : Word) (e : TlbEntry) : Prop :=
  s.me.tlb.find? (fun x => x.asn == (match s.launchOf s.cur with | some l => l.asn | none => 0) &&
    x.vpage == va.toNat / 2 ^ pageBits x.level) = some e

end Sys2Proof.Claims

/-- R100, R80, R82, R84, R85, R91: the checks of an access in order (the form, the alignment, then where it goes): a
malformed address and a position or a partition outside the window or the launch raise ACCESS_VIOLATION, a misaligned one raises
MISALIGNED; an absolute window address reaches the bank of its core; a mapped page gives the physical address, with the permission
bits asked of its leaf. -/
def Obligations.AddressChecksInOrder : Prop :=
  ∀ (s : State) (va : Word) (n : Nat) (a : Access),
    (¬ wellFormedAddress va → s.target va n a = (.trap .accessViolation, s)) ∧
    (wellFormedAddress va → va.toNat % n ≠ 0 → s.target va n a = (.trap .misaligned, s)) ∧
    (wellFormedAddress va → va.toNat % n = 0 → bits va 55 48 = 0xFE →
      (bits va 36 19 ≠ 0 ∨ 12 ≤ bits va 44 41 ∨ 12 ≤ bits va 40 37 → s.target va n a = (.trap .accessViolation, s)) ∧
      (bits va 36 19 = 0 → bits va 44 41 < 12 → bits va 40 37 < 12 →
        (s.reaches s.cur (windowTarget va) = false → s.target va n a = (.trap .accessViolation, s)) ∧
        (s.reaches s.cur (windowTarget va) = true →
          s.target va n a = (.at (scratchAddr (windowTarget va) (bits va 18 0)) false, s)))) ∧
    (wellFormedAddress va → va.toNat % n = 0 → bits va 55 48 < 0xFD → ∀ e, mapped s va e →
      let ok := match a with
        | .fetch => e.leaf.getLsbD 4
        | .read => e.leaf.getLsbD 2
        | .write => e.leaf.getLsbD 3
        | .rw => e.leaf.getLsbD 2 && e.leaf.getLsbD 3
      (ok = false → s.target va n a = (.trap .accessViolation, s)) ∧
      (ok = true → s.target va n a =
        (.at (bits e.leaf 51 12 * 2 ^ 12 + va.toNat % 2 ^ pageBits e.level) (bits e.leaf 7 6 = 1), s)))

/-! ## Loads, stores, and their packets -/

namespace Sys2Proof.Claims
open Sys2Proof.Machine

/-- Nothing holds the accesses of the issuing core (R243, R296). -/
abbrev unheld (s : State) : Prop := s.me.holdAtom = [] ∧ s.me.holdFence = []

/-- A packet sent: it is the newest of the network, it has the next fresh number, and its core counts it in `usc` where it
is a write or an atomic to another home than the core's own scratchpad (R101, R244). -/
structure Sent (s t : State) (p : Packet) : Prop where
  net : t.net = s.net ++ [p]
  id : p.id = s.nextId ∧ t.nextId = s.nextId + 1
  src : p.src = s.cur ∧ p.pc = s.me.pc
  waits : p.stage = .held ∨ p.stage = .ni ∨ p.stage = .torus
  own : p.own = true ↔ ∃ w ∈ p.parts.head?, s.homeKind w.addr = .scratch s.cur
  cross : p.cross = false ↔ p.dest = s.cur / 144
  usc : p.inUsc = ((p.wr || p.op.isAtom || p.op.isTst) && !p.own)
  kept : t.mem = s.mem ∧ t.loft = s.loft ∧ t.launches = s.launches ∧ t.rings = s.rings ∧ t.cur = s.cur ∧
    ∀ c, c ≠ s.cur → t.core c = s.core c

/-- What a store's acknowledgement count and the ports to confirm become at the sending core. -/
def counted (p : Packet) (k t : Core) : Prop :=
  ∃ ports, t = { k with usc := if p.inUsc then k.usc + 1 else k.usc, svlPorts := k.svlPorts ++ ports } ∧
    ∀ n ∈ ports, n ∉ k.svlPorts

/-- The LD widths of R99: bytes and signedness. -/
def loadTable : List ((Reg → Reg → BitVec 11 → Instr) × Nat × Bool) :=
  [(.ldZ8, 1, false), (.ldZ16, 2, false), (.ldZ32, 4, false), (.ldZ64, 8, false), (.ldS8, 1, true), (.ldS16, 2, true),
   (.ldS32, 4, true)]

def storeTable : List ((Reg → Reg → BitVec 11 → Instr) × Nat) :=
  [(.stZ8, 1), (.stZ16, 2), (.stZ32, 4), (.stZ64, 8)]

end Sys2Proof.Claims

/-- R100, R101, R167: where the checks of the address EA = g[a] + SignExt(imm11) pass and lead to home address `h`, a load
sends one read of the word of `h`, empties g[d] (but g0), and goes on; a store sends one masked write of its bytes, is counted
in `usc` where its home is not the core's own scratchpad, and goes on. Nothing else changes: no byte of memory. -/
def Sys2Proof.Claims.LoadsAndStoresSendOneWord : Prop :=
  ∀ (s : State) (d a : Reg) (i : BitVec 11) (h : Nat) (dev : Bool), fullAt s.me [.g a, .g d] → unheld s →
    let ea := s.me.gr a + BitVec.ofInt 64 i.toInt
    (∀ e ∈ loadTable, s.target ea e.2.1 .read = (.at h dev, s) →
      ∃ t p, exec (e.1 d a i) s = .next t ∧ Sent s t p ∧ p.op = .ld d e.2.1 e.2.2 (h % 8) ∧ p.parts = [⟨h, 0, 0⟩] ∧ p.rd = true ∧
        p.wr = false ∧ p.va = ea ∧ p.device = dev ∧
        t.me = { s.me with pc := s.me.pc + 4, stall := false,
                           gfull := if d = 0 then s.me.gfull else s.me.gfull &&& ~~~(1#64 <<< d.val) }) ∧
    (∀ e ∈ storeTable, s.target ea e.2 .write = (.at h dev, s) → s.me.usc ≠ 1023 →
      ∃ t p k, exec (e.1 d a i) s = .next t ∧ Sent s t p ∧ p.op = .st false ∧ p.rd = false ∧ p.wr = true ∧ p.va = ea ∧
        p.device = dev ∧
        p.parts = [⟨h, BitVec.ofNat 64 ((2 ^ (8 * e.2) - 1) * 2 ^ (8 * (h % 8))),
          BitVec.ofNat 64 ((s.me.gr d).toNat % 2 ^ (8 * e.2) * 2 ^ (8 * (h % 8)))⟩] ∧
        counted p s.me k ∧ t.me = { k with pc := s.me.pc + 4, stall := false })

/-- R101: a store whose home is another than the core's own scratchpad waits while `usc` is 1023; R243, R296: loads and stores
wait while an acquire holds them. Nothing but the mark of the wait changes. -/
def Sys2Proof.Claims.StoresWaitForRoomAndFences : Prop :=
  ∀ (s : State) (d a : Reg) (i : BitVec 11) (h : Nat) (dev : Bool), fullAt s.me [.g a, .g d] →
    let ea := s.me.gr a + BitVec.ofInt 64 i.toInt
    let waits := fun j : Instr => exec j s = .next (s.modMe fun k => { k with stall := true })
    (∀ e ∈ storeTable, unheld s → s.target ea e.2 .write = (.at h dev, s) → s.homeKind h ≠ .scratch s.cur → s.me.usc = 1023 →
      waits (e.1 d a i)) ∧
    (¬ unheld s → (∀ e ∈ storeTable, waits (e.1 d a i)) ∧ ∀ e ∈ loadTable, waits (e.1 d a i))

/-- R146, R147: LDB reads the one or two words of its own scratchpad that its run of bits touches; STB writes exactly the bits
of the run: of every word that it names, the bit of each run bit alone; an address outside the scratchpad raises
ACCESS_VIOLATION. -/
def Sys2Proof.Claims.BitAccessesReachTheirBits : Prop :=
  ∀ (s : State) (d a : Reg) (w : Fin 64) (q : Bool), fullAt s.me [.g a, .g d] → unheld s →
    let p := s.me.gr a
    (2 ^ 22 < p.toNat + (w.val + 1) →
      exec (.ldb d a w q) s = .next (s.trap .accessViolation p) ∧ exec (.stb d a w q) s = .next (s.trap .accessViolation p)) ∧
    (p.toNat + (w.val + 1) ≤ 2 ^ 22 →
      (∃ t k, exec (.ldb d a w q) s = .next t ∧ Sent s t k ∧ k.op = .ldb d (p.toNat % 64) (w.val + 1) ∧
        k.parts.map (·.addr) = (if p.toNat % 64 + w.val < 64 then [2 ^ 52 + s.cur * 2 ^ 19 + p.toNat / 64 * 8]
          else [2 ^ 52 + s.cur * 2 ^ 19 + p.toNat / 64 * 8, 2 ^ 52 + s.cur * 2 ^ 19 + p.toNat / 64 * 8 + 8]) ∧
        t.me = { s.me with pc := s.me.pc + 4, stall := false,
                           gfull := if d = 0 then s.me.gfull else s.me.gfull &&& ~~~(1#64 <<< d.val) }) ∧
      (∃ t k, exec (.stb d a w q) s = .next t ∧ Sent s t k ∧ k.op = .st true ∧
        (∀ x ∈ k.parts, x.addr = 2 ^ 52 + s.cur * 2 ^ 19 + x.addr % 2 ^ 19 / 8 * 8 ∧ ∀ b < 64,
          (x.mask.getLsbD b = true ↔ p.toNat ≤ 8 * (x.addr % 2 ^ 19) + b ∧ 8 * (x.addr % 2 ^ 19) + b ≤ p.toNat + w.val) ∧
          (x.mask.getLsbD b = true → x.data.getLsbD b = (s.me.gr d).getLsbD (8 * (x.addr % 2 ^ 19) + b - p.toNat))) ∧
        (∀ n, p.toNat ≤ n → n ≤ p.toNat + w.val → ∃ x ∈ k.parts, x.addr = 2 ^ 52 + s.cur * 2 ^ 19 + n / 64 * 8) ∧
        t.me = { s.me with pc := s.me.pc + 4, stall := false }))

/-- The scalar loads and stores, and the bit accesses: what each sends, where it traps, and what it leaves. -/
def Obligations.ScalarAccessesAreSent : Prop := LoadsAndStoresSendOneWord ∧ BitAccessesReachTheirBits

namespace Sys2Proof.Claims
open Sys2Proof.Machine

/-- Packet `n` stands at its home on its own frond, first to its words (R281), with a word still to access; no copy's event
holds one of its words (R289). -/
structure AtHome (s : State) (n : Nat) (p : Packet) (w : Part) (rest : List Part) : Prop where
  here : s.packet? n = some p
  stage : p.stage = .torus
  same : p.cross = false
  first : s.firstToWords p = true
  free : ∀ q ∈ s.net, q.stage = .landing → ∀ a ∈ p.words, a ∉ q.words
  parts : p.parts = w :: rest

/-- A read or write of words, no atomic (R248). -/
def plainAccess : PktOp → Prop
  | .ld .. | .ldb .. | .st _ | .vldt .. | .topk .. => True
  | _ => False

/-- The packets of a state with one replaced. -/
def withPacket (s : State) (p : Packet) : List Packet := s.net.map fun q => if q.id = p.id then p else q

/-- The home of an address that holds bytes, answers, and has no uncorrectable error in the word: HBM4E of a ready stack, or a
scratchpad. `h` is below 2^40 (R81) or in a scratchpad (R82). -/
def plainHome (s : State) (h : Nat) : Prop :=
  (h < 2 ^ 40 ∧ s.stackReady (h / 2 ^ 36) = true ∨ 2 ^ 52 ≤ h) ∧ h / 8 * 8 ∉ s.eccBad

/-- The word that a read of a core's own scratchpad sees (R102, R298): over each bit of memory the last of the core's earlier
stores that name it and have still to be performed. -/
def seenOver (s : State) (p : Packet) (a : Nat) (w v : Word) : Prop :=
  let stores := s.net.filter fun q => q.src = p.src && decide (q.id < p.id) && (q.stage != .reply && q.stage != .error)
  ∀ b < 64, v.getLsbD b =
    match (stores.flatMap (·.stored)).reverse.find? fun x => x.addr / 8 * 8 == a && x.mask.getLsbD b with
    | some x => x.data.getLsbD b
    | none => w.getLsbD b

end Sys2Proof.Claims

/-- R248, R3, R102: HOME_ACCESS performs the next word of a read or write: a read takes the word as it is, or of the core's own
scratchpad as the core's earlier stores leave it (log entry 90), and changes no byte of memory; a masked write gives every bit of the word that the mask names the bit of the data and leaves every other bit, and every
byte outside the word keeps its value. With its last word the reply begins. -/
def Sys2Proof.Claims.HomeAccessPerformsOneWord : Prop :=
  ∀ (s : State) (n : Nat) (p : Packet) (w : Part) (rest : List Part), AtHome s n p w rest → plainAccess p.op →
    plainHome s w.addr → s.mem.wf = true →
    let a := w.addr / 8 * 8
    let stage := if rest = [] then Stage.reply else p.stage
    (w.mask = 0 → (∀ b, p.op ≠ .st b) → a ∉ s.eccOne →
      ∃ v, (if p.own then seenOver s p a (s.mem.readWord a) v else v = s.mem.readWord a) ∧
        exec (.homeAccess n) s = .next { s with net := withPacket s { p with
          parts := rest, got := p.got ++ [(a, v)], stage := stage } }) ∧
    (w.mask ≠ 0 → ∃ t, exec (.homeAccess n) s = .next t ∧ t.net = withPacket s { p with
        parts := rest, got := p.got ++ [(a, 0)], stage := stage } ∧
      (∀ b < 64, (t.mem.readWord a).getLsbD b = if w.mask.getLsbD b then w.data.getLsbD b else (s.mem.readWord a).getLsbD b) ∧
      (∀ x, x < a ∨ a + 8 ≤ x → t.mem.read x = s.mem.read x) ∧ t.cores = s.cores ∧ t.loft = s.loft ∧ t.launches = s.launches)

/-- R97, R98, R129: a word at a home that does not answer, or with an uncorrectable error, gives an error response instead: it
changes no byte, and when it arrives the access is written to its frond's access error log as entry COUNT mod 64 (R425: the address, the PC, the
core and the launch), and ACCESS_VIOLATION is pending
at the core with the address; the register of a load stays as it is. -/
def Sys2Proof.Claims.ErrorResponsesAreReported : Prop :=
  (∀ (s : State) (n : Nat) (p : Packet) (w : Part) (rest : List Part), AtHome s n p w rest → plainAccess p.op →
    w.addr < 2 ^ 40 → s.stackReady (w.addr / 2 ^ 36) = false ∨ w.addr / 8 * 8 ∈ s.eccBad → (∀ b, p.op = .st b → b = false) →
    (∀ r pos n, p.op ≠ .ldb r pos n) → (∀ r x, p.op ≠ .vldt r x) → (∀ r x, p.op ≠ .topk r x) →
    exec (.homeAccess n) s = .next { s with net := withPacket s { p with
      stage := .error, parts := [], bad := p.va, logged := p.va } }) ∧
  (∀ (s : State) (n : Nat) (p : Packet), s.packet? n = some p → p.stage = .error → p.stamp = none →
    (∀ x off, p.op ≠ .amax x off) → (∀ e i w ws, p.op ≠ .engRead e i w ws) → (∀ e i m w ws, p.op ≠ .engWrite e i m w ws) →
    (s.core p.src).force = ForceUnit.idle →
    ∃ t, exec (.errorResponse n) s = .next t ∧ t.mem = s.mem ∧ t.net = s.net.filter (fun q => q.id ≠ p.id) ∧
      t.core p.src = { s.core p.src with
        usc := if p.inUsc then (s.core p.src).usc - 1 else (s.core p.src).usc
        holdAtom := (s.core p.src).holdAtom.filter (· ≠ p.id), holdFence := (s.core p.src).holdFence.filter (· ≠ p.id)
        pending := (s.core p.src).pending ++ [⟨2, 0x09, p.bad, none, p.id⟩] } ∧
      (∀ f, (mapGet ErrorLog.reset t.logs f).count = (mapGet ErrorLog.reset s.logs f).count + if f = p.src / 144 then 1 else 0) ∧
      ∀ f e, mapGet [] (mapGet ErrorLog.reset t.logs f).entries e =
        if f = p.src / 144 ∧ e = (mapGet ErrorLog.reset s.logs f).count.toNat % 64 then
          [p.logged, BitVec.ofNat 64 (p.pc.toNat % 2 ^ 56),
           BitVec.ofNat 64 (p.src / 144 * 256 + p.src % 144 / 12 * 16 + p.src % 12),
           BitVec.ofNat 64 ((match s.launchOf p.src with | some l => l.launchid.toNat | none => 0) * 2 ^ 32)]
        else mapGet [] (mapGet ErrorLog.reset s.logs f).entries e)

/-- What an access does at its home, and what an error response does at its core. -/
def Obligations.HomesAnswer : Prop := HomeAccessPerformsOneWord ∧ ErrorResponsesAreReported

/-- R100, R169, R56: REGISTER_FILL delivers a load's value: the bytes at the offset, zero- or sign-extended, and the
register becomes full; a register that is full already keeps its value, and UNARMED_FILL is pending with the class, the file and
the register. The packet is gone. -/
def Sys2Proof.Claims.LoadsFillTheirRegister : Prop :=
  ∀ (s : State) (n : Nat) (p : Packet) (d : Reg) (w off : Nat) (signed : Bool) (a : Nat) (x : Word),
    s.packet? n = some p → p.stage = .reply → p.stamp = none → p.inUsc = false → p.op = .ld d w signed off → p.got = [(a, x)] →
    0 < w → off + w ≤ 8 → d ≠ 0 →
    let k := s.core p.src
    let k' := { k with holdAtom := k.holdAtom.filter (· ≠ p.id), holdFence := k.holdFence.filter (· ≠ p.id) }
    let v := x.toNat / 2 ^ (8 * off) % 2 ^ (8 * w)
    let val := if signed ∧ 2 ^ (8 * w - 1) ≤ v then BitVec.ofInt 64 ((v : Int) - 2 ^ (8 * w)) else BitVec.ofNat 64 v
    exec (.registerFill n) s = .next ({ s with net := s.net.filter fun q => q.id ≠ p.id }.setCore p.src
      (if k.gIsFull d then { k' with pending := k.pending ++ [(⟨4, 0x03, BitVec.ofNat 64 (1 * 2 ^ 8 + d.val), none, p.id⟩ : Pending)] }
        else { k' with g := k.g.set d.val val d.isLt, gfull := k.gfull ||| 1#64 <<< d.val }))

/-- R101, R244: STORE_ACK of a store takes it from the network, and `usc` counts one less where it was counted. -/
def Sys2Proof.Claims.StoreAcksLowerTheCount : Prop :=
  ∀ (s : State) (n : Nat) (p : Packet) (b : Bool), s.packet? n = some p → p.stage = .reply → p.stamp = none → p.op = .st b →
    let k := s.core p.src
    exec (.storeAck n) s = .next ({ s with net := s.net.filter fun q => q.id ≠ p.id }.setCore p.src
      { k with usc := if p.inUsc then k.usc - 1 else k.usc
               holdAtom := k.holdAtom.filter (· ≠ p.id), holdFence := k.holdFence.filter (· ≠ p.id) })

/-! ## Atomics and FENCE -/

namespace Sys2Proof.Claims
open Sys2Proof.Machine

/-- What an ordering waits for (R243, R304): a release, for the core's earlier loads and atomics to have returned, its
TSTATs to have been answered and its earlier writes to have been acknowledged; `.sc` at `.system` scope, for the visibility confirmations. -/
def ordered (s : State) (o : MemOrder) (sc : MemScope) : Prop :=
  (o = .rel ∨ o = .ar ∨ o = .sc →
    (∀ p ∈ s.net, p.src = s.cur → p.op.isLoad = false ∧ p.op.isAtom = false ∧
      (p.op.isStat = true ∨ p.wr = true → p.stage = .reply ∨ p.stage = .error)) ∧ s.me.usc = 0) ∧
  (o = .sc → sc = .system → s.me.svlPorts = [])

/-- The atomics of R74 with an nr bit: the instruction, its op-type code, its width in bytes, whether g[d] is its operand, whether
g[d + 1] is its second operand, and whether it returns the old value. -/
def atomForms (t : AtomOps) (nr : Bool) : List (Instr × Nat × Nat × Bool × Bool × Bool) :=
  [(.aaddZ32 t nr, 0x00, 4, true, false, !nr), (.aaddZ64 t nr, 0x01, 8, true, false, !nr),
   (.aminS32 t nr, 0x02, 4, true, false, !nr), (.aminS64 t nr, 0x03, 8, true, false, !nr),
   (.aminZ32 t nr, 0x04, 4, true, false, !nr), (.aminZ64 t nr, 0x05, 8, true, false, !nr),
   (.amaxS32 t nr, 0x06, 4, true, false, !nr), (.amaxS64 t nr, 0x07, 8, true, false, !nr),
   (.amaxZ32 t nr, 0x08, 4, true, false, !nr), (.amaxZ64 t nr, 0x09, 8, true, false, !nr),
   (.aandZ32 t nr, 0x0A, 4, true, false, !nr), (.aandZ64 t nr, 0x0B, 8, true, false, !nr),
   (.aorZ32 t nr, 0x0C, 4, true, false, !nr), (.aorZ64 t nr, 0x0D, 8, true, false, !nr),
   (.axorZ32 t nr, 0x0E, 4, true, false, !nr), (.axorZ64 t nr, 0x0F, 8, true, false, !nr),
   (.aswapZ32 t nr, 0x10, 4, true, false, !nr), (.aswapZ64 t nr, 0x11, 8, true, false, !nr),
   (.acasZ32 t, 0x12, 4, true, true, true), (.acasZ64 t, 0x13, 8, true, true, true),
   (.afaddF32 t nr, 0x14, 4, true, false, !nr), (.afaddBf16x2 t nr, 0x15, 4, true, false, !nr),
   (.asnapZ32 t, 0x16, 4, false, false, true), (.asnapZ64 t, 0x17, 8, false, false, true),
   (.aldZ32 t, 0x18, 4, false, false, true), (.aldZ64 t, 0x19, 8, false, false, true),
   (.astZ32 t, 0x1A, 4, true, false, false), (.astZ64 t, 0x1B, 8, true, false, false)]

/-- A number of `n` bits read as two's complement. -/
def signedOf (n m : Nat) : Int := if 2 ^ (n - 1) ≤ m then (m : Int) - 2 ^ n else m

/-- R245: the new value of memory under an op-type but AFADD, for an old value and operands of `n` bits. -/
def atomValue (code n m x y : Nat) : Nat :=
  match code / 2 with
  | 0 => (m + x) % 2 ^ n
  | 1 => if signedOf n x ≤ signedOf n m then x else m
  | 2 => min m x
  | 3 => if signedOf n m ≤ signedOf n x then x else m
  | 4 => max m x
  | 5 => m &&& x
  | 6 => m ||| x
  | 7 => m ^^^ x
  | 8 => x
  | 9 => if m = x then y else m
  | 11 => 0
  | 12 => m
  | _ => x

end Sys2Proof.Claims

/-- R240, R242, R243, R244, R295, R304: an address whose checks fail traps, before an ALD or ASNAP waits for g[d], which it does
not read. Once its address checks pass and its ordering is met, an atomic sends its packet with the
operands of its op-type, as a read (but AST) and a write (but ALD; an ACAS leaves its ports to confirm until it writes), is counted in `usc`, empties g[d] where it returns the old value, holds later accesses where it
acquires, and goes on. Nothing else changes: memory is written only at the home. -/
def Obligations.AtomicsAreSent : Prop :=
  (∀ (s : State) (t : AtomOps) (nr : Bool) (x : Cause), unheld s → ∀ e ∈ atomForms t nr,
    fullAt s.me (.g t.a :: if e.2.2.2.2.1 then [.g t.d, .g (regUp t.d 1)] else if e.2.2.2.1 then [.g t.d] else []) →
    s.target (s.me.gr t.a) e.2.2.1 .rw = (.trap x, s) → exec e.1 s = .next (s.trap x (s.me.gr t.a))) ∧
  (∀ (s : State) (t : AtomOps) (nr : Bool) (h : Nat) (dev : Bool), unheld s → ordered s t.o t.s → s.me.usc ≠ 1023 →
    ∀ e ∈ atomForms t nr, fullAt s.me ([.g t.a, .g t.d] ++ if e.2.2.2.2.1 then [.g (regUp t.d 1)] else []) →
      s.target (s.me.gr t.a) e.2.2.1 .rw = (.at h dev, s) →
      ∃ u p k, exec e.1 s = .next u ∧ Sent s u p ∧ p.parts = [⟨h, 0, 0⟩] ∧ p.va = s.me.gr t.a ∧ p.rd = decide (e.2.1 < 0x1A) ∧
        p.wr = decide (e.2.1 ≠ 0x18 ∧ e.2.1 ≠ 0x19) ∧
        p.op = .atom e.2.1 (if e.2.2.2.1 then s.me.gr t.d else 0) (if e.2.2.2.2.1 then s.me.gr (regUp t.d 1) else 0)
          (!e.2.2.2.2.2) t.d (h % 8) ∧
        counted p s.me k ∧ (e.2.1 ∈ [0x12, 0x13, 0x18, 0x19] → k.svlPorts = s.me.svlPorts) ∧
        u.me = { k with
          pc := s.me.pc + 4, stall := false
          gfull := if e.2.2.2.2.2 = true ∧ t.d ≠ 0 then k.gfull &&& ~~~(1#64 <<< t.d.val) else k.gfull
          holdAtom := if t.o = .acq ∨ t.o = .ar ∨ t.o = .sc then k.holdAtom ++ [p.id] else k.holdAtom })

/-- R245, R248: ATOMIC_AT_HOME performs an integer atomic in one step: the old value of its 4 or 8 bytes goes into the reply, and
those bytes get the new value of R245's table; the word's other bytes, and every other byte of memory, stay. -/
def Sys2Proof.Claims.AtomicsComputeAtTheirHome : Prop :=
  ∀ (s : State) (n : Nat) (p : Packet) (w : Part) (rest : List Part) (code : Nat) (x y : Word) (nr : Bool) (r : Reg) (off : Nat),
    AtHome s n p w rest → rest = [] → p.op = .atom code x y nr r off → p.merged = [] → code < 0x1C → code / 2 ≠ 10 → plainHome s w.addr →
    s.mem.wf = true → w.addr / 8 * 8 ∉ s.eccOne → w.addr % (if code % 2 = 0 then 4 else 8) = 0 →
    let a := w.addr / 8 * 8
    let width := if code % 2 = 0 then 32 else 64
    let at' := 8 * (w.addr % 8)
    let field := fun v : Word => v.toNat / 2 ^ at' % 2 ^ width
    let old := field (s.mem.readWord a)
    ∃ t, exec (.atomicAtHome n) s = .next t ∧
      t.net = withPacket s { p with stage := .reply, parts := [], got := [(a, BitVec.ofNat 64 old)], flags := 0 } ∧
      field (t.mem.readWord a) = atomValue code width old (x.toNat % 2 ^ width) (y.toNat % 2 ^ width) ∧
      (∀ b, b < at' ∨ at' + width ≤ b → (t.mem.readWord a).getLsbD b = (s.mem.readWord a).getLsbD b) ∧
      (∀ c, c < a ∨ a + 8 ≤ c → t.mem.read c = s.mem.read c) ∧ (∀ c, t.core c = s.core c) ∧ t.loft = s.loft

/-- R246, R247: AFADD.f32 of two numbers that are not NaN writes their sum rounded to nearest even, and ORs the flags that it
raises into the flag word of its launch for the home's frond; where it raises none, no other word changes. -/
def Sys2Proof.Claims.FloatAtomicsRoundAndFlag : Prop :=
  ∀ (s : State) (n : Nat) (p : Packet) (w : Part) (rest : List Part) (x y : Word) (nr : Bool) (r : Reg) (off : Nat) (l : Launch),
    AtHome s n p w rest → p.op = .atom 0x14 x y nr r off → p.merged = [] → s.launchOf p.src = some l → plainHome s w.addr →
    s.mem.wf = true → w.addr / 8 * 8 ∉ s.eccOne → w.addr % 4 = 0 →
    let a := w.addr / 8 * 8
    let at' := 8 * (w.addr % 8)
    let m : Word32 := BitVec.ofNat 32 ((s.mem.readWord a).toNat / 2 ^ at')
    let sum := fadd32 .rne 0 m (x.setWidth 32)
    let f := if 2 ^ 52 ≤ w.addr then (w.addr - 2 ^ 52) / 2 ^ 19 / 144 else w.addr / 2 ^ 37
    let flag := f * 2 ^ 37 + l.flagOff + 8 * f
    (dec32 m).isNaN = false → (dec32 (x.setWidth 32)).isNaN = false → flag < 2 ^ 40 → flag % 8 = 0 → flag ≠ a → plainHome s flag →
    flag ∉ s.eccOne →
    ∃ t, exec (.atomicAtHome n) s = .next t ∧
      BitVec.ofNat 32 ((t.mem.readWord a).toNat / 2 ^ at') = sum.1 ∧
      (∀ b < 64, (t.mem.readWord flag).getLsbD b =
        ((s.mem.readWord flag).getLsbD b || (decide (b < 5) && sum.2.getLsbD b))) ∧
      (∀ c, (c < a ∨ a + 8 ≤ c) → (c < flag ∨ flag + 8 ≤ c) → t.mem.read c = s.mem.read c) ∧
      t.net = withPacket s { p with stage := .reply, parts := [], got := [(a, m.zeroExtend 64)], flags := sum.2 }

/-- What each atomic stores and answers at its home, the floating-point sums with their rounding and flags. -/
def Obligations.AtomicsActAtTheirHome : Prop := AtomicsComputeAtTheirHome ∧ FloatAtomicsRoundAndFlag

/-- R240, R247, R169: the reply of an atomic that returns a value ORs its flags into `fcsr` and fills g[d] with the old value,
sign-extended for the signed 32-bit op-types; the count and the holds on later accesses are released. -/
def Sys2Proof.Claims.AtomicRepliesFillTheirRegister : Prop :=
  ∀ (s : State) (n : Nat) (p : Packet) (code : Nat) (x y : Word) (r : Reg) (off a : Nat) (old : Word),
    s.packet? n = some p → p.stage = .reply → p.stamp = none → p.op = .atom code x y false r off → p.got = [(a, old)] →
    (a < 2 ^ 40 ∨ 2 ^ 52 ≤ a) → r ≠ 0 → (s.core p.src).gIsFull r = false →
    let k := s.core p.src
    let v := if code = 0x02 ∨ code = 0x06 then BitVec.ofInt 64 (signedOf 32 (old.toNat % 2 ^ 32)) else old
    exec (.registerFill n) s = .next ({ s with net := s.net.filter fun q => q.id ≠ p.id }.setCore p.src
      { k with
        usc := if p.inUsc then k.usc - 1 else k.usc
        holdAtom := k.holdAtom.filter (· ≠ p.id), holdFence := k.holdFence.filter (· ≠ p.id)
        fcsr := k.fcsr ||| (p.flags.zeroExtend 64 <<< 4)
        g := k.g.set r.val v r.isLt, gfull := k.gfull ||| 1#64 <<< r.val })

/-- What the replies of loads, stores and atomics do at the core that sent them. -/
def Obligations.RepliesReachTheirCore : Prop := LoadsFillTheirRegister ∧ StoreAcksLowerTheCount ∧ AtomicRepliesFillTheirRegister

/-- R250: ROUTER_MERGE joins two atomics of one op-type below 0x10 to the same bytes, both on their way: the second rides on the
first, behind those that ride on it already, and nothing is performed. -/
def Sys2Proof.Claims.RoutersMergeAtomics : Prop :=
  ∀ (s : State) (n m : Nat) (p q : Packet) (code : Nat) (x y u v : Word) (b c : Bool) (d e : Reg) (i j : Nat),
    s.packet? n = some p → s.packet? m = some q → n ≠ m → p.stage = .torus → q.stage = .torus → p.cross = false → q.cross = false →
    p.own = false → q.own = false → p.parts = q.parts → p.op = .atom code x y b d i → q.op = .atom code u v c e j → code < 0x10 →
    (p.src = q.src → p.id < q.id) →
    exec (.routerMerge n m) s = .next { s with net := s.net.map fun z =>
      if z.id = m then { q with stage := .merged, merged := [] }
      else if z.id = n then { p with merged := p.merged ++ m :: q.merged } else z }

/-- R296: FENCE goes on once its ordering is met (a release waits for the replies of the core's TSTATs as well); an acquire holds later accesses
for every load, TSTAT, atomic and TST of the core in flight. -/
def Sys2Proof.Claims.FencesOrderAccesses : Prop :=
  ∀ (s : State) (o : MemOrder) (sc : MemScope), ordered s o sc →
    (o = .rel ∨ o = .ar ∨ o = .sc → ∀ p ∈ s.net, p.src = s.cur → p.op.isStat = false) →
    ∃ ids, exec (.fence o sc) s = .next (s.modMe fun k =>
        { k with holdFence := k.holdFence ++ ids, pc := k.pc + 4, stall := false }) ∧
      (o = .acq ∨ o = .ar ∨ o = .sc → ∀ i, i ∈ ids ↔ ∃ p ∈ s.net, p.id = i ∧ p.src = s.cur ∧
        (p.op.isLoad = true ∨ p.op.isStat = true ∨ p.op.isAtom = true ∨ p.op.isTst = true)) ∧
      (o = .rlx ∨ o = .rel → ids = [])

/-- Where a store and a fence wait, and what a fence that has ended leaves. -/
def Obligations.StoresAndFencesWait : Prop := StoresWaitForRoomAndFences ∧ FencesOrderAccesses

/-! ## The vector unit -/

namespace Sys2Proof.Claims
open Sys2Proof.Machine

/-- Whether lane `i` is active (R184): the prefix's mask register, m0 (all ones) where there is no prefix. -/
def active (k : Core) (x : Option Pfx) (i : Nat) : Bool :=
  match x with
  | none => true
  | some p => if p.mask = 0 then true else (k.m.get p.mask).getLsbD i

/-- What an instruction's mz says of the inactive lanes (R184): zeroed, or kept. -/
def zeroes (x : Option Pfx) : Bool := match x with | some p => p.mz | none => false

/-- The bytes of an instruction (R64). -/
def bytesOf (x : Option Pfx) : Word := match x with | some _ => 8 | none => 4

def lane (k : Core) (r : Reg) (i : Nat) : Word32 := (k.v.get r).toList.getD i 0

/-- A register with a value for every active lane (R184). -/
def merged (k : Core) (x : Option Pfx) (d : Reg) (f : Nat → Word32) : VReg :=
  Vector.ofFn fun i => if active k x i.val then f i.val else if zeroes x then 0 else (k.v.get d).get i

/-- The OR of the active lanes' flags. -/
def orActive (k : Core) (x : Option Pfx) (f : Nat → BitVec 5) : BitVec 5 :=
  (List.range 32).foldl (fun g i => if active k x i then g ||| f i else g) 0

/-- Flags in `fcsr`[8:4] (R117). -/
def withFlags (k : Core) (f : BitVec 5) : Word := k.fcsr ||| (f.zeroExtend 64 <<< 4)

/-- A vector register written lane by lane, its flags raised, and the stream gone on (R184, R185). -/
def wroteLanes (x : Option Pfx) (d : Reg) (f : Nat → Word32 × BitVec 5) (k : Core) : Core :=
  { k with v := k.v.set d.val (merged k x d fun i => (f i).1) d.isLt
           fcsr := withFlags k (orActive k x fun i => (f i).2), pc := k.pc + bytesOf x, stall := false }

/-- The mode that an instruction's rounding resolves to (R77, R185): the prefix's, else that of `fcsr`[2:0]. -/
abbrev resolves (k : Core) (x : Option Pfx) (m : RoundMode) : Prop :=
  x.bind (·.rm) = some m ∨ x.bind (·.rm) = none ∧ (k.fcsr.toNat % 8, m) ∈
    [(1, RoundMode.rne), (2, RoundMode.rtz), (3, RoundMode.rdn), (4, RoundMode.rup), (5, RoundMode.rmm), (6, RoundMode.sr)]

/-- The draw of a lane (R121). -/
def drawOf (k : Core) (m : RoundMode) (i : Nat) : Nat := srDraw m k.srkey 0 i (k.pc.toNat % 2 ^ 32)

/-- A sign bit set, cleared or inverted. -/
def signed (b : Bool) (x : Word32) : Word32 := BitVec.ofNat 32 (x.toNat % 2 ^ 31 + if b then 2 ^ 31 else 0)

/-- The fourth operand (R65). -/
def fourth (x : Option Pfx) : Reg := match x with | some p => p.q4 | none => 0

/-- Majors 0x10 and 0x11 (R190): the instruction, its sources, whether it rounds, and the lane rule of coefficient 0 for the mode,
the draw and the sources' lanes. -/
def jetForms (x : Option Pfx) (r : R3) :
    List (Instr × List Reg × Bool × (RoundMode → Nat → (Nat → Word32) → Word32 × BitVec 5)) :=
  let u : R2 := ⟨r.d, r.a, r.pa⟩
  [(.vadd x r, [r.a, r.b], true, fun m n s => fadd32 m n (s 0) (s 1)),
   (.vsub x r, [r.a, r.b], true, fun m n s => fsub32 m n (s 0) (s 1)),
   (.vmul x r, [r.a, r.b], true, fun m n s => fmul32 m n (s 0) (s 1)),
   (.vdiv x r, [r.a, r.b], true, fun m n s => fdiv32 m n (s 0) (s 1)),
   (.vfma x r, [r.a, r.b, fourth x], true, fun m n s => ffma32 m n false false (s 0) (s 1) (s 2)),
   (.vfms x r, [r.a, r.b, fourth x], true, fun m n s => ffma32 m n false true (s 0) (s 1) (s 2)),
   (.vfnma x r, [r.a, r.b, fourth x], true, fun m n s => ffma32 m n true false (s 0) (s 1) (s 2)),
   (.vmin x r, [r.a, r.b], false, fun _ _ s => fminmax32 false (s 0) (s 1)),
   (.vmax x r, [r.a, r.b], false, fun _ _ s => fminmax32 true (s 0) (s 1)),
   (.vabs x u, [r.a], false, fun _ _ s => (signed false (s 0), 0)),
   (.vneg x u, [r.a], false, fun _ _ s => (signed (!(s 0).msb) (s 0), 0)),
   (.vcpys x r, [r.a, r.b], false, fun _ _ s => (signed (s 1).msb (s 0), 0)),
   (.vexp2 x u, [r.a], true, fun m n s => special32 .exp2 m n (s 0)),
   (.vlog2 x u, [r.a], true, fun m n s => special32 .log2 m n (s 0)),
   (.vsinpi x u, [r.a], true, fun m n s => special32 .sinpi m n (s 0)),
   (.vcospi x u, [r.a], true, fun m n s => special32 .cospi m n (s 0)),
   (.vrcp x u, [r.a], true, fun m n s => special32 .rcp m n (s 0)),
   (.vrsqrt x u, [r.a], true, fun m n s => special32 .rsqrt m n (s 0)),
   (.vsqrt x u, [r.a], true, fun m n s => special32 .sqrt m n (s 0)),
   (.vtanh x u, [r.a], true, fun m n s => special32 .tanh m n (s 0))]

/-- Lane `i` of each source register of a list. -/
def lanesOf (k : Core) (srcs : List Reg) (i : Nat) : Nat → Word32 := fun j => lane k (srcs.getD j 0) i

/-- G at an order (R58). -/
def groupSize (order : Nat) : Nat := if order = 0 then 1 else if order = 1 then 2 else if order < 4 then 4 else 8

/-- Jet registers written (R206, R207, R216): coefficient c into v[d + c], its flags into field c of `jfl` at order ≥ 1, and
coefficient 0's flags into `fcsr`. -/
def wroteJet (x : Option Pfx) (d : Reg) (order : Nat) (f : Nat → Nat → Word32 × BitVec 5) (k : Core) : Core :=
  { k with
    v := Vector.ofFn fun n : Fin 64 =>
      if d.val ≤ n.val ∧ n.val ≤ d.val + order then merged k x n (fun i => (f i (n.val - d.val)).1) else k.v.get n
    fcsr := withFlags k (orActive k x fun i => (f i 0).2)
    jfl := if order = 0 then k.jfl
      else k.jfl ||| BitVec.ofNat 40 (((List.range (order + 1)).map fun c => (orActive k x fun i => (f i c).2).toNat * 2 ^ (5 * c)).sum)
    pc := k.pc + bytesOf x, stall := false }

/-- Every coefficient register of a jet field is full. -/
abbrev jetFull (k : Core) (order : Nat) (r : Reg) : Prop := ∀ c < order + 1, k.vfull.getLsbD (r.val + c) = true

/-- What an instruction of jet fields needs before it is performed (R58, R77, R168). -/
abbrev jetReady (k : Core) (x : Option Pfx) (m : RoundMode) (d : Reg) (srcs : List Reg) (rounds : Bool) : Prop :=
  (rounds = true → resolves k x m) ∧ (∀ r ∈ d :: srcs, r.val % groupSize k.jord.toNat = 0 ∧ jetFull k k.jord.toNat r)

end Sys2Proof.Claims

/-- R190, R184, R185 (VABS and VNEG of a NaN: its sign too is cleared or inverted, the model's reading, log entry 83): at `jord` 0
the instructions of majors 0x10 and 0x11 write the lane rule's result into every active lane of
v[d], and OR the active lanes' flags into `fcsr`; nothing else changes. -/
def Sys2Proof.Claims.FloatLanesAtOrderZero : Prop :=
  ∀ (s : State) (x : Option Pfx) (r : R3) (m : RoundMode), s.me.jord = 0 → ∀ e ∈ jetForms x r,
    jetReady s.me x m r.d e.2.1 e.2.2.1 →
    exec e.1 s = .next (s.modMe fun k =>
      wroteLanes x r.d (fun i => e.2.2.2 m (drawOf k m i) (lanesOf k e.2.1 i)) k)

/-- R206, R207, R209, R216: at any order the same instructions write coefficients 0 to k of the destination group, and only those;
coefficient 0 of every active lane is what the instruction gives at order 0 (of a NaN by log entry 83), whatever the higher
coefficients are. -/
def Sys2Proof.Claims.JetLanesKeepCoefficientZero : Prop :=
  ∀ (s : State) (x : Option Pfx) (r : R3) (m : RoundMode), ∀ e ∈ jetForms x r,
    jetReady s.me x m r.d e.2.1 e.2.2.1 →
    ∃ f : Nat → Nat → Word32 × BitVec 5, exec e.1 s = .next (s.modMe (wroteJet x r.d s.me.jord.toNat f)) ∧
      ∀ i < 32, active s.me x i = true → f i 0 = e.2.2.2 m (drawOf s.me m i) (lanesOf s.me e.2.1 i)

namespace Sys2Proof.Claims
open Sys2Proof.Machine

/-- R214: a step of a higher coefficient delivers the default NaN for any NaN. -/
def canonical (x : Word32 × BitVec 5) : Word32 × BitVec 5 := (if (dec32 x.1).isNaN then 0x7FC00000 else x.1, x.2)

/-- Coefficient `n` of lane `i` of a jet field. -/
def coeff (k : Core) (r : Reg) (n i : Nat) : Word32 := lane k ⟨(r.val + n) % 64, Nat.mod_lt _ (by decide)⟩ i

end Sys2Proof.Claims

/-- R211, R213, R214: the higher coefficients of VADD, VSUB, VNEG, VABS and VCPYS, and coefficient 1 of VMUL: one rounding after
another, each with the default NaN for a NaN. -/
def Sys2Proof.Claims.JetCoefficientsFollowTheirRules : Prop :=
  ∀ (s : State) (x : Option Pfx) (r : R3) (m : RoundMode), 0 < s.me.jord.toNat →
    let u : R2 := ⟨r.d, r.a, r.pa⟩
    let k := s.me
    let out := fun (i : Instr) (top : Nat) (f : Nat → Nat → Word32 × BitVec 5) =>
      ∃ g, exec i s = .next (s.modMe (wroteJet x r.d s.me.jord.toNat g)) ∧
        ∀ j < 32, active k x j = true → ∀ n, 1 ≤ n → n ≤ top → g j n = f j n
    (jetReady k x m r.d [r.a, r.b] true →
      out (.vadd x r) k.jord.toNat (fun j n => canonical (fadd32 m (drawOf k m j) (coeff k r.a n j) (coeff k r.b n j))) ∧
      out (.vsub x r) k.jord.toNat (fun j n => canonical (fsub32 m (drawOf k m j) (coeff k r.a n j) (coeff k r.b n j))) ∧
      out (.vmul x r) 1 (fun j _ =>
        let y := canonical (fmul32 m (drawOf k m j) (coeff k r.a 0 j) (coeff k r.b 1 j))
        let z := canonical (ffma32 m (drawOf k m j) false false (coeff k r.a 1 j) (coeff k r.b 0 j) y.1)
        (z.1, y.2 ||| z.2))) ∧
    (jetReady k x m r.d [r.a] false →
      out (.vneg x u) k.jord.toNat (fun j n => (signed (!(coeff k r.a n j).msb) (coeff k r.a n j), 0)) ∧
      out (.vabs x u) k.jord.toNat (fun j n =>
        (signed ((coeff k r.a n j).msb != (coeff k r.a 0 j).msb) (coeff k r.a n j), 0))) ∧
    (jetReady k x m r.d [r.a, r.b] false → out (.vcpys x r) k.jord.toNat (fun j n =>
      (signed ((coeff k r.a n j).msb != ((coeff k r.a 0 j).msb != (coeff k r.b 0 j).msb)) (coeff k r.a n j), 0)))

/-- The floating-point lane instructions, at order 0 and over jets. -/
def Obligations.FloatLanes : Prop := FloatLanesAtOrderZero ∧ JetLanesKeepCoefficientZero ∧ JetCoefficientsFollowTheirRules

/-- R191, R184, R186: the integer lane instructions write their result into every active lane, modulo 2^32, and raise no flag;
VIADDS saturates, and sets `vstat`.ISAT where an active lane did. -/
def Sys2Proof.Claims.IntegerLaneResults : Prop :=
  ∀ (s : State) (x : Option Pfx) (r : R3), fullAt s.me [.v r.a, .v r.b, .v r.d] →
    (∀ e ∈ intTable, exec (e.1 x r) s = .next (s.modMe fun k =>
      wroteLanes x r.d (fun i => (e.2 (lane k r.a i) (lane k r.b i), 0)) k)) ∧
    (let sum := fun (k : Core) i => (lane k r.a i).toInt + (lane k r.b i).toInt
     exec (.viadds x r) s = .next (s.modMe fun k =>
      { wroteLanes x r.d (fun i => (BitVec.ofInt 32 (max (-(2 ^ 31)) (min (2 ^ 31 - 1) (sum k i))), 0)) k with
        vstat := if ∃ i < 32, active k x i = true ∧ (sum k i < -(2 ^ 31) ∨ 2 ^ 31 - 1 < sum k i) then k.vstat ||| 2 else k.vstat }))

namespace Sys2Proof.Claims
open Sys2Proof.Machine

/-- R192: each compare's bit and flags. -/
def compareTable : List ((Option Pfx → CmpOps → Instr) × (Word32 → Word32 → Bool × BitVec 5)) :=
  [(.vceq, fun a b => if (dec32 a).isNaN || (dec32 b).isNaN then (false, if (dec32 a).isSig || (dec32 b).isSig then 16 else 0)
      else (eqVal (dec32 a) (dec32 b), 0)),
   (.vclt, fun a b => if (dec32 a).isNaN || (dec32 b).isNaN then (false, 16) else (ltVal (dec32 a) (dec32 b), 0)),
   (.vcle, fun a b => if (dec32 a).isNaN || (dec32 b).isNaN then (false, 16)
      else (ltVal (dec32 a) (dec32 b) || eqVal (dec32 a) (dec32 b), 0)),
   (.viceq, fun a b => (a.toNat == b.toNat, 0)),
   (.viclt, fun a b => (decide (a.toInt < b.toInt), 0)),
   (.vicltu, fun a b => (decide (a.toNat < b.toNat), 0))]

/-- A mask register as read: m0 is all ones (R55). -/
def maskReg (k : Core) (r : MReg) : Word32 := if r = 0 then BitVec.allOnes 32 else k.m.get r

/-- A mask register written; m0 discards it (R55). -/
def wroteMask (d : MReg) (v : Word32) (n : Word) (k : Core) : Core :=
  { k with m := if d = 0 then k.m else k.m.set d.val v d.isLt, pc := k.pc + n, stall := false }

end Sys2Proof.Claims

/-- R192, R184, R55: compares write a mask bit for every lane (an inactive one keeps its bit or is cleared), VSEL selects for
every lane, and the mask instructions, MTOG and GTOM move whole masks; m0 reads as ones and discards writes. -/
def Sys2Proof.Claims.ComparesSelectAndMasks : Prop :=
  (∀ (s : State) (x : Option Pfx) (r : CmpOps), fullAt s.me [.v r.a, .v r.b] → ∀ e ∈ compareTable, ∃ v : Word32,
    (∀ i < 32, v.getLsbD i = if active s.me x i then (e.2 (lane s.me r.a i) (lane s.me r.b i)).1
      else !zeroes x && (maskReg s.me r.d).getLsbD i) ∧
    exec (e.1 x r) s = .next (s.modMe fun k =>
      { wroteMask r.d v (bytesOf x) k with
        fcsr := withFlags k (orActive k x fun i => (e.2 (lane k r.a i) (lane k r.b i)).2) })) ∧
  (∀ (s : State) (x : Option Pfx) (r : R3), fullAt s.me [.v r.a, .v r.b, .v r.d] →
    exec (.vsel x r) s = .next (s.modMe fun k =>
      { k with v := k.v.set r.d.val (Vector.ofFn fun i => if active k x i.val then lane k r.a i.val else lane k r.b i.val) r.d.isLt
               pc := k.pc + bytesOf x, stall := false })) ∧
  (∀ (s : State) (x : Option Pfx) (d a b : MReg),
    exec (.mand x d a b) s = .next (s.modMe (wroteMask d (maskReg s.me a &&& maskReg s.me b) (bytesOf x))) ∧
    exec (.mor x d a b) s = .next (s.modMe (wroteMask d (maskReg s.me a ||| maskReg s.me b) (bytesOf x))) ∧
    exec (.mxor x d a b) s = .next (s.modMe (wroteMask d (maskReg s.me a ^^^ maskReg s.me b) (bytesOf x))) ∧
    exec (.mnot x d a) s = .next (s.modMe (wroteMask d (~~~(maskReg s.me a)) (bytesOf x)))) ∧
  (∀ (s : State) (x : Option Pfx) (d : Reg) (a : MReg), s.me.gIsFull d = true →
    exec (.mtog x d a) s = .next (s.modMe fun k =>
      { k.setG d ((maskReg k a).zeroExtend 64) with pc := k.pc + bytesOf x, stall := false })) ∧
  (∀ (s : State) (x : Option Pfx) (d : MReg) (a : Reg) (p : Bool), s.me.gIsFull a = true →
    exec (.gtom x d a p) s = .next (s.modMe (wroteMask d (BitVec.ofNat 32 (s.me.gr a).toNat) (bytesOf x))))

/-- The integer lane instructions, the compares, VSEL and the mask instructions. -/
def Obligations.IntegerLanesAndMasks : Prop := IntegerLaneResults ∧ ComparesSelectAndMasks

namespace Sys2Proof.Claims
open Sys2Proof.Machine

/-- R193: the conversions that round: FP32 to an integer with saturation, an integer to FP32, FP32 to a narrower float. -/
def convertTable : List ((Option Pfx → R2 → Instr) × (RoundMode → Nat → Word32 → Word32 × BitVec 5)) :=
  [(.vcvtfi, fun m n a => let v := toInt m n (-(2 ^ 31)) (2 ^ 31 - 1) (dec32 a); (BitVec.ofInt 32 v.1, v.2)),
   (.vcvtfu, fun m n a => let v := toInt m n 0 (2 ^ 32 - 1) (dec32 a); (BitVec.ofInt 32 v.1, v.2)),
   (.vcvtif, fun m n a => round32 m n (.num a.msb a.toInt.natAbs 0)),
   (.vcvtuf, fun m n a => round32 m n (.num false a.toNat 0)),
   (.vcvth, fun m n a => let v := fmtFP16.encode m n (dec32 a); (BitVec.ofNat 32 v.1, v.2)),
   (.vcvtb, fun m n a => let v := fmtBF16.encode m n (dec32 a); (BitVec.ofNat 32 v.1, v.2)),
   (.vcvte4, fun m n a => let v := fmtE4M3.encode m n (dec32 a); (BitVec.ofNat 32 v.1, v.2)),
   (.vcvte5, fun m n a => let v := fmtE5M2.encode m n (dec32 a); (BitVec.ofNat 32 v.1, v.2))]

/-- R193: the widening conversions, and the format in the low bits of a lane. -/
def widenTable : List ((Option Pfx → R2 → Instr) × FloatFmt × Nat) :=
  [(.vwidh, fmtFP16, 16), (.vwidb, fmtBF16, 16), (.vwide4, fmtE4M3, 8), (.vwide5, fmtE5M2, 8)]

end Sys2Proof.Claims

/-- R193, R185: conversions convert every active lane, those that round under the resolved mode; of the 8-bit formats, a widened
value is shown exact: decoding the FP32 result of a number gives that number, and no flag is raised. -/
def Sys2Proof.Claims.ConversionResults : Prop :=
  (∀ (s : State) (x : Option Pfx) (r : R2) (m : RoundMode), fullAt s.me [.v r.a, .v r.d] →
    (resolves s.me x m → ∀ e ∈ convertTable, exec (e.1 x r) s = .next (s.modMe fun k =>
      wroteLanes x r.d (fun i => e.2 m (drawOf k m i) (lane k r.a i)) k)) ∧
    ∀ e ∈ widenTable, exec (e.1 x r) s = .next (s.modMe fun k =>
      wroteLanes x r.d (fun i => round32 .rne 0 (e.2.1.decode ((lane k r.a i).toNat % 2 ^ e.2.2))) k)) ∧
  (∀ e ∈ widenTable, e.2.2 = 8 → ∀ b < 2 ^ 8, ∀ neg n z, e.2.1.decode b = .num neg n z →
    (round32 .rne 0 (e.2.1.decode b)).2 = 0 ∧
    eqVal (dec32 (round32 .rne 0 (e.2.1.decode b)).1) (e.2.1.decode b) = true)

/-- R194, R184: the permutes move lanes unchanged, every source lane as it was before, and raise no flag. -/
def Sys2Proof.Claims.PermutesMoveLanes : Prop :=
  (∀ (s : State) (x : Option Pfx) (r : R3), fullAt s.me [.v r.a, .v r.b, .v r.d] →
    let goes := fun i f => exec i s = .next (s.modMe fun k => wroteLanes x r.d (fun j => (f k j, 0)) k)
    goes (.vperm x r) (fun k j => lane k r.a ((lane k r.b j).toNat % 32)) ∧
    goes (.vzip x r) (fun k j => if j % 2 = 0 then lane k r.a (j / 2) else lane k r.b (j / 2)) ∧
    goes (.vunzip x r) (fun k j => if j < 16 then lane k r.a (2 * j) else lane k r.b (2 * (j - 16)))) ∧
  (∀ (s : State) (x : Option Pfx) (d a : Reg) (n : Fin 32) (p : Bool), fullAt s.me [.v a, .v d] →
    let goes := fun i f => exec i s = .next (s.modMe fun k => wroteLanes x d (fun j => (f k j, 0)) k)
    goes (.vbcast x d a n p) (fun k _ => lane k a n.val) ∧
    goes (.vslideup x d a n p) (fun k j => if n.val ≤ j then lane k a (j - n.val) else 0) ∧
    goes (.vslidedn x d a n p) (fun k j => if j + n.val ≤ 31 then lane k a (j + n.val) else 0))

/-- The conversions of lanes, and the moves between lanes. -/
def Obligations.ConversionsAndPermutes : Prop := ConversionResults ∧ PermutesMoveLanes

namespace Sys2Proof.Claims
open Sys2Proof.Machine

/-- R195: a tree over its leaves. -/
inductive Tree where
  | leaf (present : Bool) (lane : Nat) (v : Word32)
  | node (l r : Tree)

/-- The tree over 2^n lanes from lane `lo`. -/
def treeOver (present : Nat → Bool) (v : Nat → Word32) : Nat → Nat → Tree
  | 0, lo => .leaf (present lo) lo (v lo)
  | n + 1, lo => .node (treeOver present v n lo) (treeOver present v n (lo + 2 ^ n))

/-- The leftmost lane of a tree. -/
def Tree.left : Tree → Nat
  | .leaf _ i _ => i
  | .node l _ => l.left

/-- A node's value, none where it is absent, and the flags of its nodes. -/
def Tree.fold (f : Nat → Word32 → Word32 → Word32 × BitVec 5) : Tree → Option Word32 × BitVec 5
  | .leaf p _ v => (if p then some v else none, 0)
  | .node l r =>
    match l.fold f, r.fold f with
    | (some a, g), (some b, h) => (some (f l.left a b).1, g ||| h ||| (f l.left a b).2)
    | (some a, g), (none, h) => (some a, g ||| h)
    | (none, g), (b, h) => (b, g ||| h)

/-- The root over the active lanes of v[a] (R196). -/
def rootOf (k : Core) (x : Option Pfx) (a : Reg) (f : Nat → Word32 → Word32 → Word32 × BitVec 5) : Option Word32 × BitVec 5 :=
  (treeOver (active k x) (lane k a) 5 0).fold f

/-- A reduction's effect: the root, or +0, in all 32 lanes. -/
def reduced (x : Option Pfx) (d : Reg) (y : Option Word32 × BitVec 5) (k : Core) : Core :=
  { k with v := k.v.set d.val (Vector.replicate 32 (y.1.getD 0)) d.isLt, fcsr := withFlags k y.2, pc := k.pc + bytesOf x, stall := false }

end Sys2Proof.Claims

/-- R195, R196: the reductions combine the active lanes along the complete binary tree, the left child first, with the draw of the
node's leftmost lane; the root goes into every lane of v[d], +0 where no lane is active. -/
def Sys2Proof.Claims.ReductionsFollowTheTree : Prop :=
  ∀ (s : State) (x : Option Pfx) (r : R2) (m : RoundMode), fullAt s.me [.v r.a, .v r.d] →
    let k := s.me
    (resolves k x m → exec (.vrsum x r) s = .next (s.modMe
      (reduced x r.d (rootOf k x r.a fun i a b => fadd32 m (drawOf k m i) a b)))) ∧
    exec (.vrmax x r) s = .next (s.modMe (reduced x r.d (rootOf k x r.a fun _ a b => fminmax32 true a b))) ∧
    exec (.vrmin x r) s = .next (s.modMe (reduced x r.d (rootOf k x r.a fun _ a b => fminmax32 false a b))) ∧
    exec (.virsum x r) s = .next (s.modMe
      (reduced x r.d (rootOf k x r.a fun _ a b => (BitVec.ofNat 32 (a.toNat + b.toNat), 0))))

/-- R202: GNORM divides every active lane by the sum of the active lanes, or gives 1/K where the sum is zero or subnormal and sets
`vstat`.GATE_UNIFORM; with no active lane it only goes on. -/
def Sys2Proof.Claims.GnormNormalises : Prop :=
  ∀ (s : State) (x : Option Pfx) (r : R2) (m : RoundMode), fullAt s.me [.v r.a, .v r.d] → resolves s.me x m →
    let k := s.me
    let n := ((List.range 32).filter (active k x)).length
    let root := rootOf k x r.a fun i a b => fadd32 m (drawOf k m i) a b
    let total := root.1.getD 0
    let uniform := total.toNat / 2 ^ 23 % 2 ^ 8 = 0
    let one := fun i => if uniform then fdiv32 m (drawOf k m i) 0x3F800000 (round32 .rne 0 (.num false n 0)).1
      else fdiv32 m (drawOf k m i) (lane k r.a i) total
    (n = 0 → exec (.gnorm x r) s = .next (s.modMe fun k => { k with pc := k.pc + bytesOf x, stall := false })) ∧
    (n ≠ 0 → exec (.gnorm x r) s = .next (s.modMe fun k =>
      { wroteLanes x r.d one k with
        fcsr := withFlags k (orActive k x (fun i => (one i).2) ||| root.2)
        vstat := if uniform then k.vstat ||| 1 else k.vstat }))

/-- The reductions over the lanes of a register, and GNORM. -/
def Obligations.ReductionsOverLanes : Prop := ReductionsFollowTheTree ∧ GnormNormalises

/-! ## Rounding -/

namespace Sys2Proof.Claims
open Sys2Proof.Machine

/-- 2^z as a rational number. -/
def pow2 (z : Int) : Rat := mkRat (2 ^ z.toNat) (2 ^ (-z).toNat)

/-- R106: the floating-point formats, the largest finite value of each, and whether it has infinities; wide32 is R115's. -/
def floatFormats : List (FloatFmt × Rat × Bool) :=
  [(fmtFP32, (2 ^ 24 - 1) * 2 ^ 104, true), (fmtFP16, 65504, true), (fmtBF16, (2 ^ 8 - 1) * 2 ^ 120, true),
   (fmtE4M3, 448, false), (fmtE5M2, 57344, true), (fmtE3M2, 28, false), (fmtE2M3, 15 / 2, false), (fmtE2M1, 6, false),
   (fmtWide, (2 ^ 32 - 1) * 2 ^ 96, true)]

/-- R106: the number that an encoding of a format stands for, where it is neither an infinity nor a NaN. -/
def valueOf (f : FloatFmt) (b : Nat) : Rat :=
  let ex := b / 2 ^ f.fbits % 2 ^ f.ebits
  let fr := b % 2 ^ f.fbits
  let v : Rat := (if ex = 0 then fr else 2 ^ f.fbits + fr : Nat) * pow2 ((max ex 1 : Nat) - f.bias - f.fbits)
  if b.testBit (f.ebits + f.fbits) then -v else v

/-- How a number compares with the magnitude `q`. -/
def against (q x : Rat) : Ordering := if x < q then .lt else if x = q then .eq else .gt

/-- R116, R119: whether a magnitude (`cmp` compares numbers with it), at or above `t` units and below `t` + 1, is rounded away
from zero; `draw` holds the random bits of R120. -/
def roundsAway (mode : RoundMode) (draw : Nat) (neg : Bool) (cmp : Rat → Ordering) (unit : Rat) (t : Nat) : Prop :=
  match mode with
  | .rne => cmp ((t + 1 / 2) * unit) = .lt ∨ cmp ((t + 1 / 2) * unit) = .eq ∧ t % 2 = 1
  | .rtz => False
  | .rdn => neg = true ∧ cmp (t * unit) = .lt
  | .rup => neg = false ∧ cmp (t * unit) = .lt
  | .rmm => cmp ((t + 1 / 2) * unit) ≠ .gt
  | .sr => cmp ((t + (2 ^ 16 - draw) / 2 ^ 16) * unit) ≠ .gt

/-- The magnitude is rounded to `n` units. -/
def roundsToUnits (mode : RoundMode) (draw : Nat) (neg : Bool) (cmp : Rat → Ordering) (unit : Rat) (n : Nat) : Prop :=
  ∃ t : Nat, cmp (t * unit) ≠ .gt ∧ cmp ((t + 1) * unit) = .gt ∧
    (roundsAway mode draw neg cmp unit t → n = t + 1) ∧ (¬ roundsAway mode draw neg cmp unit t → n = t)

/-- The sign bit of an encoding. -/
def signCode (f : FloatFmt) (neg : Bool) : Nat := if neg then 2 ^ (f.ebits + f.fbits) else 0

/-- R116: what an overflow delivers: infinity, where the format has it and the mode does not turn away from it, else the largest
finite value. -/
def overflowed (e : FloatFmt × Rat × Bool) (mode : RoundMode) (neg : Bool) (y : Nat) : Prop :=
  if e.2.2 = true ∧ mode ≠ .rtz ∧ ¬ (mode = .rdn ∧ neg = false) ∧ ¬ (mode = .rup ∧ neg = true) then
    y = signCode e.1 neg + (2 ^ e.1.ebits - 1) * 2 ^ e.1.fbits
  else valueOf e.1 y = if neg then -e.2.1 else e.2.1

/-- R116 to R119: an encoding and its flags are a magnitude with its sign rounded once to a format: to a multiple of the unit in the
last place of the format, no smaller than the unit of the subnormals; OF and NX where the result exceeds the largest finite value,
UF and NX where it is inexact and tiny after rounding, NX where it is only inexact. -/
def RoundsMagnitude (e : FloatFmt × Rat × Bool) (mode : RoundMode) (draw : Nat) (neg : Bool) (cmp : Rat → Ordering)
    (y : Nat × BitVec 5) : Prop :=
  ∃ (top : Int) (n m : Nat), cmp (pow2 top) ≠ .gt ∧ cmp (pow2 (top + 1)) = .gt ∧
    let free := pow2 (top - e.1.fbits)
    let unit := pow2 (max (top - e.1.fbits) (1 - e.1.bias - e.1.fbits))
    roundsToUnits mode draw neg cmp unit n ∧ roundsToUnits mode draw neg cmp free m ∧
    if e.2.1 < n * unit then overflowed e mode neg y.1 ∧ y.2 = 0b00101
    else valueOf e.1 y.1 = (if neg then -(n * unit) else n * unit) ∧ y.1.testBit (e.1.ebits + e.1.fbits) = neg ∧
      y.1 < 2 ^ (1 + e.1.ebits + e.1.fbits) ∧
      y.2 = if cmp (n * unit) = .eq then 0 else if m * free < pow2 (1 - e.1.bias) then 0b00011 else 0b00001

/-- A rational number rounded once to a format; a zero has the sign `zero`. -/
def RoundsTo (e : FloatFmt × Rat × Bool) (mode : RoundMode) (draw : Nat) (q : Rat) (zero : Bool) (y : Nat × BitVec 5) : Prop :=
  (q = 0 → y = (signCode e.1 zero, 0)) ∧
  (q ≠ 0 → RoundsMagnitude e mode draw (decide (q < 0)) (against (if q < 0 then -q else q)) y)

def asFP32 : FloatFmt × Rat × Bool := (fmtFP32, (2 ^ 24 - 1) * 2 ^ 104, true)

/-- An FP32 result. -/
abbrev Rounds32 (mode : RoundMode) (draw : Nat) (q : Rat) (zero : Bool) (y : Word32 × BitVec 5) : Prop :=
  RoundsTo asFP32 mode draw q zero (y.1.toNat, y.2)

/-- R106: an FP32 number, its value, the infinities, the NaNs and those that signal (R107). -/
abbrev finite32 (x : Word32) : Prop := x.toNat / 2 ^ 23 % 2 ^ 8 ≠ 255
abbrev infinite32 (x : Word32) : Prop := x.toNat % 2 ^ 31 = 255 * 2 ^ 23
abbrev nan32 (x : Word32) : Prop := 255 * 2 ^ 23 < x.toNat % 2 ^ 31
abbrev signals32 (x : Word32) : Prop := nan32 x ∧ x.getLsbD 22 = false
def value32 (x : Word32) : Rat := valueOf fmtFP32 x.toNat

/-- Infinity and zero with a sign. -/
def inf32 (neg : Bool) : Word32 := if neg then 0xFF800000 else 0x7F800000
def zero32 (neg : Bool) : Word32 := if neg then 0x80000000 else 0

/-- The sign of an exact zero sum of terms with these signs (IEEE 754). -/
def sumZero (mode : RoundMode) (a b : Bool) : Bool := if a = b then a else decide (mode = .rdn)

def signedBy (neg : Bool) (q : Rat) : Rat := if neg then -q else q

end Sys2Proof.Claims

/-- R116 to R119, R122, R190: the operations that the float lanes, the reductions, the jets and the force unit are stated with give
the exact result rounded once, with the flags of R118; so do the conversions of a number to a format and to an integer. A square
root is compared with a number by its square. (The results of 2^a, log2, sin, cos and tanh are held to the real functions by log
entry 13 alone.) -/
def Sys2Proof.Claims.NumbersAreRoundedOnce : Prop :=
  ∀ (mode : RoundMode) (draw : Nat), draw < 2 ^ 16 →
    (∀ a b : Word32, finite32 a → finite32 b →
      let x := value32 a
      let y := value32 b
      Rounds32 mode draw (x + y) (sumZero mode a.msb b.msb) (fadd32 mode draw a b) ∧
      Rounds32 mode draw (x - y) (sumZero mode a.msb (!b.msb)) (fsub32 mode draw a b) ∧
      Rounds32 mode draw (x * y) (a.msb != b.msb) (fmul32 mode draw a b) ∧
      (y ≠ 0 → Rounds32 mode draw (x / y) (a.msb != b.msb) (fdiv32 mode draw a b)) ∧
      ∀ (c : Word32) (p n : Bool), finite32 c →
        Rounds32 mode draw (signedBy p (x * y) + signedBy n (value32 c)) (sumZero mode (p != (a.msb != b.msb)) (n != c.msb))
          (ffma32 mode draw p n a b c)) ∧
    (∀ a : Word32, finite32 a →
      let x := value32 a
      let bits := fun y : Word32 × BitVec 5 => (y.1.toNat, y.2)
      (x ≠ 0 → Rounds32 mode draw (1 / x) a.msb (special32 .rcp mode draw a)) ∧
      (0 < x →
        RoundsMagnitude asFP32 mode draw false (fun v => against x (v * v)) (bits (special32 .sqrt mode draw a)) ∧
        RoundsMagnitude asFP32 mode draw false (fun v => against 1 (v * v * x)) (bits (special32 .rsqrt mode draw a)))) ∧
    (∀ e ∈ floatFormats, ∀ (neg : Bool) (m : Nat) (z : Int),
      RoundsTo e mode draw (signedBy neg (m * pow2 z)) neg (e.1.encode mode draw (.num neg m z))) ∧
    (∀ (lo hi : Int) (neg : Bool) (m n : Nat) (z : Int), lo ≤ 0 → 0 ≤ hi →
      roundsToUnits mode draw neg (against (m * pow2 z)) 1 n →
      let v : Int := if neg then -n else n
      toInt mode draw lo hi (.num neg m z) =
        if v < lo then (lo, 0b10000) else if hi < v then (hi, 0b10000)
        else (v, if m * pow2 z = n then 0 else 0b00001))

/-- R118, R125, R190: the operands that are no numbers: the first NaN comes out quieted, and NV is raised where one signals; invalid
combinations give the default NaN with NV, a number divided by zero gives an infinity with DZ, and the other infinities follow
IEEE 754, those of the fused multiply-add too; the special functions have the special results of R190's table (of ±0 and 1, and
at the infinities; the square root of +∞ is IEEE 754's). -/
def Sys2Proof.Claims.NansAndInfinitiesFollowTheirRules : Prop :=
  ∀ (mode : RoundMode) (draw : Nat) (a b c : Word32) (p n : Bool),
    let quiet := fun x : Word32 => x ||| 0x00400000
    let invalid : Word32 × BitVec 5 := (0x7FC00000, 0b10000)
    let sign := a.msb != b.msb
    (nan32 a ∨ nan32 b → ∀ f ∈ [fadd32 mode draw, fsub32 mode draw, fmul32 mode draw, fdiv32 mode draw],
      f a b = (quiet (if nan32 a then a else b), if signals32 a ∨ signals32 b then 0b10000 else 0)) ∧
    (nan32 a ∨ nan32 b ∨ nan32 c → ffma32 mode draw p n a b c =
      (quiet (if nan32 a then a else if nan32 b then b else c),
        if signals32 a ∨ signals32 b ∨ signals32 c ∨ infinite32 a ∧ b.toNat % 2 ^ 31 = 0 ∨ infinite32 b ∧ a.toNat % 2 ^ 31 = 0
        then 0b10000 else 0)) ∧
    (nan32 a → ∀ f ∈ [SpecialFn.exp2, .log2, .sinpi, .cospi, .rcp, .rsqrt, .sqrt, .tanh],
      special32 f mode draw a = (quiet a, if signals32 a then 0b10000 else 0)) ∧
    (infinite32 a → infinite32 b →
      fadd32 mode draw a b = (if a.msb = b.msb then (a, 0) else invalid) ∧
      fsub32 mode draw a b = (if a.msb = b.msb then invalid else (a, 0)) ∧
      fmul32 mode draw a b = (inf32 sign, 0) ∧ fdiv32 mode draw a b = invalid) ∧
    (infinite32 a → finite32 b →
      fadd32 mode draw a b = (a, 0) ∧ fadd32 mode draw b a = (a, 0) ∧ fsub32 mode draw a b = (a, 0) ∧
      fsub32 mode draw b a = (inf32 (!a.msb), 0) ∧ fdiv32 mode draw a b = (inf32 sign, 0) ∧ fdiv32 mode draw b a = (zero32 sign, 0) ∧
      (b.toNat % 2 ^ 31 ≠ 0 → fmul32 mode draw a b = (inf32 sign, 0) ∧ fmul32 mode draw b a = (inf32 sign, 0)) ∧
      (b.toNat % 2 ^ 31 = 0 → fmul32 mode draw a b = invalid ∧ fmul32 mode draw b a = invalid)) ∧
    (finite32 a → b.toNat % 2 ^ 31 = 0 →
      fdiv32 mode draw a b = if a.toNat % 2 ^ 31 = 0 then invalid else (inf32 sign, 0b01000)) ∧
    (a.toNat % 2 ^ 31 = 0 →
      special32 .rcp mode draw a = (inf32 a.msb, 0b01000) ∧ special32 .rsqrt mode draw a = (inf32 a.msb, 0b01000) ∧
      special32 .sqrt mode draw a = (a, 0) ∧ special32 .log2 mode draw a = (0xFF800000, 0b01000)) ∧
    (a.msb = true → a.toNat % 2 ^ 31 ≠ 0 → ¬ nan32 a →
      special32 .sqrt mode draw a = invalid ∧ special32 .rsqrt mode draw a = invalid ∧ special32 .log2 mode draw a = invalid) ∧
    (¬ nan32 a → ¬ nan32 b → ¬ nan32 c → infinite32 a ∨ infinite32 b ∨ infinite32 c →
      let product := p != sign
      let addend := n != c.msb
      ffma32 mode draw p n a b c =
        if infinite32 a ∨ infinite32 b then
          if a.toNat % 2 ^ 31 = 0 ∨ b.toNat % 2 ^ 31 = 0 ∨ infinite32 c ∧ product ≠ addend then invalid else (inf32 product, 0)
        else (inf32 addend, 0)) ∧
    (infinite32 a →
      special32 .exp2 mode draw a = (if a.msb then 0 else a, 0) ∧
      (a.msb = false → special32 .log2 mode draw a = (a, 0) ∧ special32 .sqrt mode draw a = (a, 0) ∧
        special32 .rsqrt mode draw a = (0, 0)) ∧
      special32 .sinpi mode draw a = invalid ∧ special32 .cospi mode draw a = invalid ∧
      special32 .rcp mode draw a = (zero32 a.msb, 0) ∧
      special32 .tanh mode draw a = (if a.msb then 0xBF800000 else 0x3F800000, 0)) ∧
    (a.toNat % 2 ^ 31 = 0 → special32 .sinpi mode draw a = (a, 0) ∧ special32 .tanh mode draw a = (a, 0)) ∧
    special32 .log2 mode draw 0x3F800000 = (0, 0)

/-- The arithmetic that the float instructions are stated with: numbers are rounded once, NaNs and infinities follow their rules. -/
def Obligations.ArithmeticIsRoundedOnce : Prop := NumbersAreRoundedOnce ∧ NansAndInfinitiesFollowTheirRules

namespace Sys2Proof.Claims
open Sys2Proof.Machine

/-- Fact(c) as FP32 (R218): exact for every c that the word can name. -/
def factTable : List Word32 :=
  [0x3F800000, 0x3F800000, 0x40000000, 0x40C00000, 0x41C00000, 0x42F00000, 0x44340000, 0x459D8000]

end Sys2Proof.Claims

/-- R218, R206: JSEED and JCONST make a jet from a register; JEXT and JEXT.d take coefficient c (+0 above the order, reading
nothing), JEXT.d times c! with one rounding; JINS replaces coefficient c alone, and above the order writes nothing and waits for
nothing. (What JINS waits for, and that under mz = 1 it leaves the other coefficients of the inactive lanes, is log entry 72,
the model's choice.) A signalling NaN coefficient under JEXT.d raises NV alone and is delivered quieted. -/
def Obligations.JetMovesAndDerivatives : Prop :=
  (∀ (s : State) (x : Option Pfx) (r : R2), r.d.val % groupSize s.me.jord.toNat = 0 → jetFull s.me s.me.jord.toNat r.d →
    s.me.vIsFull r.a = true →
    let made := fun (i : Instr) (f : Nat → Word32) => exec i s = .next (s.modMe fun k =>
      { k with v := Vector.ofFn fun n : Fin 64 => if r.d.val ≤ n.val ∧ n.val ≤ r.d.val + k.jord.toNat
                 then merged k x n (fun i => if n = r.d then lane k r.a i else f (n.val - r.d.val)) else k.v.get n
               pc := k.pc + bytesOf x, stall := false })
    made (.jseed x r) (fun c => if c = 1 then 0x3F800000 else 0) ∧ made (.jconst x r) (fun _ => 0)) ∧
  (∀ (s : State) (x : Option Pfx) (d a : Reg) (c : Fin 8) (p : Bool) (m : RoundMode), a.val % groupSize s.me.jord.toNat = 0 →
    s.me.vIsFull d = true →
    (c.val ≤ s.me.jord.toNat → s.me.vfull.getLsbD (a.val + c.val) = true →
      exec (.jext x d a c p) s = .next (s.modMe fun k => wroteLanes x d (fun i => (coeff k a c.val i, 0)) k) ∧
      (resolves s.me x m → exec (.jextD x d a c p) s = .next (s.modMe fun k =>
        wroteLanes x d (fun i => fmul32 m (drawOf k m i) (factTable.getD c.val 0) (coeff k a c.val i)) k))) ∧
    (s.me.jord.toNat < c.val →
      exec (.jext x d a c p) s = .next (s.modMe fun k => wroteLanes x d (fun _ => (0, 0)) k) ∧
      (resolves s.me x m → exec (.jextD x d a c p) s = .next (s.modMe fun k => wroteLanes x d (fun _ => (0, 0)) k)))) ∧
  (∀ (s : State) (x : Option Pfx) (d a : Reg) (c : Fin 8) (p : Bool), d.val % groupSize s.me.jord.toNat = 0 →
    s.me.vIsFull a = true →
    (∀ n : Fin 64, n.val = d.val + c.val → c.val ≤ s.me.jord.toNat → s.me.vIsFull n = true →
      exec (.jins x d a c p) s = .next (s.modMe fun k => wroteLanes x n (fun i => (lane k a i, 0)) k)) ∧
    (s.me.jord.toNat < c.val →
      exec (.jins x d a c p) s = .next (s.modMe fun k => { k with pc := k.pc + bytesOf x, stall := false }))) ∧
  (∀ (m : RoundMode) (n : Nat) (c : Fin 8) (q : Word32), q.extractLsb' 23 8 = 0xFF → q.getLsbD 22 = false → q.extractLsb' 0 22 ≠ 0 →
    fmul32 m n (factTable.getD c.val 0) q = (q ||| 0x400000, flagNV))

/-- R199: `n` rounds of the generator, from a counter and a key, as numbers below 2^32. -/
def Sys2Proof.Claims.sowRounds : Nat → Nat × Nat × Nat × Nat → Nat × Nat → Nat × Nat × Nat × Nat
  | 0, c, _ => c
  | n + 1, (c0, c1, c2, c3), (k0, k1) =>
    let p0 := 0xB5297A4D * c0
    let p2 := 0xD1342543 * c2
    sowRounds n (p2 / 2 ^ 32 ^^^ c1 ^^^ k0, p2 % 2 ^ 32, p0 / 2 ^ 32 ^^^ c3 ^^^ k1, p0 % 2 ^ 32)
      ((k0 + 0x9E3779B9) % 2 ^ 32, (k1 + 0xBB67AE85) % 2 ^ 32)

/-- R199: the generator gives the four words that ten rounds over the counter and the key give. -/
def Sys2Proof.Claims.SowGenerates : Prop :=
  ∀ (key : Word) (c0 c1 c2 c3 : Word32),
    let x := sowRounds 10 (c0.toNat, c1.toNat, c2.toNat, c3.toNat) (key.toNat % 2 ^ 32, key.toNat / 2 ^ 32)
    sow key c0 c1 c2 c3 = [BitVec.ofNat 32 x.1, BitVec.ofNat 32 x.2.1, BitVec.ofNat 32 x.2.2.1, BitVec.ofNat 32 x.2.2.2]

/-- R200: SOW spreads its four words over four lanes, SOW.ix takes word 0 of every lane's own counter. No flag is raised. -/
def Sys2Proof.Claims.SowLanes : Prop :=
  ∀ (s : State) (x : Option Pfx) (r : R3), fullAt s.me [.g r.a, .g (regUp r.a 1), .g r.b, .v r.d] →
    let a := s.me.gr r.a
    let a1 := s.me.gr (regUp r.a 1)
    let word := fun (c0 : Nat) (n : Nat) => (sow (s.me.gr r.b) (BitVec.ofNat 32 (a.toNat % 2 ^ 32 + c0)) (BitVec.ofNat 32 (a.toNat / 2 ^ 32))
      (BitVec.ofNat 32 (a1.toNat % 2 ^ 32)) (BitVec.ofNat 32 (a1.toNat / 2 ^ 32 % 2 ^ 24))).getD n 0
    exec (.sow x r) s = .next (s.modMe fun k => wroteLanes x r.d (fun i => (word (i / 4) (i % 4), 0)) k) ∧
    exec (.sowIx x r) s = .next (s.modMe fun k => wroteLanes x r.d (fun i => (word i 0, 0)) k)

/-- R198: PART gives a core of the rectangle its share of [0, N) by integer division, cores ordered by frond, y and x; a core
outside, or a rectangle outside the package, gets (N, N). -/
def Sys2Proof.Claims.PartSharesTheRange : Prop :=
  ∀ (s : State) (x : Option Pfx) (r : R3), fullAt s.me [.g r.a, .g r.b, .g r.d] →
    let n := (s.me.gr r.a).toNat % 2 ^ 32
    let b := s.me.gr r.b
    let x0 := bits b 3 0
    let y0 := bits b 7 4
    let f0 := bits b 10 8
    let nx := bits b 15 12 + 1
    let ny := bits b 19 16 + 1
    let nf := bits b 22 20 + 1
    let f := s.cur / 144
    let y := s.cur % 144 / 12
    let c := s.cur % 12
    let gives := fun lo hi => exec (.part x r) s = .next (s.modMe fun k =>
      { k.setG r.d (BitVec.ofNat 64 (hi * 2 ^ 32 + lo)) with pc := k.pc + bytesOf x, stall := false })
    let inside := x0 + nx ≤ 12 ∧ y0 + ny ≤ 12 ∧ f0 + nf ≤ 8 ∧ x0 ≤ c ∧ c < x0 + nx ∧ y0 ≤ y ∧ y < y0 + ny ∧ f0 ≤ f ∧ f < f0 + nf
    let p := ((f - f0) * ny + (y - y0)) * nx + (c - x0)
    (inside → gives (p * n / (nx * ny * nf)) ((p + 1) * n / (nx * ny * nf))) ∧ (¬ inside → gives n n)

/-- SOW, SOW.IX and PART. -/
def Obligations.LanesSowAndPart : Prop := SowGenerates ∧ SowLanes ∧ PartSharesTheRange

/-! ## Tile slices and TOPK -/

namespace Sys2Proof.Claims
open Sys2Proof.Machine

/-- A coordinate at a signed 4-bit distance, wrapping at 12 (R130, R83). -/
def wrapped (p v : Nat) : Nat := (p + 12 + v - if 8 ≤ v then 16 else 0) % 12

/-- The owner of a name as core `c` resolves it (R130, R131): absolute, or relative to the core. -/
def ownerOf (c : Nat) (n : Word) : Nat :=
  if n.getLsbD 23 then
    144 * ((c / 144 + bits n 22 20) % 8) + 12 * wrapped (c % 144 / 12) (bits n 19 16) + wrapped (c % 12) (bits n 15 12)
  else 144 * bits n 22 20 + 12 * bits n 19 16 + bits n 15 12

/-- R131: a name of the right form. -/
abbrev goodName (n : Word) : Prop := bits n 63 32 = 0 ∧ (n.getLsbD 23 = false → bits n 19 16 < 12 ∧ bits n 15 12 < 12)

/-- The entry of a name of the core's own loft. -/
def ownEntry (s : State) (n : Word) : LoftEntry := s.entry s.cur (bits n 11 0)

/-- A name of a live tile of the issuing core's own scratchpad that it may access: the checks of R131 and R188 pass, `t` is its
tile, and the tile lies in the scratchpad (R140). -/
structure LocalTile (s : State) (name : Word) (t : Tile) : Prop where
  good : goodName name
  owner : ownerOf s.cur name = s.cur
  holds : s.reaches s.cur s.cur = true
  gen : (ownEntry s name).gen.toNat = bits name 31 24
  usable : (ownEntry s name).state = .value ∨ (ownEntry s name).state = .blackhole ∧ s.me.evalTile = some (s.cur, bits name 11 0)
  level : (ownEntry s name).level = .S
  tile : t = (ownEntry s name).tile s.cur
  fits : t.base.toNat % 8 = 0 ∧ t.base.toNat + storageBytes t.rows t.cols t.fmt ≤ 2 ^ 19 ∧
    (t.fmt.isBlock = true → t.cols % 32 = 0)

/-- The element that lane `i` of a slice names: (ROW, COL + i) or (ROW + i, COL). -/
def sliceElem (byRow : Bool) (pos : Word) (i : Nat) : Nat × Nat :=
  if byRow then (bits pos 11 0, bits pos 23 12 + i) else (bits pos 11 0 + i, bits pos 23 12)

/-- The position word of a slice (R187, R188). -/
abbrev sliceOk (t : Tile) (pos : Word) (byRow store : Bool) : Prop :=
  bits pos 63 24 = 0 ∧ bits pos 11 0 < t.rows ∧ bits pos 23 12 < t.cols ∧ t.fmt.is64 = false ∧
  (t.fmt.isBlock = true → byRow = true → bits pos 23 12 % 32 = 0) ∧ (t.fmt.isBlock = true → store = true → byRow = true)

/-- Bit `b` of a tile's storage belongs to an element: to its own bits, or to its block (R136). -/
def bitOf (t : Tile) (e : Nat × Nat) (b : Nat) : Prop :=
  if t.fmt.isBlock then 8 * t.fmt.blockByte t.cols e.1 e.2 ≤ b ∧ b < 8 * t.fmt.blockByte t.cols e.1 e.2 + 8 * t.fmt.blockBytes
  else t.fmt.elemBit t.cols e.1 e.2 ≤ b ∧ b < t.fmt.elemBit t.cols e.1 e.2 + t.fmt.width

/-- The flat address of the word of a tile of core `c` that holds bit `b` of its storage. -/
def tileWord (c : Nat) (t : Tile) (b : Nat) : Nat := 2 ^ 52 + c * 2 ^ 19 + t.base.toNat + b / 64 * 8

end Sys2Proof.Claims

namespace Sys2Proof.Claims
open Sys2Proof.Machine

/-- Bit `b` of a tile's storage belongs to an active lane's element inside the tile (R188); a store to a block format names the
whole block. -/
def namedBit (s : State) (x : Option Pfx) (t : Tile) (elem : Nat → Nat × Nat) (b : Nat) : Prop :=
  ∃ i < 32, active s.me x i = true ∧ (elem i).1 < t.rows ∧ (elem i).2 < t.cols ∧ bitOf t (elem i) b

def storedBit (s : State) (x : Option Pfx) (t : Tile) (elem : Nat → Nat × Nat) (b : Nat) : Prop :=
  if t.fmt.isBlock then bitOf t (elem 0) b else namedBit s x t elem b

/-- An integer saturated to [lo, hi], as `w` bits, with NV where it saturates (R122). -/
def saturated (w : Nat) (lo hi v : Int) : Nat × BitVec 5 :=
  (((if v < lo then lo else if hi < v then hi else v) % 2 ^ w).toNat, if v < lo ∨ hi < v then 0b10000 else 0)

/-- R188: a lane encoded in an element format: an FP32 lane moves to an `fp32` tile bit for bit; other float formats round the FP32
value; integer formats saturate the lane read as s32 or z32. -/
def laneCode (f : Fmt) (m : RoundMode) (draw : Nat) (x : Word32) : Nat × BitVec 5 :=
  match f.float with
  | some e => if f = .fp32 then (x.toNat, 0) else e.encode m draw (dec32 x)
  | none =>
    if f.isSigned then saturated f.width (-(2 ^ (f.width - 1))) (2 ^ (f.width - 1) - 1) x.toInt
    else saturated f.width 0 (2 ^ f.width - 1) x.toNat

/-- The draw of an element of a tile (R121). -/
def tileDraw (k : Core) (m : RoundMode) (t : Tile) (e : Nat × Nat) : Nat :=
  srDraw m k.srkey (t.row0 + e.1) (t.col0 + e.2) t.stream

/-- What a slice store puts into a tile, by lane: each element's code, or the whole block's. -/
def sliceCode (s : State) (r : R3) (t : Tile) (m : RoundMode) (elem : Nat → Nat × Nat) (i : Nat) : Nat × BitVec 5 :=
  if t.fmt.isBlock then
    encodeBlock t.fmt m (fun j => tileDraw s.me m t (elem j)) ((List.range 32).map fun j => dec32 (lane s.me r.d j))
  else laneCode t.fmt m (tileDraw s.me m t (elem i)) (lane s.me r.d i)

/-- Where lane `i`'s code starts in the tile's storage, and how many bits it has. -/
def codeAt (t : Tile) (e : Nat × Nat) : Nat × Nat :=
  if t.fmt.isBlock then (8 * t.fmt.blockByte t.cols e.1 e.2, 8 * t.fmt.blockBytes) else (t.fmt.elemBit t.cols e.1 e.2, t.fmt.width)

/-- A slice load was sent (R187, R188): one read of exactly the words that hold its active elements, or their blocks; v[d] is empty,
and the packet remembers the position, the direction, the mask and what the lanes held. -/
structure SliceLoaded (s u : State) (x : Option Pfx) (r : R3) (t : Tile) (m : RoundMode) (byRow : Bool) : Prop where
  packet : ∃ p sl, p.op = .vldt r.d sl ∧ u.net = s.net ++ [p] ∧ p.src = s.cur ∧ p.own = true ∧ p.rd = true ∧ p.wr = false ∧
    (∀ w ∈ p.parts, w.mask = 0) ∧
    (∀ a, a ∈ p.parts.map (·.addr) ↔ ∃ b, namedBit s x t (sliceElem byRow (s.me.gr r.b)) b ∧ a = tileWord s.cur t b) ∧
    sl.old = s.me.v.get r.d ∧ sl.tile = t ∧ sl.mode = m ∧ sl.srkey = s.me.srkey ∧ sl.byRow = byRow ∧
    sl.row = bits (s.me.gr r.b) 11 0 ∧ sl.col = bits (s.me.gr r.b) 23 12 ∧ sl.mz = zeroes x ∧
    ∀ i < 32, sl.active.getLsbD i = active s.me x i
  core : u.me = { s.me with vfull := s.me.vfull &&& ~~~(1#64 <<< r.d.val), pc := s.me.pc + bytesOf x, stall := false }
  kept : u.mem = s.mem

/-- A slice store was sent (R187, R188): masked writes of the words of the stored bits and of no others; a word's mask names exactly
its stored bits, and the data gives each the bit of its lane's code. The flags of the codes stored are raised. -/
structure SliceStored (s u : State) (x : Option Pfx) (r : R3) (t : Tile) (m : RoundMode) (byRow : Bool) : Prop where
  packet : let elem := sliceElem byRow (s.me.gr r.b)
    let code := sliceCode s r t m elem
    ((∀ b, ¬ storedBit s x t elem b) → u.net = s.net) ∧
    ((∃ b, storedBit s x t elem b) → ∃ p, u.net = s.net ++ [p] ∧ p.op = .st true ∧ p.src = s.cur ∧ p.own = true ∧ p.rd = false ∧
      p.wr = true ∧ (∀ b, storedBit s x t elem b → ∃ w ∈ p.parts, w.addr = tileWord s.cur t b) ∧
      ∀ w ∈ p.parts, (∃ b, storedBit s x t elem b ∧ w.addr = tileWord s.cur t b) ∧
        (∀ b, w.addr = tileWord s.cur t b → (w.mask.getLsbD (b % 64) = true ↔ storedBit s x t elem b)) ∧
        ∀ i < 32, active s.me x i = true ∨ t.fmt.isBlock = true → (elem i).1 < t.rows → (elem i).2 < t.cols →
          ∀ j < (codeAt t (elem i)).2, w.addr = tileWord s.cur t ((codeAt t (elem i)).1 + j) →
            w.data.getLsbD (((codeAt t (elem i)).1 + j) % 64) = (code i).1.testBit j)
  core : let elem := sliceElem byRow (s.me.gr r.b)
    u.me = { s.me with
      fcsr := withFlags s.me (if t.fmt.isBlock then (sliceCode s r t m elem 0).2 else
        (List.range 32).foldl (fun g i =>
          if active s.me x i = true ∧ (elem i).1 < t.rows ∧ (elem i).2 < t.cols then g ||| (sliceCode s r t m elem i).2 else g) 0)
      pc := s.me.pc + bytesOf x, stall := false }
  kept : u.mem = s.mem

end Sys2Proof.Claims

/-- R187, R188: VLDT and VSTT, by row and by column, where their checks pass: what they send. No byte of memory changes at issue.
(That a store leaves the elements of inactive lanes alone under mz = 1 as well is log entry 70, the model's choice.) -/
def Sys2Proof.Claims.SlicesSendTheirElements : Prop :=
  ∀ (s : State) (x : Option Pfx) (r : R3) (t : Tile) (m : RoundMode), fullAt s.me [.g r.a, .g r.b, .v r.d] → unheld s →
    resolves s.me x m → LocalTile s (s.me.gr r.a) t →
    (sliceOk t (s.me.gr r.b) true false → ∃ u, exec (.vldtRow x r) s = .next u ∧ SliceLoaded s u x r t m true) ∧
    (sliceOk t (s.me.gr r.b) false false → ∃ u, exec (.vldtCol x r) s = .next u ∧ SliceLoaded s u x r t m false) ∧
    (sliceOk t (s.me.gr r.b) true true → ∃ u, exec (.vsttRow x r) s = .next u ∧ SliceStored s u x r t m true) ∧
    (sliceOk t (s.me.gr r.b) false true → ∃ u, exec (.vsttCol x r) s = .next u ∧ SliceStored s u x r t m false)

/-- R184, R188, R169: a slice load's reply writes all 32 lanes of v[d] at once and makes it full: an active lane inside an `fp32`
tile gets its element's bits, an active lane outside the tile +0, an inactive lane what it held at issue, or +0 under mz. -/
def Sys2Proof.Claims.SliceLoadsFillTheirRegister : Prop :=
  ∀ (s : State) (n : Nat) (p : Packet) (d : Reg) (sl : Slice), s.packet? n = some p → p.stage = .reply → p.stamp = none →
    p.inUsc = false → p.op = .vldt d sl → sl.tile.fmt = .fp32 → (s.core p.src).vIsFull d = false →
    let k := s.core p.src
    let word := fun off => mapGet 0 p.got (scratchAddr sl.tile.core (sl.tile.base.toNat + off / 8 * 8))
    ∃ v : VReg, exec (.registerFill n) s = .next ({ s with net := s.net.filter fun q => q.id ≠ p.id }.setCore p.src
        { k with holdAtom := k.holdAtom.filter (· ≠ p.id), holdFence := k.holdFence.filter (· ≠ p.id)
                 v := k.v.set d.val v d.isLt, vfull := k.vfull ||| 1#64 <<< d.val }) ∧
      ∀ i : Fin 32,
        let e := if sl.byRow then (sl.row, sl.col + i.val) else (sl.row + i.val, sl.col)
        v.get i = if sl.active.getLsbD i.val then
            (if e.1 < sl.tile.rows ∧ e.2 < sl.tile.cols then
              BitVec.ofNat 32 ((word (4 * (e.1 * sl.tile.cols + e.2))).toNat / 2 ^ (32 * ((e.1 * sl.tile.cols + e.2) % 2)))
            else 0)
          else if sl.mz then 0 else sl.old.get i

/-- Slice loads and stores: what they send, and what a load fills. -/
def Obligations.SlicesMove : Prop := SlicesSendTheirElements ∧ SliceLoadsFillTheirRegister

/-- R201: TOPK, no earlier one of its core in flight, sends one read of the words of its row and empties v[d], whether or not an
acquire or a FENCE holds the core's accesses (log entry 71, the model's choice); its reply gives the columns of the K largest elements of a
`z32` row, in ascending order: no column left out holds more than a column given, equal ones go by the lower column; unused lanes
hold all ones, and TSHORT is set where there are fewer than K. -/
def Obligations.TopkSelectsTheLargest : Prop :=
  (∀ (s : State) (x : Option Pfx) (r : R3) (t : Tile), fullAt s.me [.g r.a, .g r.b, .v r.d] → LocalTile s (s.me.gr r.a) t →
    (∀ p ∈ s.net, p.src = s.cur → p.op.isTopk = false) →
    let c := s.me.gr r.b
    bits c 63 42 = 0 → bits c 11 0 < t.rows → bits c 23 12 + bits c 35 24 + 1 ≤ t.cols → bits c 41 36 + 1 ≤ 32 →
    t.fmt.isBlock = false → t.fmt.is64 = false →
    ∃ u p, exec (.topk x r) s = .next u ∧ u.net = s.net ++ [p] ∧ u.mem = s.mem ∧ p.own = true ∧ p.src = s.cur ∧
      p.op = .topk r.d ⟨t, bits c 11 0, bits c 23 12, bits c 35 24 + 1, bits c 41 36 + 1⟩ ∧ (∀ w ∈ p.parts, w.mask = 0) ∧
      (∀ a, a ∈ p.parts.map (·.addr) ↔
        ∃ b, (∃ j ≤ bits c 35 24, bitOf t (bits c 11 0, bits c 23 12 + j) b) ∧ a = tileWord s.cur t b) ∧
      u.me = { s.me with vfull := s.me.vfull &&& ~~~(1#64 <<< r.d.val), pc := s.me.pc + bytesOf x, stall := false }) ∧
  (∀ (s : State) (n : Nat) (p : Packet) (d : Reg) (q : TopkReq), s.packet? n = some p → p.stage = .reply → p.stamp = none →
    p.inUsc = false → p.op = .topk d q → q.tile.fmt = .z32 → (s.core p.src).vIsFull d = false → q.k ≤ 32 →
    let k := s.core p.src
    let value := fun c => (decodeElem .z32 q.tile.cols
      (fun i => byteOf (mapGet 0 p.got (scratchAddr q.tile.core (q.tile.base.toNat + i / 8 * 8))) (i % 8)) q.row c).toF
    ∃ (v : VReg) (cs : List Nat),
      exec (.registerFill n) s = .next ({ s with net := s.net.filter fun z => z.id ≠ p.id }.setCore p.src
        { k with holdAtom := k.holdAtom.filter (· ≠ p.id), holdFence := k.holdFence.filter (· ≠ p.id)
                 vstat := if q.n < q.k then k.vstat ||| 4 else k.vstat
                 v := k.v.set d.val v d.isLt, vfull := k.vfull ||| 1#64 <<< d.val }) ∧
      cs.length = min q.k q.n ∧ cs.Pairwise (· < ·) ∧ (∀ c ∈ cs, q.col ≤ c ∧ c < q.col + q.n) ∧
      (∀ i : Fin 32, v.get i = match cs[i.val]? with | some c => BitVec.ofNat 32 c | none => 0xFFFFFFFF) ∧
      ∀ c ∈ cs, ∀ e, q.col ≤ e → e < q.col + q.n → e ∉ cs → ltVal (value e) (value c) = true ∨
        eqVal (value e) (value c) = true ∧ c < e)

/-! ## The matrix engine -/

namespace Sys2Proof.Claims
open Sys2Proof.Machine

/-- No entry of the matrix queue, and no follow-on of a queued copy, names an accumulator (R227). -/
abbrev unused (k : Core) (n : KField) : Prop :=
  (∀ m ∈ k.mqueue, m.names n = false) ∧ ∀ q : Fin 4, ∀ i ∈ k.queues.get q, i.follows n = false

/-- An accumulator with CFG set (R223). -/
abbrev configured (a : Accumulator) : Prop := a.cfg.getLsbD 17 = true

/-- M and N (R223). -/
def rowsOf (a : Accumulator) : Nat := bits a.cfg 5 0 + 1
def colsOf (a : Accumulator) : Nat := bits a.cfg 11 6 + 1

/-- Element (r, c) of a bank: +0 unless listed. -/
def element (b : Bank) (r c : Nat) : BitVec 40 := mapGet 0 b (64 * r + c)

/-- A core that gained an entry of its matrix queue, with g[d] emptied, and went on. -/
def queuedMatrix (item : MatItem) (d : Reg) (k : Core) : Core :=
  { k with mqueue := k.mqueue ++ [item], gfull := if d = 0 then k.gfull else k.gfull &&& ~~~(1#64 <<< d.val), pc := k.pc + 4,
           stall := false }

/-- The formats of R105 that a configuration or descriptor names by code. -/
def formatCodes : List (Nat × Fmt) :=
  [(0x00, .fp32), (0x01, .fp16), (0x02, .bf16), (0x03, .e4m3), (0x04, .e5m2), (0x05, .mxfp8e4m3), (0x06, .mxfp8e5m2),
   (0x07, .mxfp6e3m2), (0x08, .mxfp6e2m3), (0x09, .mxfp4), (0x0A, .tsb4), (0x0B, .tsb6), (0x0C, .tsb8), (0x10, .s8),
   (0x11, .s16), (0x12, .s32), (0x13, .s64), (0x14, .z8), (0x15, .z16), (0x16, .z32), (0x17, .z64)]

end Sys2Proof.Claims

/-- R222, R223, R225, R227: MCFG writes a configuration word of the right form, sets CFG, clears DIRTY and zeroes both banks of
its accumulator alone, once no queued operation names it; a word with bits above OFMT, an unknown or 64-bit format, or a block format
whose N is neither 32 nor 64, raises UNCONFIGURED_ACC with reason 0x01. -/
def Sys2Proof.Claims.McfgConfigures : Prop :=
  ∀ (s : State) (a : Reg) (p : Bool) (n : KField), s.me.gIsFull a = true →
    let w := s.me.gr a
    let ok := bits w 63 17 = 0 ∧ ∃ f, (bits w 16 12, f) ∈ formatCodes ∧ f.is64 = false ∧
      (f.isBlock = true → bits w 11 6 + 1 = 32 ∨ bits w 11 6 + 1 = 64)
    (unused s.me n → ok → exec (.mcfg a p n) s = .next (s.modMe fun k =>
      { k with acc := k.acc.set n.val { cfg := w ||| 1#64 <<< 17, work := [], vis := [] } n.isLt, pc := k.pc + 4, stall := false })) ∧
    (unused s.me n → ¬ ok →
      exec (.mcfg a p n) s = .next (s.trap .unconfiguredAcc (BitVec.ofNat 64 (1 * 2 ^ 8 + n.val)))) ∧
    (¬ unused s.me n → exec (.mcfg a p n) s = .next (s.modMe fun k => { k with stall := true }))

/-- R224, R225, R227: MSWAP and MZERO enter the matrix queue of a configured accumulator while it holds fewer than 16 entries and
wait while it holds 16; on an accumulator that is not configured they raise UNCONFIGURED_ACC with reason 0x00. -/
def Sys2Proof.Claims.MswapAndMzeroQueue : Prop :=
  ∀ (s : State) (n : KField), ∀ e ∈ [(Instr.mswap n, MatItem.mswap s.nextId n), (Instr.mzero n, MatItem.mzero s.nextId n)],
    (configured (s.me.acc.get n) → s.me.mqueue.length < 16 →
      exec e.1 s = .next ({ s with nextId := s.nextId + 1 }.modMe (queuedMatrix e.2 0))) ∧
    (configured (s.me.acc.get n) → 16 ≤ s.me.mqueue.length → exec e.1 s = .next (s.modMe fun k => { k with stall := true })) ∧
    (¬ configured (s.me.acc.get n) → exec e.1 s = .next (s.trap .unconfiguredAcc (BitVec.ofNat 64 n.val)))

namespace Sys2Proof.Claims
open Sys2Proof.Machine

/-- Bytes of the B image (R230). -/
def imageSize (f : Fmt) (sparse : Bool) (n k : Nat) : Nat :=
  if sparse then storageBytes n (k / 2) f + n * (k / 8) else storageBytes n k f

/-- R229, R231: the position and the B descriptor of an MMA on tile `t` and accumulator `acc`, with B in format `bf`. -/
structure MmaOk (acc : Accumulator) (t : Tile) (pos desc : Word) (bf : Fmt) : Prop where
  conf : configured acc
  region : bits pos 63 24 = 0 ∧ bits pos 11 0 + rowsOf acc ≤ t.rows ∧ bits pos 23 12 + (bits desc 28 17 + 1) ≤ t.cols
  blockA : t.fmt.isBlock = true → bits pos 23 12 % 32 = 0 ∧ (bits desc 28 17 + 1) % 32 = 0
  format : (bits desc 42 38, bf) ∈ formatCodes ∧ t.fmt.mmaOk = true ∧ bf.mmaOk = true ∧ t.fmt.isInt = bf.isInt
  zero : bits desc 63 44 = 0 ∧ bits desc 37 29 = 0
  image : bits desc 16 0 % 8 = 0 ∧
    bits desc 16 0 + imageSize bf (desc.getLsbD 43) (colsOf acc) (bits desc 28 17 + 1) ≤ 2 ^ 17
  sparse : desc.getLsbD 43 = true → (bits desc 28 17 + 1) % 8 = 0
  blockB : bf.isBlock = true → (bits desc 28 17 + 1) % (if desc.getLsbD 43 then 64 else 32) = 0

/-- The operation that an MMA queues. -/
def mmaOpOf (acc : Accumulator) (t : Tile) (slot : Nat) (pos desc : Word) (bf : Fmt) (d : Reg) (n : KField) (origin : Option KField)
    (after : Nat) (pc : Word) : MmaOp :=
  { d := d, k := n, tile := t, slot := slot, row := bits pos 11 0, col := bits pos 23 12, sp := desc.getLsbD 43, bfmt := bf,
    kdim := bits desc 28 17 + 1, off := bits desc 16 0, m := rowsOf acc, n := colsOf acc, origin := origin,
    after := after, pc := pc }

end Sys2Proof.Claims

/-- R228, R231, R225, R167: an MMA whose checks pass enters the matrix queue with its operands, empties g[d] and goes on; nothing
is accumulated, and no byte read, at issue. -/
def Sys2Proof.Claims.MmaQueuesItsOperation : Prop :=
  ∀ (s : State) (r : R3) (n : KField) (t : Tile) (bf : Fmt), fullAt s.me [.g r.a, .g (regUp r.a 1), .g r.b, .g r.d] →
    s.me.holdFence = [] → s.me.mqueue.length < 16 → LocalTile s (s.me.gr r.a) t →
    MmaOk (s.me.acc.get n) t (s.me.gr (regUp r.a 1)) (s.me.gr r.b) bf →
    exec (.mma r n) s = .next ({ s with nextId := s.nextId + 1 }.modMe (queuedMatrix
      (.mma s.nextId (mmaOpOf (s.me.acc.get n) t (bits (s.me.gr r.a) 11 0) (s.me.gr (regUp r.a 1)) (s.me.gr r.b) bf r.d n none
        s.nextId s.me.pc)) r.d))

/-- R235, R225, R167: an MDRAIN whose checks pass enters the matrix queue with its operands, the rounding mode and the `srkey`
latched, empties g[d] and goes on; where it names an amax address, that address passes the checks of a 32-bit atomic first. -/
def Sys2Proof.Claims.MdrainQueuesItsOperation : Prop :=
  ∀ (s : State) (r : R3) (n : KField) (t : Tile) (m : RoundMode) (h : Nat) (dev : Bool),
    fullAt s.me [.g r.a, .g (regUp r.a 1), .g r.b, .g r.d] → s.me.holdFence = [] → s.me.mqueue.length < 16 →
    LocalTile s (s.me.gr r.a) t → configured (s.me.acc.get n) →
    let w := s.me.gr (regUp r.a 1)
    let acc := s.me.acc.get n
    bits w 63 27 = 0 → bits w 11 0 + rowsOf acc ≤ t.rows → bits w 23 12 + colsOf acc ≤ t.cols →
    (t.fmt.isBlock = true → bits w 23 12 % 32 = 0) → (bits acc.cfg 16 12, t.fmt) ∈ formatCodes →
    (if bits w 26 24 = 0 then resolves s.me none m else (bits w 26 24, m) ∈
      [(1, RoundMode.rne), (2, RoundMode.rtz), (3, RoundMode.rdn), (4, RoundMode.rup), (5, RoundMode.rmm), (6, RoundMode.sr)]) →
    (s.me.gr r.b = 0 ∨ s.target (s.me.gr r.b) 4 .rw = (.at h dev, s)) →
    exec (.mdrain r n) s = .next ({ s with nextId := s.nextId + 1 }.modMe (queuedMatrix
      (.mdrain s.nextId { d := r.d, k := n, tile := t, slot := bits (s.me.gr r.a) 11 0, row := bits w 11 0, col := bits w 23 12,
                          mode := m, srkey := s.me.srkey, amax := s.me.gr r.b, pc := s.me.pc, written := false, flying := [], failed := false,
                          largest := 0, merge := none }) r.d))

/-- MCFG, and what MSWAP, MZERO, MMA and MDRAIN put into the matrix queue. -/
def Obligations.MatrixInstructionsQueue : Prop := McfgConfigures ∧ MswapAndMzeroQueue ∧ MmaQueuesItsOperation ∧ MdrainQueuesItsOperation

namespace Sys2Proof.Claims
open Sys2Proof.Machine

/-- Whether the element that a lane addresses lies in the bank (R234). -/
def inBank (acc : Accumulator) (elem : Nat → Nat × Nat) (i : Nat) : Bool :=
  decide ((elem i).1 < rowsOf acc) && decide ((elem i).2 < colsOf acc)

/-- A get's lane: the element rounded to FP32, the default NaN for a NaN, +0 outside the bank. -/
def gotFrom (acc : Accumulator) (elem : Nat → Nat × Nat) (k : Core) (m : RoundMode) (i : Nat) : Word32 × BitVec 5 :=
  let value := fmtWide.decode (element acc.vis (elem i).1 (elem i).2).toNat
  if inBank acc elem i then (if value.isNaN then (0x7FC00000, 0) else round32 m (drawOf k m i) value) else (0, 0)

/-- A put's core: the visible bank `vis`, DIRTY, and NV for a signalling lane. -/
def putInto (acc : Accumulator) (elem : Nat → Nat × Nat) (d : Reg) (n : KField) (vis : Bank) (k : Core) : Core :=
  { k with acc := k.acc.set n.val { cfg := acc.cfg ||| 1#64 <<< 18, work := acc.work, vis := vis } n.isLt
           fcsr := withFlags k (if (List.range 32).any fun i => inBank acc elem i && (dec32 (lane k d i)).isSig then 16 else 0)
           pc := k.pc + 4, stall := false }

/-- The visible bank after a put: each addressed element holds its lane's value, every other element stays. -/
def PutBank (s : State) (acc : Accumulator) (elem : Nat → Nat × Nat) (d : Reg) (vis : Bank) : Prop :=
  (∀ i < 32, inBank acc elem i = true → if (dec32 (lane s.me d i)).isNaN then element vis (elem i).1 (elem i).2 = 0x7FC0000000
    else eqVal (fmtWide.decode (element vis (elem i).1 (elem i).2).toNat) (dec32 (lane s.me d i)) = true) ∧
  ∀ row < 64, ∀ col < 64, (∀ i < 32, elem i ≠ (row, col)) → element vis row col = element acc.vis row col

end Sys2Proof.Claims

/-- R234, R224, R225: a slice move of a configured accumulator with no queued swap or drain: a get rounds the visible bank's
elements to FP32 (a NaN is the default NaN, a lane outside the bank +0) with its flags; a put writes the lanes into the visible
bank exactly, sets DIRTY, and raises NV alone, for a signalling lane (of those inside the bank: log entry 73, the model's
choice). -/
def Obligations.SliceMovesReachTheVisibleBank : Prop :=
  ∀ (s : State) (r : R2) (n : KField) (m : RoundMode), fullAt s.me [.g r.a, .v r.d] →
    let acc := s.me.acc.get n
    let pos := s.me.gr r.a
    (∀ i ∈ s.me.mqueue, i.swapsOrDrains n = false) → configured acc → bits pos 63 12 = 0 → bits pos 5 0 < rowsOf acc →
    bits pos 11 6 < colsOf acc →
    let byRow := fun i : Nat => (bits pos 5 0, bits pos 11 6 + i)
    let byCol := fun i : Nat => (bits pos 5 0 + i, bits pos 11 6)
    (resolves s.me none m →
      exec (.mrowGet r n) s = .next (s.modMe fun k => wroteLanes none r.d (gotFrom acc byRow k m) k) ∧
      exec (.mcolGet r n) s = .next (s.modMe fun k => wroteLanes none r.d (gotFrom acc byCol k m) k)) ∧
    (∃ vis, exec (.mrowPut r n) s = .next (s.modMe (putInto acc byRow r.d n vis)) ∧ PutBank s acc byRow r.d vis) ∧
    (∃ vis, exec (.mcolPut r n) s = .next (s.modMe (putInto acc byCol r.d n vis)) ∧ PutBank s acc byCol r.d vis)

namespace Sys2Proof.Claims
open Sys2Proof.Machine

/-- Element (r, c) of a tile of a scratchpad, decoded from memory (R106 to R114, R136). -/
def tileElem (s : State) (t : Tile) (r c : Nat) : FVal :=
  (decodeElem t.fmt t.cols (fun i => s.mem.read (2 ^ 52 + t.core * 2 ^ 19 + t.base.toNat + i)) r c).toF

/-- Element B(j, n) from the B image of a core's weight buffer: image element (n, j), or, where B is held compressed, the element
that the group's two positions give, +0 between them, and a NaN for positions out of order (R230, R158). -/
def imageAt (s : State) (c : Nat) (o : MmaOp) (n j : Nat) : FVal :=
  let rd := fun i => s.mem.read (2 ^ 53 + c * 2 ^ 17 + (o.off + i) % 2 ^ 17)
  let kept := fun col => (decodeElem o.bfmt (o.kdim / 2) rd n col).toF
  let pair := (rd (storageBytes o.n (o.kdim / 2) o.bfmt + n * (o.kdim / 8) + j / 8)).toNat / 2 ^ (4 * (j / 4 % 2)) % 16
  if o.sp = false then (decodeElem o.bfmt o.kdim rd n j).toF
  else if pair / 4 ≤ pair % 4 then FVal.bareNaN
  else if j % 4 = pair % 4 then kept (j / 4 * 2)
  else if j % 4 = pair / 4 then kept (j / 4 * 2 + 1)
  else .num false 0 0

/-- R232: RoundW, with the engine's one NaN; `none` is a NaN. -/
def roundWide : Option FVal → BitVec 40
  | some v => if v.isNaN then 0x7FC0000000 else BitVec.ofNat 40 (fmtWide.encode .rne 0 v).1
  | none => 0x7FC0000000

/-- A term of a sum: a NaN for a NaN element and for 0 × ∞ (R232). -/
def termOf (a b : FVal) : Option FVal := if a.isNaN || b.isNaN then none else mulVal a b

/-- The finite terms of a block: sign, magnitude and exponent. -/
def finiteTerms (ts : List (Option FVal)) : List (Bool × Nat × Int) :=
  ts.filterMap fun t => match t with | some (.num s m e) => some (s, m, e) | _ => none

/-- The exact sum of finite terms, as a multiple of 2^low. -/
def exactSum (ts : List (Bool × Nat × Int)) (low : Int) : Int :=
  (ts.map fun t => (if t.1 then -1 else 1) * ((t.2.1 * 2 ^ (t.2.2 - low).toNat : Nat) : Int)).sum

/-- R232: the sum of a block's terms: a NaN, an infinity, or exact; an exact zero is −0 only where every term is −0, which no term of
integer operands is. -/
def blockSum (int : Bool) (ts : List (Option FVal)) (low : Int) : Option FVal :=
  if none ∈ ts ∨ some (.inf true) ∈ ts ∧ some (.inf false) ∈ ts then none
  else if some (.inf true) ∈ ts then some (.inf true)
  else if some (.inf false) ∈ ts then some (.inf false)
  else
    let sum := exactSum (finiteTerms ts) low
    if sum = 0 then some (.num (!int && (finiteTerms ts).all fun t => t.1 && t.2.1 == 0) 0 0)
    else some (.num (decide (sum < 0)) sum.natAbs low)

/-- R232: an element of the working bank with a block's rounded sum added, rounded once more. -/
def addBlock (int : Bool) (low : Int) (w : BitVec 40) (ts : List (Option FVal)) : BitVec 40 :=
  let a := fmtWide.decode w.toNat
  let b := fmtWide.decode (roundWide (blockSum int ts low)).toNat
  if a.isNaN || b.isNaN then 0x7FC0000000 else roundWide (addVal .rne a b)

/-- What is left of the matrix queue behind an entry that has left it: join markers alone may go with the entry (R164). -/
def leftOf (rest q : List MatItem) : Prop := ∃ js, rest = js ++ q ∧ ∀ j ∈ js, ∃ m, j = .join m

/-- A core's writes to its own scratchpad from before packet number `n` are performed, and no copy's event is under way. -/
def enginesFree (s : State) (c n : Nat) : Prop :=
  (∀ p ∈ s.net, p.src = c → p.own = true → p.wr = true → p.id < n → p.stage = .reply ∨ p.stage = .error) ∧
  ∀ p ∈ s.net, p.stage ≠ .landing

end Sys2Proof.Claims

/-- R232, R226, R230: MMA_PERFORM adds, to every element of the working bank of the M × N accumulator, the products of A's row and B's
column, one block of 32 after another in ascending order: a block's sum is formed exactly and rounded once, then added with one
rounding, with the NaNs, infinities and zeros of R232; A may hold blocks, and B may be compressed. DIRTY is set, g[d] is filled with
1, and the MMA leaves the queue; every other element and accumulator, the flags, and every byte of memory stay. -/
def Obligations.MmaAccumulatesExactSums : Prop :=
  ∀ (s : State) (c : CoreNo) (id : Nat) (o : MmaOp) (rest : List MatItem), (s.core c.val).mqueue = .mma id o :: rest →
    s.eccBad = [] → s.eccOne = [] → enginesFree s c.val o.after → o.tile.level = .S → o.tile.base.toNat % 8 = 0 →
    o.tile.base.toNat + storageBytes o.tile.rows o.tile.cols o.tile.fmt ≤ 2 ^ 19 → o.row + o.m ≤ o.tile.rows → o.col + o.kdim ≤ o.tile.cols →
    (o.tile.fmt.isBlock = true → o.tile.cols % 32 = 0 ∧ o.col % 32 = 0 ∧ o.kdim % 32 = 0) →
    o.m ≤ 64 → o.n ≤ 64 → 0 < o.kdim → (o.d ≠ 0 → (s.core c.val).gIsFull o.d = false) → (s.core c.val).qwaits = [] →
    let before := (s.core c.val).acc
    ∃ t, exec (.mmaPerform c) s = .next t ∧ t.mem = s.mem ∧ (t.core c.val).fcsr = (s.core c.val).fcsr ∧
      leftOf rest (t.core c.val).mqueue ∧
      let after := (t.core c.val).acc
      (∀ n, n ≠ o.k → after.get n = before.get n) ∧ (after.get o.k).vis = (before.get o.k).vis ∧
      (after.get o.k).cfg = (before.get o.k).cfg ||| 1#64 <<< 18 ∧
      (o.d ≠ 0 → (t.core c.val).gr o.d = 1 ∧ (t.core c.val).gIsFull o.d = true) ∧
      (∀ i < 64, ∀ n < 64, ¬ (i < o.m ∧ n < o.n) → element (after.get o.k).work i n = element (before.get o.k).work i n) ∧
      ∀ i < o.m, ∀ n < o.n, ∀ low : Int,
        let terms := (List.range o.kdim).map fun j => termOf (tileElem s o.tile (o.row + i) (o.col + j)) (imageAt s c.val o n j)
        (∀ t ∈ finiteTerms terms, low ≤ t.2.2) →
        element (after.get o.k).work i n =
          ((List.range ((o.kdim + 31) / 32)).map fun b => (terms.drop (32 * b)).take 32).foldl (addBlock o.tile.fmt.isInt low)
            (element (before.get o.k).work i n)

/-- R227: MSWAP_PERFORM exchanges the banks of its accumulator and MZERO_PERFORM makes every element of its working bank +0, each
leaving the queue; every other accumulator, the configuration, the registers and memory stay. -/
def Sys2Proof.Claims.SwapAndZeroTheBanks : Prop :=
  ∀ (s : State) (c : CoreNo) (id : Nat) (n : KField) (rest : List MatItem),
    let k := s.core c.val
    let acc := k.acc.get n
    let leaves := fun (i : Instr) (a : Accumulator) => ∃ t, exec i s = .next t ∧ t.mem = s.mem ∧
      (t.core c.val).acc = k.acc.set n.val a n.isLt ∧ (t.core c.val).g = k.g ∧ (t.core c.val).gfull = k.gfull ∧
      (t.core c.val).v = k.v ∧ (t.core c.val).fcsr = k.fcsr ∧ leftOf rest (t.core c.val).mqueue ∧
      ∀ e, e ≠ c.val → t.core e = s.core e
    (k.mqueue = .mswap id n :: rest → leaves (.mswapPerform c) { acc with work := acc.vis, vis := acc.work }) ∧
    (k.mqueue = .mzero id n :: rest → leaves (.mzeroPerform c) { acc with work := [] })

namespace Sys2Proof.Claims
open Sys2Proof.Machine

/-- R236, step 2: the largest magnitude of the visible bank as FP32 bits under RUP; 0x7FC0_0000 where an element is a NaN. -/
def largestMag (acc : Accumulator) (x : Word32) : Prop :=
  let v := fun i j => fmtWide.decode (element acc.vis i j).toNat
  let inside := fun (i j : Nat) => i < rowsOf acc ∧ j < colsOf acc
  let nan := ∃ i j, inside i j ∧ (v i j).isNaN = true
  let inf := ∃ i j s, inside i j ∧ v i j = .inf s
  (nan → x = 0x7FC00000) ∧ (¬ nan → inf → x = 0x7F800000) ∧
  (¬ nan → ¬ inf → ∃ i j s m e, inside i j ∧ v i j = .num s m e ∧ x = (round32 .rup 0 (.num false m e)).1 ∧
    ∀ i' j' s' m' e', inside i' j' → v i' j' = .num s' m' e' → ltVal (.num false m e) (.num false m' e') = false)

/-- A core whose drain has left its matrix queue, complete: g[d] holds 1, its accumulators and flags stay. -/
def drainDone (k t : Core) (o : DrainOp) (rest : List MatItem) : Prop :=
  leftOf rest t.mqueue ∧ t.acc = k.acc ∧ t.fcsr = k.fcsr ∧ (o.d ≠ 0 → t.gr o.d = 1 ∧ t.gIsFull o.d = true)

end Sys2Proof.Claims

/-- R236, R226, R308: MDRAIN_PERFORM sends the writes of the visible bank, encoded under the latched mode, into an `fp32` tile of
the scratchpad: packets of at most eight words, with the drain's place in program order and its PC, whose masks name exactly the
elements (DROW + i, DCOL + j) and whose data holds the encoding of bank element (i, j), the default NaN for a NaN. No flag is
raised, the bank stays, and the largest magnitude of the bank is formed. -/
def Sys2Proof.Claims.MdrainSendsItsWords : Prop :=
  ∀ (s : State) (c : CoreNo) (id : Nat) (o : DrainOp) (rest : List MatItem), (s.core c.val).mqueue = .mdrain id o :: rest →
    o.written = false → o.tile.core = c.val → o.tile.fmt = .fp32 → o.tile.base.toNat % 8 = 0 →
    o.tile.base.toNat + storageBytes o.tile.rows o.tile.cols .fp32 ≤ 2 ^ 19 →
    let acc := (s.core c.val).acc.get o.k
    o.row + rowsOf acc ≤ o.tile.rows → o.col + colsOf acc ≤ o.tile.cols →
    let place := fun i j => 2 ^ 52 + c.val * 2 ^ 19 + o.tile.base.toNat + 4 * ((o.row + i) * o.tile.cols + o.col + j)
    let value := fun i j =>
      let v := fmtWide.decode (element acc.vis i j).toNat
      if v.isNaN then 0x7FC00000
      else (fmtFP32.encode o.mode (srDraw o.mode o.srkey (o.tile.row0 + (o.row + i)) (o.tile.col0 + (o.col + j)) o.tile.stream) v).1
    ∃ t ps x, exec (.mdrainPerform c) s = .next t ∧ t.mem = s.mem ∧ t.net = s.net ++ ps ∧ largestMag acc x ∧
      t.core c.val = { s.core c.val with
        mqueue := .mdrain id { o with written := true, flying := ps.map (·.id), largest := x } :: rest } ∧
      (∀ p ∈ ps, p.src = c.val ∧ p.own = true ∧ p.since = id ∧ p.pc = o.pc ∧ p.parts.length ≤ 8 ∧
        (∃ ws, p.op = .engWrite .matrix 0 0 o.tile ws) ∧ (p.stage = .held ∨ p.stage = .ni ∨ p.stage = .torus)) ∧
      ((ps.flatMap (·.parts)).map (·.addr)).Pairwise (· < ·) ∧
      (∀ i < rowsOf acc, ∀ j < colsOf acc, ∃ p ∈ ps, ∃ w ∈ p.parts, w.addr = place i j / 8 * 8 ∧
        ∀ b < 32, w.data.getLsbD (8 * (place i j % 8) + b) = (value i j).testBit b) ∧
      ∀ p ∈ ps, ∀ w ∈ p.parts, ∀ b < 64, w.mask.getLsbD b = true ↔
        ∃ i j, i < rowsOf acc ∧ j < colsOf acc ∧ w.addr = place i j / 8 * 8 ∧ 8 * (place i j % 8) ≤ b ∧ b < 8 * (place i j % 8) + 32

/-- R236, R98: a drain whose words have all been acknowledged fills g[d] with 1 and leaves the queue where it names no amax address;
one of whose words failed leaves it with g[d] empty; one with an address sends the AMAX of its maximum there, and raises
ACCESS_VIOLATION with the address, g[d] empty, where the address no longer translates. The merge makes the 32-bit word at its home
the larger as unsigned numbers; its acknowledgement fills g[d] with 1, and the drain leaves the queue. -/
def Sys2Proof.Claims.MdrainMergesAndCompletes : Prop :=
  (∀ (s : State) (c : CoreNo) (id : Nat) (o : DrainOp) (rest : List MatItem), (s.core c.val).mqueue = .mdrain id o :: rest →
    o.written = true → o.flying = [] → o.merge = none → (s.core c.val).qwaits = [] →
    (o.d ≠ 0 → (s.core c.val).gIsFull o.d = false) →
    let k := s.core c.val
    (o.failed = false → o.amax = 0 → ∃ t, exec (.mdrainPerform c) s = .next t ∧ t.mem = s.mem ∧ t.net = s.net ∧
      drainDone k (t.core c.val) o rest) ∧
    (o.failed = true → ∃ t, exec (.mdrainPerform c) s = .next t ∧ t.mem = s.mem ∧ t.net = s.net ∧
      leftOf rest (t.core c.val).mqueue ∧ (t.core c.val).g = k.g ∧ (t.core c.val).gfull = k.gfull) ∧
    (∀ (pa : Nat) (dev : Bool), o.failed = false → o.amax ≠ 0 → s.translateVa c.val 7 o.amax .rw = (.ok pa dev, s) →
      ∃ t p, exec (.mdrainPerform c) s = .next t ∧ t.mem = s.mem ∧ t.net = s.net ++ [p] ∧
        p.op = .amax (BitVec.ofNat 64 o.largest.toNat) (pa % 8) ∧ p.parts = [⟨pa, 0, 0⟩] ∧ p.va = o.amax ∧ p.pc = o.pc ∧
        p.src = c.val ∧ p.since = id ∧ p.device = dev ∧
        (t.core c.val).mqueue = .mdrain id { o with merge := some p.id } :: rest ∧ (t.core c.val).gfull = k.gfull) ∧
    ∀ x, o.failed = false → o.amax ≠ 0 → s.translateVa c.val 7 o.amax .rw = (.trap x, s) → k.force = ForceUnit.idle →
      ∃ t, exec (.mdrainPerform c) s = .next t ∧ t.mem = s.mem ∧ leftOf rest (t.core c.val).mqueue ∧
        (t.core c.val).g = k.g ∧ (t.core c.val).gfull = k.gfull ∧
        (t.core c.val).pending = k.pending ++ [⟨2, 0x09, o.amax, none, id⟩]) ∧
  (∀ (s : State) (n : Nat) (p : Packet) (w : Part) (x : Word) (off : Nat), AtHome s n p w [] → p.op = .amax x off →
    p.merged = [] → plainHome s w.addr → s.mem.wf = true → w.addr % 4 = 0 → x.toNat < 2 ^ 32 →
    ∃ t, exec (.atomicAtHome n) s = .next t ∧ t.mem.readNat w.addr 4 = max (s.mem.readNat w.addr 4) x.toNat ∧
      (∀ a, a < w.addr ∨ w.addr + 4 ≤ a → t.mem.read a = s.mem.read a) ∧ ∃ q, t.packet? n = some q ∧ q.stage = .reply ∧ q.op = p.op) ∧
  ∀ (s : State) (n : Nat) (p : Packet) (x : Word) (off id : Nat) (o : DrainOp) (rest : List MatItem), s.packet? n = some p →
    p.stage = .reply → p.stamp = none → p.op = .amax x off → (s.core p.src).mqueue = .mdrain id o :: rest → o.merge = some p.id →
    (s.core p.src).qwaits = [] → (o.d ≠ 0 → (s.core p.src).gIsFull o.d = false) →
    ∃ t, exec (.storeAck n) s = .next t ∧ t.mem = s.mem ∧ t.net = s.net.filter (fun q => q.id ≠ p.id) ∧
      drainDone (s.core p.src) (t.core p.src) o rest

/-- What MSWAP, MZERO and MDRAIN do when the matrix engine performs them, with the amax merge of MDRAIN. -/
def Obligations.BanksSwapZeroAndDrain : Prop := SwapAndZeroTheBanks ∧ MdrainSendsItsWords ∧ MdrainMergesAndCompletes

/-! ## The copy engine -/

namespace Sys2Proof.Claims
open Sys2Proof.Machine

/-- A rounding code of a control or operation word: 0b000 reads `fcsr` (R152, R116). -/
abbrev codeResolves (k : Core) (code : Nat) (m : RoundMode) : Prop :=
  if code = 0 then resolves k none m else (code, m) ∈
    [(1, RoundMode.rne), (2, RoundMode.rtz), (3, RoundMode.rdn), (4, RoundMode.rup), (5, RoundMode.rmm), (6, RoundMode.sr)]

/-- A name that passes the first three checks of R131: its form, and a core whose partition the launch holds. -/
abbrev reachable (s : State) (n : Word) : Prop := goodName n ∧ s.reaches s.cur (ownerOf s.cur n) = true

/-- A follow-on word (R154, R160): an MMA whose registers are full and whose checks pass on tile `t`. -/
structure FollowOk (s : State) (a : Reg) (q : KField) (h : R3) (n : KField) (t : Tile) (bf : Fmt) (m : MmaOp) : Prop where
  word : s.me.gr (regUp a 2) = (Instr.word (.mma h n)).zeroExtend 64 ∧ (Instr.mma h n).wf = true
  full : fullAt s.me [.g (regUp a 2), .g h.a, .g (regUp h.a 1), .g h.b, .g h.d]
  tile : LocalTile s (s.me.gr h.a) t
  ok : MmaOk (s.me.acc.get n) t (s.me.gr (regUp h.a 1)) (s.me.gr h.b) bf
  op : m = mmaOpOf (s.me.acc.get n) t (bits (s.me.gr h.a) 11 0) (s.me.gr (regUp h.a 1)) (s.me.gr h.b) bf h.d n (some q) 0 s.me.pc

/-- R151, R152, R154: registers, control word, names and mode of a copy with `dests` destinations. -/
structure CopyOk (s : State) (r : R3) (many : Bool) (dests : List Word) (m : RoundMode) : Prop where
  full : fullAt s.me ([.g r.a, .g (regUp r.a 1), .g r.b, .g r.d] ++
    (if (s.me.gr (regUp r.a 1)).getLsbD 49 then [.g (regUp r.a 3)] else []) ++
    (List.range (bits (s.me.gr (regUp r.a 1)) 57 54 + 1)).map fun i => .g (regUp r.b i))
  zero : bits (s.me.gr (regUp r.a 1)) 63 58 = 0
  mode : codeResolves s.me (bits (s.me.gr (regUp r.a 1)) 53 51) m
  count : many = false → bits (s.me.gr (regUp r.a 1)) 57 54 = 0
  range : r.b.val + bits (s.me.gr (regUp r.a 1)) 57 54 ≤ 63
  weights : (s.me.gr (regUp r.a 1)).getLsbD 48 = true → many = false ∧ (s.me.gr r.b).toNat % 8 = 0 ∧ (s.me.gr r.b).toNat < 2 ^ 17
  pruned : (s.me.gr (regUp r.a 1)).getLsbD 49 = true →
    bits (s.me.gr (regUp r.a 1)) 23 12 % 8 = 0 ∧ (bits (s.me.gr (regUp r.a 1)) 47 36 + 1) % 8 = 0 ∧
    reachable s (s.me.gr (regUp r.a 3))
  listed : dests = (List.range (bits (s.me.gr (regUp r.a 1)) 57 54 + 1)).map fun i => s.me.gr (regUp r.b i)
  names : reachable s (s.me.gr r.a) ∧ ((s.me.gr (regUp r.a 1)).getLsbD 48 = false → ∀ n ∈ dests, reachable s n)

/-- The copy that enters a queue, with everything that R154 latches. -/
structure CopyLatched (s : State) (r : R3) (q : KField) (dests : List Word) (m : RoundMode) (f : Option MmaOp) (o : CopyOp) : Prop where
  id : o.id = s.nextId ∧ o.after = s.nextId ∧ o.d = r.d ∧ o.k = q ∧ o.pc = s.me.pc
  words : o.src = s.me.gr r.a ∧ o.ctl = s.me.gr (regUp r.a 1) ∧ o.metaName = s.me.gr (regUp r.a 3) ∧ o.dsts = dests
  mode : o.mode = m ∧ o.srkey = s.me.srkey ∧ o.follow = f
  frame : o.frame = s.me.evalTile

/-- A copy that has not started. -/
def fresh : CopyRun := ⟨.waiting, false, 0, 0, [], []⟩

/-- A core whose copy queue gained a copy that has not started; the completion registers are empty. -/
def queuedCopy (q : KField) (o : CopyOp) (ds : List Reg) (k : Core) : Core :=
  { k with
    queues := k.queues.set q.val (k.queues.get q ++ [.copy o fresh]) q.isLt
    gfull := ds.foldl (fun (w : Word) (d : Reg) => if d = 0 then w else w &&& ~~~(1#64 <<< d.val)) k.gfull
    pc := k.pc + 4, stall := false }

end Sys2Proof.Claims

/-- R151, R154, R160, R149: a copy whose issue checks pass enters its queue with its operands, mode and `srkey` latched, and empties
g[d]; a `.mma` form latches its MMA as well and empties that g[d] (once where the two are one register: log entry 69, the model's
choice). The engine has touched nothing yet: no byte changes. -/
def Sys2Proof.Claims.CopiesEnterTheirQueue : Prop :=
  ∀ (s : State) (r : R3) (q : KField) (dests : List Word) (m : RoundMode), s.me.holdFence = [] → (s.me.queues.get q).length < 16 →
    let enters := fun (i : Instr) (f : Option MmaOp) (ds : List Reg) => ∃ o, CopyLatched s r q dests m f o ∧
      exec i s = .next ({ s with nextId := s.nextId + 1 }.modMe (queuedCopy q o ds))
    (CopyOk s r false dests m → enters (.cpy r q) none [r.d] ∧
      ∀ h n t bf f, FollowOk s r.a q h n t bf f → enters (.cpyMma r q) (some f) [h.d, r.d]) ∧
    (CopyOk s r true dests m → enters (.cpym r q) none [r.d] ∧
      ∀ h n t bf f, FollowOk s r.a q h n t bf f → enters (.cpymMma r q) (some f) [h.d, r.d])

namespace Sys2Proof.Claims
open Sys2Proof.Machine

/-- An `fp32` tile in a scratchpad, whole (R136, R140). -/
structure WholeTile (t : Tile) : Prop where
  level : t.level = .S
  fmt : t.fmt = .fp32
  some : 0 < t.rows ∧ 0 < t.cols
  fits : t.base.toNat % 8 = 0 ∧ t.base.toNat + storageBytes t.rows t.cols .fp32 ≤ 2 ^ 19

/-- The entry, and the tile, that a name finds from core `c`. -/
def found (s : State) (c : Nat) (n : Word) : LoftEntry := s.entry (ownerOf c n) (bits n 11 0)
def foundTile (s : State) (c : Nat) (n : Word) : Tile := (found s c n).tile (ownerOf c n)

/-- R155: the name finds no tile: its generation is stale, or the slot is FREE. -/
def stale (s : State) (c : Nat) (n : Word) : Prop := (found s c n).gen.toNat ≠ bits n 31 24 ∨ (found s c n).state = .free

/-- R155, R264: a copy may write the tile: it is VALUE, or BLACKHOLE and the tile in evaluation, from before the copy's issue
until now. -/
def mayWrite (s : State) (c : Nat) (frame : Option (Nat × Nat)) (n : Word) : Prop :=
  (found s c n).state = .value ∨ (found s c n).state = .blackhole ∧ frame = some (ownerOf c n, bits n 11 0) ∧
    (s.core c).evalTile = some (ownerOf c n, bits n 11 0)

/-- R155: why a destination is refused when its copy starts, for the shape that the region gives it. -/
inductive Refused (s : State) (c : Nat) (frame : Option (Nat × Nat)) (shape : Nat × Nat) (n : Word) : Nat → Prop
  | stale : stale s c n → Refused s c frame shape n 0x07
  | state : ¬ stale s c n → ¬ mayWrite s c frame n → Refused s c frame shape n 0x08
  | shape : ¬ stale s c n → mayWrite s c frame n → ((found s c n).rows, (found s c n).cols) ≠ shape → Refused s c frame shape n 0x09

/-- The flat address of element (r, c) of an `fp32` tile of a scratchpad (R136), and of word `w` of a tile. -/
def elemPlace (t : Tile) (r c : Nat) : Nat := 2 ^ 52 + t.core * 2 ^ 19 + t.base.toNat + 4 * (r * t.cols + c)
def wordPlace (t : Tile) (w : Nat) : Nat := 2 ^ 52 + t.core * 2 ^ 19 + t.base.toNat + 8 * w

/-- The head of copy queue `q` of core `c`: a copy, its progress, and what is behind it. -/
abbrev atHead (s : State) (c : Nat) (q : KField) (o : CopyOp) (r : CopyRun) (rest : List CopyItem) : Prop :=
  (s.core c).queues.get q = .copy o r :: rest

/-- R150, R413: what lets the copy at the head start: the core runs, its earlier stores are performed, and its launch holds every
core that the copy names. -/
structure MayStart (s : State) (c : Nat) (o : CopyOp) : Prop where
  run : (s.core c).run = .running
  stores : ∀ p ∈ s.net, p.src = c → p.wr = true → p.id < o.after → p.stage = .reply ∨ p.stage = .error
  names : ∀ n ∈ o.src :: o.dsts, s.reaches c (ownerOf c n) = true
  plain : o.ctl.getLsbD 48 = false ∧ o.ctl.getLsbD 49 = false

/-- The region's rows and columns, and the shape of its destinations (R152, R155). -/
def regionRows (o : CopyOp) : Nat := bits o.ctl 35 24 + 1
def regionCols (o : CopyOp) : Nat := bits o.ctl 47 36 + 1
def destShape (o : CopyOp) : Nat × Nat := if o.ctl.getLsbD 50 then (regionCols o, regionRows o) else (regionRows o, regionCols o)

/-- The region lies in the source. -/
abbrev inSource (o : CopyOp) (a : Tile) : Prop :=
  bits o.ctl 11 0 + regionRows o ≤ a.rows ∧ bits o.ctl 23 12 + regionCols o ≤ a.cols

/-- The element of the source that element (i, j) of a destination receives (R157), by its number in the source. -/
def sourceElem (o : CopyOp) (a : Tile) (i j : Nat) : Nat :=
  let tr := o.ctl.getLsbD 50
  (bits o.ctl 11 0 + if tr then j else i) * a.cols + (bits o.ctl 23 12 + if tr then i else j)

/-- A destination as a copy that has started holds it. -/
def destOf (s : State) (c : Nat) (i : Nat) (n : Word) : CopyDest :=
  let t := foundTile s c n
  ⟨i, n, t, (List.range (storageBytes t.rows t.cols .fp32 / 8)).map fun w => (w, wordPlace t w, false)⟩

end Sys2Proof.Claims

/-- R155, R156, R281: COPY_START of a plain copy from an `fp32` tile checks its parties and sends the reads of exactly the words that
hold the region; a destination that fails its check (a stale name, a tile that is not VALUE, another shape) is refused with its
reason, and the others stand; a source that fails refuses them all. Nothing is written. -/
def Sys2Proof.Claims.CopiesReadTheirSource : Prop :=
  ∀ (s : State) (c : CoreNo) (q : KField) (o : CopyOp) (rest : List CopyItem), atHead s c.val q o fresh rest → MayStart s c.val o →
    let a := foundTile s c.val o.src
    let refuses := fun reason : Nat => ∃ t, exec (.copyStart c q) s = .next t ∧ t.mem = s.mem ∧ t.net = s.net ∧
      atHead t c.val q o ⟨.writing, false, reason, 2 ^ o.dsts.length - 1, [], []⟩ rest
    (stale s c.val o.src → refuses 0x02) ∧
    (¬ stale s c.val o.src → (found s c.val o.src).state ≠ .value → refuses 0x03) ∧
    (¬ stale s c.val o.src → (found s c.val o.src).state = .value → ¬ inSource o a → refuses 0x04) ∧
    (¬ stale s c.val o.src → (found s c.val o.src).state = .value → inSource o a → WholeTile a →
      (∀ n ∈ o.dsts, (∃ why, Refused s c.val o.frame (destShape o) n why) ∨ WholeTile (foundTile s c.val n)) →
      ∃ t ps run ds, exec (.copyStart c q) s = .next t ∧ t.mem = s.mem ∧ t.loft = s.loft ∧ t.net = s.net ++ ps ∧
        atHead t c.val q o run rest ∧
        run.phase = .reading ⟨a, none, bits o.ctl 11 0, bits o.ctl 23 12, regionRows o, regionCols o⟩ [] ds ∧
        run.reason = 0 ∧ run.faulted = false ∧ run.flying = ps.map (·.id) ∧ run.failmask < 2 ^ o.dsts.length ∧
        (∀ i n, o.dsts[i]? = some n →
          ((run.failmask.testBit i = true ↔ ∃ why, Refused s c.val o.frame (destShape o) n why) ∧
            (∀ why, Refused s c.val o.frame (destShape o) n why → mapGet 0 run.dreasons i = why) ∧
            (run.failmask.testBit i = false → destOf s c.val i n ∈ ds))) ∧
        (∀ d ∈ ds, ∃ i n, o.dsts[i]? = some n ∧ run.failmask.testBit i = false ∧ d = destOf s c.val i n) ∧
        (∀ p ∈ ps, p.src = c.val ∧ p.pc = o.pc ∧ p.since = o.id ∧ ∃ ws, p.op = .engRead (.copy q) 0 a ws ∧
          p.parts = ws.map fun w => ⟨wordPlace a w, 0, 0⟩) ∧
        ∀ w, (∃ p ∈ ps, ⟨wordPlace a w, 0, 0⟩ ∈ p.parts) ↔ ∃ i < (destShape o).1, ∃ j < (destShape o).2, w = sourceElem o a i j / 2)

/-- R156, R157, R163: once its words have arrived, the copy sends the writes of its destinations on its own frond: every element of
each gets the source element that the region gives it, bit for bit, transposed where TR says so, and no other bit is named. -/
def Sys2Proof.Claims.CopiesSendTheirData : Prop :=
  ∀ (s : State) (c : CoreNo) (q : KField) (o : CopyOp) (r : CopyRun) (rest : List CopyItem) (a : Tile) (got : SMap Word)
    (ds : List CopyDest), atHead s c.val q o r rest → o.ctl.getLsbD 48 = false → WholeTile a → inSource o a →
    r.phase = .reading ⟨a, none, bits o.ctl 11 0, bits o.ctl 23 12, regionRows o, regionCols o⟩ got ds → r.flying = [] → r.reason = 0 →
    (∀ d ∈ ds, WholeTile d.tile ∧ d.tile.core / 144 = c.val / 144 ∧ (d.tile.rows, d.tile.cols) = destShape o ∧
      d.homes = (List.range (storageBytes d.tile.rows d.tile.cols .fp32 / 8)).map fun w => (w, wordPlace d.tile w, false)) →
    ∃ t ps, exec (.copyStart c q) s = .next t ∧ t.mem = s.mem ∧ t.net = s.net ++ ps ∧
      atHead t c.val q o { r with phase := .writing, flying := ps.map (·.id) } rest ∧
      (∀ d ∈ ds, ∀ i < d.tile.rows, ∀ j < d.tile.cols, ∃ p ∈ ps, ∃ w ∈ p.parts, ∃ ws,
        p.op = .engWrite (.copy q) d.dest d.name d.tile ws ∧ w.addr = elemPlace d.tile i j / 8 * 8 ∧
        ∀ b < 32, w.mask.getLsbD (8 * (elemPlace d.tile i j % 8) + b) = true) ∧
      ∀ p ∈ ps, p.src = c.val ∧ p.pc = o.pc ∧ p.since = o.id ∧ ∃ d ∈ ds, ∃ ws, p.op = .engWrite (.copy q) d.dest d.name d.tile ws ∧
        ∀ w ∈ p.parts, ∀ b < 64, w.mask.getLsbD b = true → ∃ i < d.tile.rows, ∃ j < d.tile.cols, ∃ n < 32,
          w.addr = elemPlace d.tile i j / 8 * 8 ∧ b = 8 * (elemPlace d.tile i j % 8) + n ∧
          w.data.getLsbD b = (mapGet 0 got (sourceElem o a i j / 2)).getLsbD (32 * (sourceElem o a i j % 2) + n)

/-- R161, R163, R248: a word of a copy that arrives at its destination is written there, the bits that its mask names and no others;
where the destination has been freed since the copy started, that word and those behind it are refused with 0x07 instead. The answers go back to the copy: words read, a write done, a destination refused. -/
def Sys2Proof.Claims.CopyPacketsAreAnswered : Prop :=
  (∀ (s : State) (n : Nat) (p : Packet) (w : Part) (rest : List Part) (q : KField) (i : Nat) (name : Word) (t : Tile)
      (ws : List Nat), AtHome s n p w rest → p.op = .engWrite (.copy q) i name t ws →
    let a := w.addr / 8 * 8
    (stale s p.src name → exec (.homeAccess n) s = .next { s with net := withPacket s { p with
      stage := .reply, parts := [], bad := 0x07 } }) ∧
    (¬ stale s p.src name → plainHome s w.addr → s.mem.wf = true → w.mask ≠ 0 →
      ∃ u, exec (.homeAccess n) s = .next u ∧ u.net = withPacket s { p with
          parts := rest, got := p.got ++ [(a, 0)], stage := if rest = [] then .reply else p.stage } ∧
        (∀ b < 64, (u.mem.readWord a).getLsbD b = if w.mask.getLsbD b then w.data.getLsbD b else (s.mem.readWord a).getLsbD b) ∧
        (∀ x, x < a ∨ a + 8 ≤ x → u.mem.read x = s.mem.read x) ∧ u.cores = s.cores ∧ u.loft = s.loft)) ∧
  (∀ (s : State) (n : Nat) (p : Packet) (q : KField) (o : CopyOp) (r : CopyRun) (rest : List CopyItem), s.packet? n = some p →
    p.stage = .reply → p.stamp = none → atHead s p.src q o r rest → p.id ∈ r.flying →
    (∀ o' r', CopyItem.copy o' r' ∈ rest → p.id ∉ r'.flying) →
    let left := r.flying.filter (· ≠ p.id)
    (∀ t ws g got ds, p.op = .engRead (.copy q) 0 t ws → p.got.length = ws.length → ws.Nodup → r.phase = .reading g got ds →
      ∃ u got', exec (.registerFill n) s = .next u ∧ atHead u p.src q o { r with phase := .reading g got' ds, flying := left } rest ∧
        u.mem = s.mem ∧ (∀ k, k ∉ ws → mapGet 0 got' k = mapGet 0 got k) ∧
        ∀ (j w : Nat) (x : Nat × Word), ws[j]? = some w → p.got[j]? = some x → mapGet 0 got' w = x.2) ∧
    ∀ i name t ws, p.op = .engWrite (.copy q) i name t ws →
      ∃ u, exec (.storeAck n) s = .next u ∧ u.mem = s.mem ∧
        atHead u p.src q o (if p.bad = 0 then { r with flying := left } else
          { r with flying := left, failmask := r.failmask ||| 2 ^ i, dreasons := mapSet r.dreasons i p.bad.toNat }) rest)

/-- R153, R160, R161: COPY_COMPLETE of a copy whose destinations are all applied or refused takes it from its queue and fills the
completion register; a success enters the follow-on, if any, into the matrix queue; a failure reports FAILMASK, and as
REASON the source's or else that of its lowest-numbered failed destination, and COPY_FAULT is pending with the copy's address, queue, reason and mask. (A follow-on that finds the matrix queue full holds its copy's
completion until there is room: log entry 68, the model's choice.) -/
def Sys2Proof.Claims.CopyCompletionReports : Prop :=
  ∀ (s : State) (c : CoreNo) (q : KField) (o : CopyOp) (run : CopyRun) (rest : List CopyItem),
    (s.core c.val).queues.get q = .copy o run :: rest → run.phase = .writing → run.flying = [] → o.d ≠ 0 →
    (s.core c.val).gIsFull o.d = false → run.failmask < 2 ^ 16 → run.reason < 2 ^ 8 →
    (run.failmask = 0 → run.reason = 0 → run.dreasons = [] → (o.follow.isSome = true → (s.core c.val).mqueue.length < 16) →
      ∃ t, exec (.copyComplete c q) s = .next t ∧ (t.core c.val).gr o.d = 1 ∧ (t.core c.val).gIsFull o.d = true ∧
        (∀ i ∈ (t.core c.val).queues.get q, i ∈ rest) ∧ (t.core c.val).pending = (s.core c.val).pending ∧ t.mem = s.mem ∧
        ∀ m, o.follow = some m → MatItem.mma o.id { m with after := s.nextId } ∈ (t.core c.val).mqueue) ∧
    (run.failmask = 0 → o.follow.isSome = true → (s.core c.val).mqueue.length = 16 → exec (.copyComplete c q) s = .next s) ∧
    (∀ why, run.failmask ≠ 0 → why < 2 ^ 8 →
      (if run.reason ≠ 0 then why = run.reason
        else (run.dreasons.map (·.1)).Pairwise (· < ·) ∧ (∀ e ∈ run.dreasons, run.failmask.testBit e.1 = true) ∧
          ∃ i, (i, why) ∈ run.dreasons ∧ ∀ j < i, run.failmask.testBit j = false) →
      ∃ t, exec (.copyComplete c q) s = .next t ∧ (t.core c.val).gIsFull o.d = true ∧
        (t.core c.val).gr o.d = BitVec.ofNat 64 (run.failmask * 2 ^ 16 + why * 2 ^ 8 + 1) ∧
        (t.core c.val).pending = (s.core c.val).pending ++ [⟨3, 0x0B,
          BitVec.ofNat 64 (o.pc.toNat % 2 ^ 32 * 2 ^ 32 + q.val * 2 ^ 24 + why * 2 ^ 16 + run.failmask), none, o.id⟩] ∧
        t.mem = s.mem ∧ ∀ m, MatItem.mma o.id m ∈ (t.core c.val).mqueue → MatItem.mma o.id m ∈ (s.core c.val).mqueue)

/-- What a copy reads, sends and moves when its queue performs it, and what its completion reports. -/
def Obligations.CopiesArePerformed : Prop := CopiesReadTheirSource ∧ CopiesSendTheirData ∧ CopyPacketsAreAnswered ∧ CopyCompletionReports

namespace Sys2Proof.Claims
open Sys2Proof.Machine

/-- The operations that a queue mask covers (R164): the copies of its copy queues, and of the matrix queue those that bit 4 names or
that a copy of a named queue handed over. -/
def covered (k : Core) (m : BitVec 5) (i : Nat) : Prop :=
  (∃ q : Fin 4, m.getLsbD q.val = true ∧ ∃ o r, CopyItem.copy o r ∈ k.queues.get q ∧ o.id = i) ∨
  (∃ o, MatItem.mma i o ∈ k.mqueue ∧ (m.getLsbD 4 = true ∨ ∃ q, o.origin = some q ∧ m.getLsbD q.val = true)) ∨
  (m.getLsbD 4 = true ∧ ((∃ n, MatItem.mswap i n ∈ k.mqueue) ∨ (∃ n, MatItem.mzero i n ∈ k.mqueue) ∨
    (∃ o, MatItem.mdrain i o ∈ k.mqueue) ∨ MatItem.matmul i ∈ k.mqueue))

/-- No queue of a core begins with a join, and no QWAIT of it is in flight. -/
abbrev noJoins (k : Core) : Prop :=
  (∀ q : Fin 4, ∀ mk rest, k.queues.get q ≠ .join mk :: rest) ∧ (∀ mk rest, k.mqueue ≠ .join mk :: rest) ∧ k.qwaits = []

end Sys2Proof.Claims

/-- R164: QFENCE puts a join for the covered operations behind every queue of its mask (an empty queue with nothing covered takes
none, for the join would be done with at once), and waits while one is full. QWAIT with d = 0 goes on once nothing covered is left, and waits until then; with another d it empties g[d], which the mask
fills once the covered operations have completed: at once where there are none. -/
def Sys2Proof.Claims.JoinsCoverEarlierOperations : Prop :=
  ∀ (s : State) (m : BitVec 5), noJoins s.me →
    ((∀ q : Fin 4, m.getLsbD q.val = true → (s.me.queues.get q).length < 16) → (m.getLsbD 4 = true → s.me.mqueue.length < 16) →
      ∃ t ids, exec (.qfence m) s = .next t ∧ (∀ i, i ∈ ids ↔ covered s.me m i) ∧ t.me.pc = s.me.pc + 4 ∧ t.mem = s.mem ∧
        t.me.gfull = s.me.gfull ∧
        (∀ q : Fin 4, t.me.queues.get q = if m.getLsbD q.val = false ∨ (ids = [] ∧ s.me.queues.get q = []) then s.me.queues.get q
          else s.me.queues.get q ++ [.join ⟨ids⟩]) ∧
        t.me.mqueue = if m.getLsbD 4 = false ∨ (ids = [] ∧ s.me.mqueue = []) then s.me.mqueue else s.me.mqueue ++ [.join ⟨ids⟩]) ∧
    (∀ q : Fin 4, m.getLsbD q.val = true → 16 ≤ (s.me.queues.get q).length →
      exec (.qfence m) s = .next (s.modMe fun k => { k with stall := true })) ∧
    (m.getLsbD 4 = true → 16 ≤ s.me.mqueue.length → exec (.qfence m) s = .next (s.modMe fun k => { k with stall := true })) ∧
    ((∀ i, ¬ covered s.me m i) → exec (.qwait 0 m) s = .next (s.modMe fun k => k.advance 4)) ∧
    ((∃ i, covered s.me m i) → exec (.qwait 0 m) s = .next (s.modMe fun k => { k with stall := true })) ∧
    ∀ d : Reg, d ≠ 0 → s.me.gIsFull d = true →
      ∃ t ids, exec (.qwait d m) s = .next t ∧ (∀ i, i ∈ ids ↔ covered s.me m i) ∧ t.mem = s.mem ∧ t.me.pc = s.me.pc + 4 ∧
        t.me.gfull = s.me.gfull &&& ~~~(1#64 <<< d.val) ∧ t.me.g = s.me.g ∧
        (if ids = [] then ∃ p, t.net = s.net ++ [p] ∧ p.stage = .reply ∧ p.src = s.cur ∧
            p.op = .value d 3 (BitVec.ofNat 64 m.toNat) ∧ t.me.qwaits = []
          else t.net = s.net ∧ t.me.qwaits = [⟨d, m, ids⟩])

/-- What the copy instructions, QFENCE and QWAIT put into the queues, and when a join is complete. -/
def Obligations.CopyQueuesHoldCopiesAndJoins : Prop := CopiesEnterTheirQueue ∧ JoinsCoverEarlierOperations

/-! ## Lofts -/

namespace Sys2Proof.Claims
open Sys2Proof.Machine

/-- A result that its producer delivers later (R167, R169): a packet of the core itself, on its way back. -/
def Owed (s t : State) (r : Reg) (cls : Nat) (v : Word) : Prop :=
  ∃ p, t.net = s.net ++ [p] ∧ p.stage = .reply ∧ p.src = s.cur ∧ p.op = .value r cls v ∧ t.nextId = s.nextId + 1

/-- A core that emptied g[d] (but g0) and goes on. -/
def armedAt (d : Reg) (k : Core) : Core :=
  { k with gfull := if d = 0 then k.gfull else k.gfull &&& ~~~(1#64 <<< d.val), pc := k.pc + 4, stall := false }

/-- The entry of a name as core `c` resolves it. -/
def entryOf (s : State) (c : Nat) (n : Word) : LoftEntry := s.entry (ownerOf c n) (bits n 11 0)

/-- A name that passes every check of R131 for core `c` at the owner. -/
abbrev current (s : State) (c : Nat) (n : Word) : Prop :=
  goodName n ∧ s.reaches c (ownerOf c n) = true ∧ (entryOf s c n).gen.toNat = bits n 31 24

/-- A reason with the low bits of a name (R132). -/
def faultVal (reason : Nat) (n : Word) : Word := BitVec.ofNat 64 (reason * 2 ^ 32 + bits n 31 0)

/-- The name of a slot of a core in absolute form (R130). -/
def absolute (c slot : Nat) (gen : Byte) : Word :=
  BitVec.ofNat 64 (gen.toNat * 2 ^ 24 + c / 144 * 2 ^ 20 + c % 144 / 12 * 2 ^ 16 + c % 12 * 2 ^ 12 + slot)

/-- R139, R140: a descriptor and a storage that make a tile of format `f` at level `lv`. -/
structure NewOk (s : State) (dsc st : Word) (f : Fmt) (lv : Level) : Prop where
  zero : bits dsc 63 44 = 0
  format : (bits dsc 40 36, f) ∈ formatCodes
  level : (bits dsc 42 41, lv) ∈ [(0, Level.S), (1, Level.H), (2, Level.X)]
  block : f.isBlock = true → (bits dsc 35 24 + 1) % 32 = 0
  slot : (ownEntry s dsc).state = .free
  aligned : st.toNat % 8 = 0
  low : lv = .S → st.toNat + storageBytes (bits dsc 23 12 + 1) (bits dsc 35 24 + 1) f ≤ 2 ^ 19 ∧
    ∀ e ∈ s.loft, e.1 / 4096 = s.cur → e.2.state ≠ .free → e.2.level = .S →
      st.toNat + storageBytes (bits dsc 23 12 + 1) (bits dsc 35 24 + 1) f ≤ e.2.base.toNat ∨
        e.2.base.toNat + storageBytes e.2.rows e.2.cols e.2.fmt ≤ st.toNat
  high : lv ≠ .S → bits st 63 56 = 0 ∧ bits st 55 48 < 0xFD

/-- The name that a descriptor asks for: absolute, or relative with zero deltas under NREL (R139, R140). -/
def newName (s : State) (dsc : Word) : Word :=
  if dsc.getLsbD 43 then BitVec.ofNat 64 ((ownEntry s dsc).gen.toNat * 2 ^ 24 + 2 ^ 23 + bits dsc 11 0)
  else absolute s.cur (bits dsc 11 0) (ownEntry s dsc).gen

/-- The entry of a new tile: VALUE, at the slot's generation. -/
def newEntry (s : State) (dsc org st : Word) (f : Fmt) (lv : Level) : LoftEntry :=
  { state := .value, gen := (ownEntry s dsc).gen, rows := bits dsc 23 12 + 1, cols := bits dsc 35 24 + 1, fmt := f, level := lv,
    base := st, row0 := bits org 23 0, col0 := bits org 47 24, stream := bits org 63 48, stook := none, owner := 0, ownerDepth := 0,
    waiters := [] }

/-- One entry of the lofts replaced. -/
def oneEntry (s t : State) (c slot : Nat) (e : LoftEntry) : Prop :=
  ∀ d n, t.entry d n = if 4096 * d + n = 4096 * c + slot then e else s.entry d n

/-- The status word (R144). -/
def statusOf (e : LoftEntry) (n : Word) : Word :=
  BitVec.ofNat 64 (e.gen.toNat * 2 ^ 36 +
    (if e.state = .free then 0 else (e.cols - 1) * 2 ^ 24 + (e.rows - 1) * 2 ^ 12 +
      ((formatCodes.find? fun x => x.2 = e.fmt).elim 0 (·.1)) * 2 ^ 7 + (match e.level with | .S => 0 | .H => 1 | .X => 2) * 2 ^ 5) +
    (if e.gen.toNat = bits n 31 24 then 2 ^ 4 else 0) +
    match e.state with | .free => 0 | .value => 1 | .suspended => 2 | .blackhole => 3)

/-- No write of the issuing core is held or on its way (R297, R298). -/
abbrev landed (s : State) : Prop := ∀ q ∈ s.net, q.src = s.cur → q.wr = true → q.unperformed = false

/-- The one launch that is not parked and holds the partition of core `c`. -/
structure HeldBy (s : State) (c : Nat) (l : Launch) : Prop where
  listed : s.launch? l.key = some l
  holds : l.holds c = true ∧ l.state ≠ .parked
  only : ∀ m ∈ s.launches, m.state ≠ .parked → m.holds c = true → m = l

end Sys2Proof.Claims

/-- R139, R140: TALLOC, outside a choice, makes the entry of a FREE slot VALUE with its descriptor's shape, empties g[d] and sends
it the name; a trap leaves the entry. No byte of storage changes. -/
def Sys2Proof.Claims.TallocMakesATile : Prop :=
  ∀ (s : State) (r : R3), fullAt s.me [.g r.a, .g (regUp r.a 1), .g r.b, .g r.d] → s.me.holdFence = [] → s.me.ctop = 0 → s.me.midway = none →
    let dsc := s.me.gr r.a
    (∀ f lv, NewOk s dsc (s.me.gr r.b) f lv →
      ∃ t, exec (.talloc r) s = .next t ∧ Owed s t r.d 4 (newName s dsc) ∧
        oneEntry s t s.cur (bits dsc 11 0) (newEntry s dsc (s.me.gr (regUp r.a 1)) (s.me.gr r.b) f lv) ∧
        t.me = armedAt r.d s.me ∧ t.mem = s.mem ∧ t.launches = s.launches ∧ ∀ c, c ≠ s.cur → t.core c = s.core c) ∧
    (∀ f lv, (bits dsc 40 36, f) ∈ formatCodes → (bits dsc 42 41, lv) ∈ [(0, Level.S), (1, Level.H), (2, Level.X)] →
      (f.isBlock = true → (bits dsc 35 24 + 1) % 32 = 0) → bits dsc 63 44 = 0 → (ownEntry s dsc).state ≠ .free →
      exec (.talloc r) s = .next (s.trap .loftFault (faultVal 0x01 (newName s dsc)))) ∧
    (bits dsc 63 44 ≠ 0 ∨ bits dsc 42 41 = 3 ∨ (∀ f, (bits dsc 40 36, f) ∉ formatCodes) →
      exec (.talloc r) s = .next (s.trap .loftFault (faultVal 0x02 (newName s dsc))))

/-- R141, R142, R134, R143: TFREE of a VALUE or SUSPENDED tile of the core's own loft makes its slot FREE with the next
generation; a stook goes back to its launch's pool unevaluated, and a spark of the slot leaves every spark queue. A FREE slot and a
BLACKHOLE tile raise LOFT_FAULT, and it waits while an operation of the core's queues names the slot. No byte changes. -/
def Sys2Proof.Claims.TfreeReleasesATile : Prop :=
  ∀ (s : State) (a : Reg) (p : Bool), s.me.gIsFull a = true → s.me.holdFence = [] →
    let n := s.me.gr a
    let slot := bits n 11 0
    let e := ownEntry s n
    let freed := { e with state := .free, gen := e.gen + 1, stook := none, owner := 0, ownerDepth := 0, waiters := [] }
    let frees := fun t : State => exec (.tfree a p) s = .next t ∧ oneEntry s t s.cur slot freed ∧ t.mem = s.mem ∧
      (∀ c x, x ∈ (t.core c).sparks ↔ x ∈ (s.core c).sparks ∧ ¬ (goodName x ∧ ownerOf s.cur x = s.cur ∧ bits x 11 0 = slot)) ∧
      t.me = { s.me with sparks := t.me.sparks, pc := s.me.pc + 4, stall := false } ∧
      ∀ c, c ≠ s.cur → t.core c = { s.core c with sparks := (t.core c).sparks }
    ownerOf s.cur n = s.cur → current s s.cur n →
    (s.slotBusy s.cur slot = true → exec (.tfree a p) s = .next (s.modMe fun k => { k with stall := true })) ∧
    (s.slotBusy s.cur slot = false →
      (e.state = .free → exec (.tfree a p) s = .next (s.trap .loftFault (faultVal 0x06 n))) ∧
      (e.state = .blackhole → exec (.tfree a p) s = .next (s.trap .loftFault (faultVal 0x07 n))) ∧
      (e.state = .value → ∃ t, frees t ∧ t.launches = s.launches) ∧
      (∀ l, e.state = .suspended → HeldBy s s.cur l → ∃ t, frees t ∧ t.launch? l.key = some { l with pool := l.pool - 1 }))

/-- R144, R131, R295, R299, R302: TSTAT empties g[d] and asks the loft that owns the name for its status word, whatever the
generation. It is a read: an acquire or a FENCE holds it. That the core's own loft answers at issue, once no earlier read of the core
that crosses fronds is outstanding, and every counted packet of it has its notice (R288), is the model's choice (log entry 60); another loft answers at LOFT_REQUEST. Nothing of any loft
changes. -/
def Sys2Proof.Claims.TstatReadsAState : Prop :=
  (∀ (s : State) (r : R2), fullAt s.me [.g r.a, .g r.d] →
    let n := s.me.gr r.a
    let near := ∀ q ∈ s.net, q.src = s.cur → q.cross = true → q.rd = false ∧ q.stamp ≠ none
    let far := ∃ q ∈ s.net, q.src = s.cur ∧ q.id < s.nextId ∧ q.rd = true ∧ q.cross = true
    let waits := exec (.tstat r) s = .next (s.modMe fun k => { k with stall := true })
    (¬ unheld s → waits) ∧
    (unheld s →
      (goodName n → s.reaches s.cur (ownerOf s.cur n) = true → ownerOf s.cur n ≠ s.cur ∨ near → ∃ t p, exec (.tstat r) s = .next t ∧
        t.net = s.net ++ [p] ∧ p.src = s.cur ∧ p.op = .tstat r.d n ∧ p.rd = true ∧ p.dest = ownerOf s.cur n / 144 ∧
        t.me = armedAt r.d s.me ∧ t.mem = s.mem ∧ t.loft = s.loft ∧
        if ownerOf s.cur n = s.cur then p.stage = .reply ∧ p.got = [(0, statusOf (ownEntry s n) n)]
        else p.stage = .ni ∨ p.stage = .torus) ∧
      (goodName n → s.reaches s.cur (ownerOf s.cur n) = true → ownerOf s.cur n = s.cur → far → waits) ∧
      (goodName n → s.reaches s.cur (ownerOf s.cur n) = false → exec (.tstat r) s = .next (s.trap .accessViolation n)) ∧
      (¬ goodName n → exec (.tstat r) s = .next (s.trap .loftFault (faultVal 0x08 n))))) ∧
  ∀ (s : State) (i : Nat) (p : Packet) (r : Reg) (n : Word), s.packet? i = some p → p.stage = .torus → p.cross = false →
    p.op = .tstat r n → exec (.loftRequest (.packet i)) s =
      .next { s with net := withPacket s { p with stage := .reply, got := [(0, statusOf (entryOf s p.src n) n)] } }

/-- TALLOC, TFREE and TSTAT. -/
def Obligations.TilesComeAndGo : Prop := TallocMakesATile ∧ TfreeReleasesATile ∧ TstatReadsAState

namespace Sys2Proof.Claims
open Sys2Proof.Machine

/-- The operand names of a stook: from g[b], or from g[b+1] behind a CALL's entry address (R258). -/
def operandNames (s : State) (r : R3) : List Word :=
  let w := s.me.gr (regUp r.a 3)
  (List.range (bits w 48 46)).map fun i => s.me.gr (regUp r.b (i + if bits w 45 42 = 6 then 1 else 0))

/-- The stook that a TSUSP makes (R255, R260); which index of the pool of launch `l` it gets is open. -/
def newStook (s : State) (l : Launch) (r : R3) (m : RoundMode) : Stook :=
  let w := s.me.gr (regUp r.a 3)
  { op := w, mode := m, srkey := s.me.srkey, names := operandNames s r, entry := if bits w 45 42 = 6 then s.me.gr r.b else 0,
    index := Config.poolIndex (s.poolUsed l),
    depth := ((operandNames s r).map fun n => (entryOf s s.cur n).stook.elim 0 (·.depth)).foldl max 0 + 1 }

/-- R258, R260: everything that a TSUSP checks before the pool. -/
structure SuspOk (s : State) (r : R3) (f : Fmt) (lv : Level) (m : RoundMode) : Prop where
  full : fullAt s.me [.g r.a, .g (regUp r.a 1), .g (regUp r.a 2), .g (regUp r.a 3), .g r.d] ∧
    ∀ i < bits (s.me.gr (regUp r.a 3)) 48 46 + (if bits (s.me.gr (regUp r.a 3)) 45 42 = 6 then 1 else 0), s.me.gIsFull (regUp r.b i) = true
  range : r.b.val + bits (s.me.gr (regUp r.a 3)) 48 46 + (if bits (s.me.gr (regUp r.a 3)) 45 42 = 6 then 1 else 0) ≤ 64
  new : NewOk s (s.me.gr r.a) (s.me.gr (regUp r.a 2)) f lv
  word : opFieldsOk (s.me.gr (regUp r.a 3)) = true ∧ codeResolves s.me (bits (s.me.gr (regUp r.a 3)) 41 39) m
  entry : bits (s.me.gr (regUp r.a 3)) 45 42 = 6 → (s.me.gr r.b).toNat % 4 = 0
  operands : ∀ n ∈ operandNames s r, current s s.cur n ∧ (entryOf s s.cur n).state ≠ .free
  shapes : opShapesOk (s.me.gr (regUp r.a 3))
    ((newEntry s (s.me.gr r.a) (s.me.gr (regUp r.a 1)) (s.me.gr (regUp r.a 2)) f lv).tile s.cur)
    ((operandNames s r).map fun n => (entryOf s s.cur n).tile (ownerOf s.cur n)) = true

end Sys2Proof.Claims

/-- R258, R259, R260, R255: TSUSP whose checks pass takes one stook of its launch's pool and makes the tile: SUSPENDED below the
high-water count and within the depth limit, with the name on its way to g[d]; else BLACKHOLE, owned by this context, as the root of
a chain whose first operand is asked for, g[d] empty until the chain's end; an eager one waits while an earlier write of the core has
not been performed (log entry 45). With the pool full it raises STOOK_POOL_EXHAUSTED. Stated outside a choice and outside a CALL frame, with the force unit idle. -/
def Obligations.TsuspMakesAStook : Prop :=
  ∀ (s : State) (r : R3) (f : Fmt) (lv : Level) (m : RoundMode) (l : Launch), SuspOk s r f lv m → s.me.holdFence = [] →
    s.me.ctop = 0 → s.me.midway = none → s.me.inFrame = false → s.me.force.root = none → s.me.force.stack = [] → s.me.launch = some l.key →
    s.launch? l.key = some l →
    let dsc := s.me.gr r.a
    let new := newEntry s dsc (s.me.gr (regUp r.a 1)) (s.me.gr (regUp r.a 2)) f lv
    let st := newStook s l r m
    let name := newName s dsc
    let eager := (l.poolN * l.hwPct + 99) / 100 ≤ l.pool ∨ l.dlim < st.depth
    (l.poolN ≤ l.pool → exec (.tsusp r) s = .next (s.trap .stookPoolExhausted (faultVal 0x01 name))) ∧
    (l.pool < l.poolN → ¬ eager → ∃ t, exec (.tsusp r) s = .next t ∧ Owed s t r.d 4 name ∧
      oneEntry s t s.cur (bits dsc 11 0) { new with state := .suspended, stook := some st } ∧
      t.launch? l.key = some { l with pool := l.pool + 1 } ∧ t.me = armedAt r.d s.me ∧ t.mem = s.mem) ∧
    (l.pool < l.poolN → eager → ¬ landed s → exec (.tsusp r) s = .next (s.modMe fun k => { k with stall := true })) ∧
    (l.pool < l.poolN → eager → landed s → ∃ t, exec (.tsusp r) s = .next t ∧ t.net = s.net ∧
      oneEntry s t s.cur (bits dsc 11 0) { new with state := .blackhole, stook := some st, owner := s.me.ctx } ∧
      t.launch? l.key = some { l with pool := l.pool + 1 } ∧ t.mem = s.mem ∧
      t.me = { armedAt r.d s.me with force := t.me.force } ∧
      t.me.force.root = some (.eager r.d name s.me.pc) ∧ t.me.force.since = s.nextId ∧
      t.me.force.stack = [{ core := s.cur, slot := bits dsc 11 0, name := absolute s.cur (bits dsc 11 0) (ownEntry s dsc).gen,
                            phase := if st.names = [] then .evaluate else .operand 0,
                            why := some (.eager r.d name s.me.pc), save := none }] ∧
      t.me.force.goal = match st.names with
        | [] => .none
        | n :: _ => .ask (ownerOf s.cur n) (bits n 11 0) n none)

/-! ## Forcing -/

namespace Sys2Proof.Claims
open Sys2Proof.Machine

/-- R363: what published work does to the cores of a launch: a GLEAN that found nothing has news. -/
def told (l : Option Launch) (c : Nat) (k : Core) : Core :=
  match l with
  | none => k
  | some l => if c ∈ l.cores then { k with glean := k.glean.map fun w => if w.idle then { w with news := true } else w } else k

end Sys2Proof.Claims

/-- R262, R131, R134: FORCE of a current name starts a chain that asks the loft that owns the tile, and holds the core; FORCE.nb
empties g[d] and issues on. Inside a CALL frame either pushes onto the frame's chain and holds the frame (log entry 48). A request to
the core's own loft reaches it at once, in program order. Both wait while the unit holds another chain, or while an earlier write of
the core has not been performed (log entry 45). -/
def Sys2Proof.Claims.ForceAsksForATile : Prop :=
  ∀ (s : State) (c : CoreNo) (a d : Reg) (p : Bool), c.val = s.cur → fullAt s.me [.g a, .g d] → s.me.holdFence = [] →
    let n := s.me.gr a
    let ask := fun r : Root => Goal.ask (ownerOf s.cur n) (bits n 11 0) n (some r)
    let unit := fun r : Root => ForceUnit.mk (some r) (ask r) [] 0 false [] [] s.nextId none
    let waits := fun i : Instr => exec i s = .next (s.modMe fun k => { k with stall := true })
    let asks := fun (i : Instr) (f : Core → Core) =>
      exec i s = if ownerOf s.cur n = s.cur then exec (.loftRequest (.forceUnit c)) (s.modMe f) else .next (s.modMe f)
    (s.me.blocked = true ∨ ¬ landed s → waits (.force a p) ∧ waits (.forceNb ⟨d, a, p⟩)) ∧
    (s.me.blocked = false → landed s →
      (current s s.cur n → s.me.inFrame = false → s.me.force.root = none →
        asks (.force a p) (fun k => { k with force := unit (.force k.pc), stall := false }) ∧
        asks (.forceNb ⟨d, a, p⟩) (fun k => { armedAt d k with force := unit (.forceNb d k.pc) })) ∧
      (current s s.cur n → s.me.inFrame = true →
        asks (.force a p) (fun k => { k with force := { k.force with goal := ask (.inner k.pc), how := 0, since := s.nextId }, stall := false }) ∧
        asks (.forceNb ⟨d, a, p⟩) (fun k =>
          { k with gfull := (armedAt d k).gfull, force := { k.force with goal := ask (.innerNb d k.pc), how := 0, since := s.nextId }, stall := false })) ∧
      (s.me.inFrame = false → s.me.force.root ≠ none → waits (.force a p) ∧ waits (.forceNb ⟨d, a, p⟩)) ∧
      (s.me.force.root = none → s.me.inFrame = false → goodName n → s.reaches s.cur (ownerOf s.cur n) = true →
        (entryOf s s.cur n).gen.toNat ≠ bits n 31 24 →
        exec (.force a p) s = .next (s.trap .loftFault (faultVal 0x05 n)) ∧
        exec (.forceNb ⟨d, a, p⟩) s = .next (s.trap .loftFault (faultVal 0x05 n))))

/-- R269, R131, R363: SPARK of a SUSPENDED tile whose operation is pure puts its name, in absolute form, into the core's spark queue
of 64 and wakes the waiting GLEANs of its launch; of any other tile that is not FREE, or with the queue full, it does nothing; of a FREE
slot it raises LOFT_FAULT. -/
def Sys2Proof.Claims.SparkOffersATile : Prop :=
  ∀ (s : State) (a : Reg) (p : Bool), s.me.gIsFull a = true → s.me.holdFence = [] →
    let n := s.me.gr a
    let e := entryOf s s.cur n
    let offers := e.state = .suspended ∧ (∃ st, e.stook = some st ∧ st.op.getLsbD 49 = true) ∧ s.me.sparks.length < 64
    current s s.cur n →
    (e.state = .free → exec (.spark a p) s = .next (s.trap .loftFault (faultVal 0x06 n))) ∧
    (e.state ≠ .free → ¬ offers → exec (.spark a p) s = .next (s.modMe fun k => k.advance 4)) ∧
    (offers → ∃ t, exec (.spark a p) s = .next t ∧ t.mem = s.mem ∧ t.loft = s.loft ∧ t.launches = s.launches ∧ t.net = s.net ∧
      ∀ c, t.core c = told (s.launchOf s.cur) c (if c = s.cur then
        { s.me with sparks := s.me.sparks ++ [absolute (ownerOf s.cur n) (bits n 11 0) e.gen], pc := s.me.pc + 4, stall := false }
        else s.core c))

/-- FORCE, FORCE.NB and SPARK. -/
def Obligations.DemandsAreMade : Prop := ForceAsksForATile ∧ SparkOffersATile

namespace Sys2Proof.Claims
open Sys2Proof.Machine

/-- A core whose chain goes on: it runs, and no fault of its chain waits for the boundary (R272, R392). -/
abbrev goesOn (k : Core) : Prop := k.run = .running ∧ k.pending = [] ∧ k.force.absorbing = false ∧ k.force.root ≠ none

/-- A core whose force unit may make a step: nothing that it has sent is on its way. -/
abbrev steps (k : Core) : Prop := goesOn k ∧ k.force.flying = []

/-- Nothing of an evaluation is under way in the unit (R263, R264). -/
structure Resting (k : Core) : Prop where
  unit : k.force.got = [] ∧ k.force.failed = none
  queue : ∀ n, MatItem.matmul n ∉ k.mqueue
  head : ∀ e ∈ k.force.stack.head?, e.phase ≠ .queued ∧ e.phase ≠ .writing ∧ ∀ ops, e.phase ≠ .reading ops

/-- A core whose unit has a cause pending for the next boundary (R271), made while numbers from `born` on are fresh. -/
def faulted (born : Nat) (k : Core) (cause : Cause) (code : Nat) (tv : Word) (pc : Option Word) : Core :=
  { k with pending := k.pending ++ [⟨cause.rank, code, tv, pc, born⟩] }

/-- A loft that the unit's step reaches at once: its core's own, or one of the frond, the core's counted packets having their
notices (R288). -/
abbrev near (s : State) (c t : Nat) : Prop :=
  t = c ∨ t / 144 = c / 144 ∧ ∀ q ∈ s.net, q.src = c → q.counted = true → q.stamp ≠ none ∨ q.unperformed = false

/-- The context that owns a tile waits for no other tile, so that the walk of R265 ends at once. -/
def walkEnds (s : State) (l : Launch) (owner : Nat) : Prop :=
  (s.core (l.coreOf owner)).run = .running → ∀ t n name w, (s.core (l.coreOf owner)).force.goal ≠ .asleep t n name w

end Sys2Proof.Claims

/-- R263, R265, R266, R271: the step of Force at the loft that owns a tile, for a chain that a blocking FORCE roots: a stale name,
a FREE slot and a tile that this context owns, or that waits for it, make the fault pending, its tval the name as the stook or the
register kept it (log entry 46, the model's choice); a SUSPENDED tile becomes BLACKHOLE, owned by this context, and is pushed; a VALUE
tile ends the forcing; a tile that another context owns gains a waiter. A loft on another frond is asked by a counted packet of the
Rhizome, which makes the step there when it is applied (R283, R288); one on the frond waits for the notices of the core's counted
packets. -/
def Sys2Proof.Claims.ForceStepActsAtTheLoft : Prop :=
  ∀ (s : State) (c : CoreNo) (t slot : Nat) (n pc : Word) (why : Option Root) (l : Launch),
    goesOn (s.core c.val) → (s.core c.val).force.root = some (.force pc) → (s.core c.val).force.goal = .ask t slot n why →
    s.launchOf c.val = some l → Resting (s.core c.val) →
    let k := s.core c.val
    let e := s.entry t slot
    let makes := fun u : State => exec (.loftRequest (.forceUnit c)) s = .next u
    let blackholes := fun u : State => u.mem = s.mem ∧ ∃ x, (u.core c.val).force.stack = x :: k.force.stack ∧ x.core = t ∧
      x.slot = slot ∧ x.name = absolute t slot e.gen ∧ x.why = why ∧ x.save = none
    let owned := { e with state := .blackhole, owner := k.ctx, ownerDepth := k.force.stack.length }
    let fault := fun (x : Cause) (code : Nat) (tv : Word) => makes (s.modCore c.val fun k => faulted s.nextId k x code tv (some pc))
    let quiet := k.force.flying = []
    (quiet → t / 144 ≠ c.val / 144 → ∃ u p, makes u ∧ u.net = s.net ++ [p] ∧ p.op = .loft ∧ p.src = c.val ∧ p.dest = t / 144 ∧
      p.cross = true ∧ p.va = n ∧ p.since = k.force.since ∧ p.stamp = none ∧ u.mem = s.mem ∧ u.loft = s.loft ∧
      u.core c.val = { k with force := { k.force with flying := [p.id] } }) ∧
    (∀ q ∈ s.net, quiet → t ≠ c.val → t / 144 = c.val / 144 → q.src = c.val → q.counted = true → q.stamp = none → q.unperformed = true →
      makes s) ∧
    (¬ quiet → makes s) ∧
    (quiet → near s c.val t →
      (e.gen.toNat ≠ bits n 31 24 → fault .loftFault 0x05 (faultVal 0x05 n)) ∧
      (e.gen.toNat = bits n 31 24 →
        (e.state = .free → fault .loftFault 0x05 (faultVal 0x06 n)) ∧
        (e.state = .blackhole → e.owner = k.ctx → fault .selfDependence 0x06 (faultVal 0 n)) ∧
        (∀ u m y w, e.state = .blackhole → e.owner ≠ k.ctx → (s.core (l.coreOf e.owner)).run = .running →
          (s.core (l.coreOf e.owner)).force.goal = .asleep u m y w → (s.entry u m).state = .blackhole → (s.entry u m).owner = k.ctx →
          fault .selfDependence 0x06 (faultVal 1 n)) ∧
        (e.state = .blackhole → e.owner ≠ k.ctx → walkEnds s l e.owner → ∃ u, makes u ∧
          oneEntry s u t slot { e with waiters := e.waiters ++ [k.ctx] } ∧
          u.core c.val = { k with force := { k.force with goal := .asleep t slot n why, how := 2 } } ∧ u.mem = s.mem) ∧
        (e.state = .suspended → k.force.stack.length < 288 → ∃ u, makes u ∧ oneEntry s u t slot owned ∧ blackholes u) ∧
        (e.state = .suspended → 288 ≤ k.force.stack.length → fault .stookPoolExhausted 0x07 (faultVal 0x02 n)) ∧
        (e.state = .value → ∀ r, why = some (.force r) →
          makes (s.modCore c.val fun k => { k with force := ForceUnit.idle, pc := k.pc + 4, stall := false })))) ∧
    ∀ (i : Nat) (p : Packet) (x : Stamp), s.packet? i = some p → p.op = .loft → p.src = c.val → p.stamp = some x →
      s.mayApply p x = true → e.gen.toNat = bits n 31 24 →
      (e.state = .suspended → k.force.stack.length < 288 → ∃ u q, exec (.rhizomeApply i) s = .next u ∧ oneEntry s u t slot owned ∧
        blackholes u ∧ u.packet? i = some q ∧ q.stage = .reply) ∧
      (e.state = .value → ∃ u q, exec (.rhizomeApply i) s = .next u ∧ u.loft = s.loft ∧ u.mem = s.mem ∧
        u.core c.val = { k with force := { k.force with goal := .woken t slot n why true } } ∧ u.packet? i = some q ∧ q.stage = .reply)

namespace Sys2Proof.Claims
open Sys2Proof.Machine

/-- The innermost tile of a chain, in a phase, with its stook. -/
structure Innermost (s : State) (c : Nat) (x : ForceEntry) (rest : List ForceEntry) (p : Phase) (st : Stook) : Prop where
  may : goesOn (s.core c)
  top : (s.core c).force.stack = x :: rest
  phase : x.phase = p
  stook : (s.entry x.core x.slot).stook = some st

/-- The operands of a stook under current names (R263): scratchpad tiles of any format. -/
structure OperandsOk (s : State) (c : Nat) (x : ForceEntry) (st : Stook) (tiles : List Tile) : Prop where
  all : tiles.length = st.names.length
  each : ∀ (i : Nat) (n : Word) (a : Tile), st.names[i]? = some n → tiles[i]? = some a → goodName n ∧ s.reaches c (ownerOf x.core n) = true ∧
    (s.entry (ownerOf x.core n) (bits n 11 0)).gen.toNat = bits n 31 24 ∧
    a = (s.entry (ownerOf x.core n) (bits n 11 0)).tile (ownerOf x.core n) ∧ a.level = .S ∧ 0 < a.rows ∧ 0 < a.cols ∧
    a.base.toNat % 8 = 0 ∧ a.base.toNat + storageBytes a.rows a.cols a.fmt ≤ 2 ^ 19 ∧ (a.fmt.isBlock = true → a.cols % 32 = 0)

/-- A byte of operand `i`, and element (r, c) of one, whose words have arrived; an `fp32` operand's element as its bits. -/
def arrivedByte (got : SMap Word) (i b : Nat) : Byte := (mapGet 0 got (2 ^ 32 * i + b / 8)).extractLsb' (8 * (b % 8)) 8
def arrivedElem (got : SMap Word) (i : Nat) (t : Tile) (r c : Nat) : FVal :=
  (decodeElem t.fmt t.cols (arrivedByte got i) r c).toF
def arrivedBits (got : SMap Word) (i : Nat) (t : Tile) (r c : Nat) : Word32 :=
  (mapGet 0 got (2 ^ 32 * i + (r * t.cols + c) / 2)).extractLsb' (32 * ((r * t.cols + c) % 2)) 32

/-- The lane rule of the instruction that an EW word names (R190, R191), at order 0. -/
def laneRule (maj sub : Nat) (m : RoundMode) (n : Nat) (x : Nat → Word32) : Word32 :=
  if maj < 2 then ((jetForms none ⟨0, 0, 0, false, false⟩)[12 * maj + sub]?).elim 0 fun e => (e.2.2.2 m n x).1
  else if sub = 11 then BitVec.ofInt 32 (max (-(2 ^ 31)) (min (2 ^ 31 - 1) ((x 0).toInt + (x 1).toInt)))
  else (intTable[sub]?).elim 0 fun e => e.2 (x 0) (x 1)

/-- REDUCE's combine (R195, R256). -/
def combineOf (sub : Nat) (m : RoundMode) (n : Nat) (a b : Word32) : Word32 × BitVec 5 :=
  if sub = 0 then fadd32 m n a b else if sub = 1 then fminmax32 true a b else if sub = 2 then fminmax32 false a b
  else (BitVec.ofNat 32 (a.toNat + b.toNat), 0)

/-- R257: the code that an evaluation gives element (i, j) of its tile `t`, of a float format. The operands are `fp32` tiles, but a
MATMUL's, whose result is `fp32`: its exact sums are those of R232 from a bank at +0. -/
def elementCode (st : Stook) (got : SMap Word) (ops : List Tile) (t : Tile) (i j v : Nat) : Prop :=
  let n := srDraw st.mode st.srkey (t.row0 + i) (t.col0 + j) t.stream
  let elem := fun k r c => (ops[k]?).elim 0 fun a => arrivedBits got k a r c
  let code := fun y : Word32 => (laneCode t.fmt st.mode n y).1
  let kind := bits st.op 45 42
  (kind = 0 → v = code (laneRule (bits st.op 38 37) (bits st.op 36 32) st.mode n fun k => elem k i j)) ∧
  (kind = 1 → v = code (elem 0 i j)) ∧
  (kind = 2 → v = code (fmul32 st.mode n (elem 0 i j) (BitVec.ofNat 32 (bits st.op 31 0))).1) ∧
  (kind = 3 → ∀ l, (ops[0]?).elim 0 (·.cols) ≤ 2 ^ l →
    v = code (((treeOver (fun c => decide (c < (ops[0]?).elim 0 (·.cols))) (elem 0 i) l 0).fold
      fun _ => combineOf (bits st.op 36 32) st.mode n).1.getD 0)) ∧
  (kind = 4 → ∀ a b, ops = [a, b] → ∀ low : Int,
    let terms := (List.range a.cols).map fun k => termOf (arrivedElem got 0 a i k) (arrivedElem got 1 b k j)
    (∀ t ∈ finiteTerms terms, low ≤ t.2.2) →
    let w := ((List.range ((a.cols + 31) / 32)).map fun b => (terms.drop (32 * b)).take 32).foldl (addBlock a.fmt.isInt low) 0
    v = if (fmtWide.decode w.toNat).isNaN then 0x7FC00000 else (fmtFP32.encode st.mode n (fmtWide.decode w.toNat)).1) ∧
  (kind = 5 → v = code (elem 0 j i))

/-- A tile that an evaluation's result goes to, and operands, for which `elementCode` says what it holds. -/
structure ResultOk (st : Stook) (ops : List Tile) (t : Tile) : Prop where
  word : opFieldsOk st.op = true ∧ bits st.op 45 42 ≠ 6 ∧ ops.length = bits st.op 48 46
  tile : t.level = .S ∧ 0 < t.rows ∧ 0 < t.cols ∧ t.base.toNat % 8 = 0 ∧ t.base.toNat + storageBytes t.rows t.cols t.fmt ≤ 2 ^ 19
  fmt : t.fmt.float.isSome = true ∧ t.fmt.isBlock = false ∧ (bits st.op 45 42 = 4 → t.fmt = .fp32)
  plain : bits st.op 45 42 ≠ 4 → ∀ a ∈ ops, WholeTile a
  shapes : opShapesOk st.op t ops = true

/-- The innermost tile goes on to a phase; its unit sent the packets `ps` and waits for them. -/
def phased (x : ForceEntry) (rest : List ForceEntry) (p : Phase) (ps : List Packet) (k : Core) : Core :=
  { k with force := { k.force with stack := { x with phase := p } :: rest, flying := k.force.flying ++ ps.map (·.id) } }

/-- The step of STOOK_EVALUATE sends packets and moves the innermost tile to a phase; nothing else changes. -/
structure Goes (s t : State) (c : Nat) (x : ForceEntry) (rest : List ForceEntry) (p : Phase) (ps : List Packet) : Prop where
  core : t.core c = phased x rest p ps (s.core c)
  net : t.net = s.net ++ ps ∧ ∀ q ∈ ps, q.src = c
  same : t.mem = s.mem ∧ t.loft = s.loft ∧ ∀ d, d ≠ c → t.core d = s.core d

end Sys2Proof.Claims

/-- R263, R264, R257, R188, R121, R232, R271: STOOK_EVALUATE of a CALL goes on to its frame; a MATMUL takes a place in the matrix
queue, or waits for one; any other operation, and a MATMUL at the head of that queue, asks for every word of its operands, then sends to
the homes of its tile the code of every element, that of its kind in the stook's mode with the element's draw, and no other bit, and is
complete once its packets have been answered. An operand freed since raises LOFT_FAULT 0x05, its tval the name as the stook keeps it (log entry
46, the model's choice), and an access that met an error response ACCESS_VIOLATION. -/
def Obligations.StooksAreEvaluated : Prop :=
  ∀ (s : State) (c : CoreNo) (x : ForceEntry) (rest : List ForceEntry) (st : Stook) (p : Phase), Innermost s c.val x rest p st →
    (s.core c.val).force.goal = .none →
    let k := s.core c.val
    let r := (s.entry x.core x.slot).tile x.core
    let makes := fun u : State => exec (.stookEvaluate c) s = .next u
    let quiet := k.force.flying = []
    (p = .evaluate → quiet → bits st.op 45 42 = 6 → makes (s.modCore c.val (phased x rest .callWait []))) ∧
    (p = .evaluate → quiet → bits st.op 45 42 = 4 → 16 ≤ k.mqueue.length → makes s) ∧
    (p = .evaluate → quiet → bits st.op 45 42 = 4 → k.mqueue.length < 16 → ∃ t, makes t ∧ t.net = s.net ∧ t.mem = s.mem ∧ t.loft = s.loft ∧
      t.core c.val = { phased x rest .queued [] k with mqueue := k.mqueue ++ [.matmul s.nextId] }) ∧
    (∀ tiles, (p = .evaluate ∧ bits st.op 45 42 ≠ 4 ∧ bits st.op 45 42 ≠ 6 ∨ p = .queued ∧ ∃ n rest, k.mqueue = .matmul n :: rest) → quiet →
      OperandsOk s c.val x st tiles → ∃ t ps, makes t ∧ Goes s t c.val x rest (.reading tiles) ps ∧
      (∀ q ∈ ps, ∃ (i : Nat) (a : Tile) (ws : List Nat), tiles[i]? = some a ∧ q.op = .engRead .force i a ws ∧ q.parts = ws.map fun w => ⟨wordPlace a w, 0, 0⟩) ∧
      ∀ (i : Nat) (a : Tile) (w : Nat), tiles[i]? = some a → ((∃ q ∈ ps, ∃ ws, q.op = .engRead .force i a ws ∧ w ∈ ws) ↔
        ∃ y < a.rows, ∃ z < a.cols, ∃ b, bitOf a (y, z) b ∧ w = b / 64)) ∧
    (∀ ops, p = .reading ops → ResultOk st ops r → quiet → k.force.failed = none → ∃ t ps, makes t ∧ Goes s t c.val x rest .writing ps ∧
      (∀ i < r.rows, ∀ j < r.cols, ∃ q ∈ ps, ∃ w ∈ q.parts, w.addr = tileWord x.core r (r.fmt.elemBit r.cols i j)) ∧
      ∀ q ∈ ps, (∃ ws, q.op = .engWrite .force 0 x.name r ws) ∧ ∀ w ∈ q.parts,
        (∀ b < 64, w.mask.getLsbD b = true → ∃ i < r.rows, ∃ j < r.cols, ∃ n < r.fmt.width,
          w.addr = tileWord x.core r (r.fmt.elemBit r.cols i j + n) ∧ b = (r.fmt.elemBit r.cols i j + n) % 64) ∧
        ∀ i < r.rows, ∀ j < r.cols, ∀ v, elementCode st k.force.got ops r i j v → ∀ n < r.fmt.width,
          w.addr = tileWord x.core r (r.fmt.elemBit r.cols i j + n) →
          w.mask.getLsbD ((r.fmt.elemBit r.cols i j + n) % 64) = true ∧
          w.data.getLsbD ((r.fmt.elemBit r.cols i j + n) % 64) = v.testBit n) ∧
    (p = .writing → quiet → k.force.failed = none → (∀ n, MatItem.matmul n ∉ k.mqueue) → ∃ t, makes t ∧
      t.core c.val = { phased x rest .complete [] k with force := { (phased x rest .complete [] k).force with got := [] } } ∧
      t.mem = s.mem ∧ t.loft = s.loft ∧ t.net = s.net) ∧
    (p = .writing → ¬ quiet → makes s) ∧
    (∀ va pc, p = .writing → quiet → k.force.failed = some va → (∀ n, MatItem.matmul n ∉ k.mqueue) →
      k.force.root = some (.force pc) → ∃ t, makes t ∧ t.mem = s.mem ∧ t.loft = s.loft ∧ t.core c.val =
        { faulted s.nextId k .accessViolation 0x09 va (some pc) with force := { k.force with
            got := [], failed := none, stack := { x with phase := .evaluate } :: rest } }) ∧
    (∀ n pc, p = .evaluate → quiet → Resting k → st.names = [n] → bits st.op 45 42 ≠ 4 → bits st.op 45 42 ≠ 6 → k.force.root = some (.force pc) →
      goodName n → s.reaches c.val (ownerOf x.core n) = true → (s.entry (ownerOf x.core n) (bits n 11 0)).gen.toNat ≠ bits n 31 24 →
      makes (s.modCore c.val fun k => faulted s.nextId k .loftFault 0x05 (faultVal 0x05 n) (some pc)))

namespace Sys2Proof.Claims
open Sys2Proof.Machine

/-- R263, R265: the VALUE step's effect on the lofts, the pool and the waiters of a tile. -/
structure BecameValue (s t : State) (x : ForceEntry) (l : Launch) : Prop where
  entry : oneEntry s t x.core x.slot
    { s.entry x.core x.slot with state := .value, stook := none, owner := 0, ownerDepth := 0, waiters := [] }
  pool : t.launch? l.key = some { l with pool := l.pool - 1 }
  mem : t.mem = s.mem
  woken : ∀ ctx ∈ (s.entry x.core x.slot).waiters, ∀ n why, (s.core (l.coreOf ctx)).force.goal = .asleep x.core x.slot n why →
    (t.core (l.coreOf ctx)).force.goal = .woken x.core x.slot n why true

/-- The chain of a core ends at this step with its root: what the core holds afterwards (R262, R260). -/
def endsRoot (k : Core) (r : Root) (how : Nat) (t : Core) : Prop :=
  match r with
  | .force _ => t = { k with force := ForceUnit.idle, pc := k.pc + 4, stall := false }
  | .forceNb d _ => k.gIsFull d = false → t = { k.setG d (BitVec.ofNat 64 (2 * how + 1)) with
      force := ForceUnit.idle, gfull := k.gfull ||| 1#64 <<< d.val }
  | .eager d name _ => k.gIsFull d = false → t = { k.setG d name with force := ForceUnit.idle, gfull := k.gfull ||| 1#64 <<< d.val }
  | _ => True

end Sys2Proof.Claims

/-- R263, R262, R265: EVALUATION_COMPLETE makes the tile VALUE, gives its stook back to the pool and wakes every waiter; the end of
a chain's root frees the force unit: a FORCE goes on, FORCE.nb fills g[d] with HOW = 1, an eager TSUSP with the name. Where the tile's
loft is on another frond a counted packet makes the VALUE step there (R283), and the unit goes on once that has been answered. WAITER_WAKE ends
the forcing with HOW = 2 where the tile is VALUE, and asks again where a spark's fault left it SUSPENDED. -/
def Sys2Proof.Claims.ForcedTilesBecomeValue : Prop :=
  (∀ (s : State) (c : CoreNo) (x : ForceEntry) (r : Root) (st : Stook) (l : Launch), Innermost s c.val x [] .complete st →
    x.why = some r → HeldBy s c.val l → s.launchOf c.val = some l → (s.core c.val).force.flying = [] →
    (∀ ctx ∈ (s.entry x.core x.slot).waiters, l.coreOf ctx ≠ c.val) →
    (near s c.val x.core →
      ∃ t, exec (.evaluationComplete c) s = .next t ∧ BecameValue s t x l ∧ endsRoot (s.core c.val) r 1 (t.core c.val)) ∧
    (x.core / 144 ≠ c.val / 144 → ∃ t p, exec (.evaluationComplete c) s = .next t ∧ t.net = s.net ++ [p] ∧ p.op = .loft ∧
      p.src = c.val ∧ p.dest = x.core / 144 ∧ p.cross = true ∧ p.stamp = none ∧ t.mem = s.mem ∧ t.loft = s.loft ∧
      t.core c.val = { s.core c.val with force := { (s.core c.val).force with flying := [p.id] } })) ∧
  (∀ (s : State) (c : CoreNo) (x : ForceEntry) (rest : List ForceEntry) (st : Stook) (l : Launch) (i : Nat) (p : Packet) (m : Stamp),
    Innermost s c.val x rest .complete st → (s.core c.val).force.goal = .none → HeldBy s c.val l → s.launchOf c.val = some l →
    (∀ ctx ∈ (s.entry x.core x.slot).waiters, l.coreOf ctx ≠ c.val) → s.packet? i = some p → p.op = .loft → p.src = c.val →
    p.stamp = some m → s.mayApply p m = true →
    ∃ t, exec (.rhizomeApply i) s = .next t ∧ BecameValue s t x l ∧ t.core c.val = phased x rest .told [] (s.core c.val)) ∧
  (∀ (s : State) (c : CoreNo) (x : ForceEntry) (r : Root), goesOn (s.core c.val) → (s.core c.val).force.flying = [] →
    (s.core c.val).force.stack = [x] → x.phase = .told → x.why = some r →
    ∃ t, exec (.evaluationComplete c) s = .next t ∧ t.loft = s.loft ∧ t.mem = s.mem ∧ endsRoot (s.core c.val) r 1 (t.core c.val)) ∧
  (∀ (s : State) (c : CoreNo) (t slot : Nat) (n : Word) (r : Root), steps (s.core c.val) →
    (s.core c.val).force.goal = .woken t slot n (some r) true → (s.core c.val).force.how = 2 →
    ∃ u, exec (.waiterWake c) s = .next u ∧ u.loft = s.loft ∧ u.mem = s.mem ∧ endsRoot (s.core c.val) r 2 (u.core c.val)) ∧
  ∀ (s : State) (c : CoreNo) (t slot : Nat) (n : Word) (why : Option Root), steps (s.core c.val) →
    (s.core c.val).force.goal = .woken t slot n why false →
    exec (.waiterWake c) s = .next (s.modCore c.val fun k => { k with force := { k.force with goal := .ask t slot n why } })

/-- The force unit at a loft, the end of an evaluation, and the waking of waiters. -/
def Obligations.ForcedTilesComeToValue : Prop := ForceStepActsAtTheLoft ∧ ForcedTilesBecomeValue

/-- R267, R268: a CALL's frame starts once g1 to g15 are full and the interrupted stream is at a boundary, with no CUT begun: it saves their values, full bits and the address of resumption, and
sets g1 to the tile's name, g2 to g5 to the operand names in absolute form, g6 to PARAM and g7 to g15 to 0, all full, at the entry address.
TDONE, once g1 to g15 are full, the core's queues empty and its writes performed, makes the tile VALUE and restores them (a tile of
another frond's loft is made VALUE by the packet that EVALUATION_COMPLETE sends, R283); outside a frame it raises
LOFT_FAULT. -/
def Obligations.CallFramesRun : Prop :=
  (∀ (s : State) (c : CoreNo) (x : ForceEntry) (rest : List ForceEntry) (st : Stook), Innermost s c.val x rest .callWait st →
    (s.core c.val).force.flying = [] → (s.core c.val).midway = none →
    (s.core c.val).gidx.toNat / 16 = 0 → (s.core c.val).glean = none → (s.core c.val).gangWait = none → (∀ i : Reg, 1 ≤ i.val → i.val ≤ 15 → (s.core c.val).gIsFull i = true) →
    (∀ n ∈ st.names, goodName n ∧ s.reaches c.val (ownerOf x.core n) = true) →
    let ops := st.names.map fun n => absolute (ownerOf x.core n) (bits n 11 0) (BitVec.ofNat 8 (bits n 31 24))
    let value := fun i : Nat => if i = 1 then absolute x.core x.slot (s.entry x.core x.slot).gen else if i < 6 then ops.getD (i - 2) 0
      else if i = 6 then BitVec.ofNat 64 (bits st.op 31 0) else 0
    ∃ t v, exec (.callFrameStart c) s = .next t ∧ t.mem = s.mem ∧ t.loft = s.loft ∧
      (t.core c.val).force = { (s.core c.val).force with stack := { x with phase := .frame, save := some v } :: rest } ∧
      v.pc = (s.core c.val).pc ∧ v.mark = s.nextId ∧ (∀ i : Reg, 1 ≤ i.val → i.val ≤ 15 → v.g.getD (i.val - 1) 0 = (s.core c.val).gr i ∧
        v.full.getLsbD i.val = true ∧ (t.core c.val).g.get i = value i.val ∧ (t.core c.val).gIsFull i = true) ∧
      (∀ i : Reg, i.val = 0 ∨ 15 < i.val → (t.core c.val).g.get i = (s.core c.val).g.get i ∧
        (t.core c.val).gfull.getLsbD i.val = (s.core c.val).gfull.getLsbD i.val) ∧ (t.core c.val).pc = st.entry) ∧
  (∀ (s : State) (x : ForceEntry) (v : FrameSave) (pc : Word) (l : Launch), s.me.force.stack = [x] → x.phase = .frame → x.save = some v →
    x.why = some (.force pc) → HeldBy s s.cur l → s.launchOf s.cur = some l →
    (∀ ctx ∈ (s.entry x.core x.slot).waiters, l.coreOf ctx ≠ s.cur) → (∀ q : Fin 4, s.me.queues.get q = []) → s.me.mqueue = [] →
    s.me.usc = 0 → landed s → (∀ i : Reg, 1 ≤ i.val → i.val ≤ 15 → s.me.gIsFull i = true) →
    let restored := fun t : State => ∀ i : Reg,
      if 1 ≤ i.val ∧ i.val ≤ 15 then t.me.g.get i = v.g.getD (i.val - 1) 0 ∧ t.me.gfull.getLsbD i.val = v.full.getLsbD i.val
      else t.me.g.get i = s.me.g.get i ∧ t.me.gfull.getLsbD i.val = s.me.gfull.getLsbD i.val
    (near s s.cur x.core → ∃ t, exec .tdone s = .next t ∧ BecameValue s t x l ∧ t.me.pc = v.pc + 4 ∧ t.me.force = ForceUnit.idle ∧
      restored t) ∧
    (x.core / 144 ≠ s.cur / 144 → ∃ t, exec .tdone s = .next t ∧ t.loft = s.loft ∧ t.mem = s.mem ∧ t.me.pc = v.pc ∧
      t.me.force.stack = [{ x with phase := .complete }] ∧ restored t)) ∧
  (∀ s : State, s.me.inFrame = true → (∃ q : Fin 4, s.me.queues.get q ≠ []) ∨ s.me.mqueue ≠ [] ∨ s.me.usc ≠ 0 ∨ ¬ landed s ∨
      (∃ i : Reg, 1 ≤ i.val ∧ i.val ≤ 15 ∧ s.me.gIsFull i = false) →
    exec .tdone s = .next (s.modMe fun k => { k with stall := true })) ∧
  ∀ s : State, s.me.inFrame = false → exec .tdone s = .next (s.trap .loftFault (BitVec.ofNat 64 (0x1A * 2 ^ 32)))

/-! ## Groups and gangs -/

namespace Sys2Proof.Claims
open Sys2Proof.Machine

/-- The issuing core is a member of group `g` of its launch `l`: the group as its channels hold it, and the core's own counts and
role. Its mode is known on the core's frond (R331) and admits instructions of mode `mode` (R330). -/
structure InGroup (s : State) (g : GroupNo) (mode : GroupMode) (l : Launch) (x : Group) (m : Member) : Prop where
  launch : s.me.launch = some l.key ∧ s.launch? l.key = some l
  group : mapGet (Group.start []) l.groups g.val = x
  member : (s.me.groups.find? fun e => e.1 = g.val) = some (g.val, m)
  known : (∀ a ∈ x.members, ∀ b ∈ x.members, l.coreOf a / 144 = l.coreOf b / 144) ∨ s.cur / 144 ∈ x.known
  mode : x.mode = .unset ∨ x.mode = mode

/-- The waits of FENCE .rel have ended (R296): every earlier load, atomic and TSTAT has returned, and every write is performed. -/
abbrev settledAll (s : State) : Prop :=
  s.me.usc = 0 ∧ ∀ p ∈ s.net, p.src = s.cur →
    p.op.isLoad = false ∧ p.op.isAtom = false ∧ p.op.isStat = false ∧ (p.wr = true → p.unperformed = false)

/-- The outstanding reads of the issuing core that an acquire holds its later accesses for (R296). -/
def outstanding (s : State) (ids : List Nat) : Prop :=
  ∀ i, i ∈ ids ↔ ∃ p ∈ s.net, p.id = i ∧ p.src = s.cur ∧
    (p.op.isLoad = true ∨ p.op.isStat = true ∨ p.op.isAtom = true ∨ p.op.isTst = true)

/-- The group of a launch replaced, and nothing else of memory, packets and lofts changed. -/
structure GroupNow (s t : State) (l : Launch) (g : GroupNo) (x : Group) : Prop where
  launch : t.launch? l.key = some { l with groups := mapSet l.groups g.val x }
  kept : t.mem = s.mem ∧ t.net = s.net ∧ t.loft = s.loft ∧ t.cur = s.cur
  others : ∀ c, c ≠ s.cur → t.core c = s.core c

/-- A core's own counts for a group replaced. -/
def withMember (g : GroupNo) (m : Member) (k : Core) : Core :=
  { k with groups := k.groups.map fun e => if e.1 = g.val then (e.1, m) else e }

/-- A request at the end of the group's queue. -/
def asks (x : Group) (mode : GroupMode) (ctx : Nat) (op : ChanOp) : Group :=
  { x with mode := mode, queue := x.queue ++ [⟨ctx, op⟩] }

/-- The core has stopped on BARRIER_MISUSE with a reason (R333). -/
def misused (s t : State) (reason : Nat) (g : GroupNo) : Prop :=
  t.me.run = .faulted ∧ t.me.tcause = 0x0E ∧ t.me.tval = BitVec.ofNat 64 (reason * 2 ^ 8 + g.val) ∧
    t.me.tpc = BitVec.ofNat 64 (s.me.pc.toNat % 2 ^ 56)

end Sys2Proof.Claims

/-- R330, R333, R334, R296: BARR counts an arrival and sends it to the group's channel; BWAIT, once the phase of the core's arrival
has completed, counts a wait and holds later accesses as an acquire. That an instruction that still waits has set an unset mode at
issue is the model's choice (log entry 52). Until their waits end nothing but the mode changes. The core's own counts decide the traps
of reasons 0x03 and 0x04; a core outside the group and a group of the other mode give 0x01 and 0x02. -/
def Sys2Proof.Claims.BarriersCountArrivals : Prop :=
  (∀ (s : State) (g : GroupNo) (l : Launch), plain s.me → s.me.launch = some l.key → s.launch? l.key = some l →
    ∀ i ∈ [Instr.barr g, .bwait g, .phsig g, .phwait g, .phreg .both g],
      ((∀ e ∈ s.me.groups, e.1 ≠ g.val) → ∃ t, exec i s = .next t ∧ misused s t 0x01 g) ∧
      ∀ x m, mapGet (Group.start []) l.groups g.val = x → (s.me.groups.find? fun e => e.1 = g.val) = some (g.val, m) →
        s.cur / 144 ∈ x.known → x.mode = (if i = .barr g ∨ i = .bwait g then .phaser else .barrier) →
        ∃ t, exec i s = .next t ∧ misused s t 0x02 g) ∧
  ∀ (s : State) (g : GroupNo) (l : Launch) (x : Group) (m : Member), InGroup s g .barrier l x m → plain s.me →
    (m.a = m.w → settledAll s → ∃ t, exec (.barr g) s = .next t ∧ GroupNow s t l g (asks x .barrier s.me.ctx .arrive) ∧
      t.me = (withMember g { m with a := m.a + 1 } s.me).advance 4) ∧
    (m.a = m.w → ¬ settledAll s → ∃ t, exec (.barr g) s = .next t ∧ GroupNow s t l g { x with mode := .barrier } ∧
      t.me = { s.me with stall := true }) ∧
    (m.a ≠ m.w → ∃ t, exec (.barr g) s = .next t ∧ misused s t 0x04 g) ∧
    (m.a = m.w → ∃ t, exec (.bwait g) s = .next t ∧ misused s t 0x03 g) ∧
    (m.a ≠ m.w → (∀ q ∈ x.queue, q.ctx ≠ s.me.ctx) → 0 ≤ (x.phase - (m.w + 1)).toInt → ∃ t ids, exec (.bwait g) s = .next t ∧
      GroupNow s t l g { x with mode := .barrier } ∧ outstanding s ids ∧
      t.me = ({ withMember g { m with w := m.w + 1 } s.me with holdFence := s.me.holdFence ++ ids }).advance 4) ∧
    (m.a ≠ m.w → (x.phase - (m.w + 1)).toInt < 0 → ∃ t, exec (.bwait g) s = .next t ∧
      GroupNow s t l g { x with mode := .barrier } ∧ t.me = { s.me with stall := true })

/-- R335, R336, R337: PHREG sends its role to the channel and sets the core's own; PHSIG, of a signaller that has not signalled the open
phase, sends its signal; PHWAIT, of a waiter whose phase has completed, advances its w at the channel and holds later accesses as an
acquire; each sets an unset mode at issue also where it waits (log entry 52, the model's choice). Without the role each traps, and so does PHWAIT on a phase that the core has still to signal. -/
def Sys2Proof.Claims.PhasersFollowRoles : Prop :=
  ∀ (s : State) (g : GroupNo) (l : Launch) (x : Group) (m : Member), InGroup s g .phaser l x m → plain s.me →
    let ctx := s.me.ctx
    let w := mapGet 0 x.w ctx
    let sg := mapGet 0 x.s ctx
    let signals := m.role = .sig ∨ m.role = .both
    let waits := m.role = .wait ∨ m.role = .both
    (∀ r, settledAll s → ∃ t, exec (.phreg r g) s = .next t ∧ GroupNow s t l g (asks x .phaser ctx (.register r)) ∧
      t.me = (withMember g { m with role := r } s.me).advance 4) ∧
    (signals → settledAll s → (∀ q ∈ x.queue, q.ctx ≠ ctx) → sg = x.phase → ∃ t, exec (.phsig g) s = .next t ∧
      GroupNow s t l g (asks x .phaser ctx .signal) ∧ t.me = s.me.advance 4) ∧
    (signals → sg ≠ x.phase → ∃ t, exec (.phsig g) s = .next t ∧ GroupNow s t l g { x with mode := .phaser } ∧
      t.me = { s.me with stall := true }) ∧
    (¬ signals → ∃ t, exec (.phsig g) s = .next t ∧ misused s t 0x05 g) ∧
    (¬ waits → ∃ t, exec (.phwait g) s = .next t ∧ misused s t 0x06 g) ∧
    (waits → (∀ q ∈ x.queue, q.ctx ≠ ctx) →
      (m.role = .both → sg = x.phase → w = x.phase → ∃ t, exec (.phwait g) s = .next t ∧ misused s t 0x07 g) ∧
      (¬ (m.role = .both ∧ sg = x.phase ∧ w = x.phase) → 0 ≤ (x.phase - (w + 1)).toInt → ∃ t ids, exec (.phwait g) s = .next t ∧
        GroupNow s t l g { x with mode := .phaser, w := mapSet x.w ctx (w + 1) } ∧ outstanding s ids ∧
        t.me = ({ s.me with holdFence := s.me.holdFence ++ ids }).advance 4) ∧
      (¬ (m.role = .both ∧ sg = x.phase ∧ w = x.phase) → (x.phase - (w + 1)).toInt < 0 → ∃ t, exec (.phwait g) s = .next t ∧
        GroupNow s t l g { x with mode := .phaser } ∧ t.me = { s.me with stall := true }))

/-- BARR, BWAIT, PHREG, PHSIG and PHWAIT. -/
def Obligations.GroupInstructions : Prop := BarriersCountArrivals ∧ PhasersFollowRoles

namespace Sys2Proof.Claims
open Sys2Proof.Machine

/-- The open phase of a group completes (R334, R336, R339). -/
abbrev completes (x : Group) : Prop :=
  (x.mode = .barrier ∧ (∃ a ∈ x.members, a ∉ x.gone) ∧
    ∀ a ∈ x.members, a ∉ x.gone → 0 ≤ ((mapGet 0 x.arrived a : Word32) - (x.phase + 1)).toInt) ∨
  (x.mode = .phaser ∧ x.signalled = true ∧
    ∀ a ∈ x.members, mapGet Role.withdraw x.roles a = .sig ∨ mapGet Role.withdraw x.roles a = .both → mapGet 0 x.s a ≠ x.phase)

/-- The table of R335. -/
def registered (x : Group) (ctx : Nat) (r : Role) : Group :=
  let old := mapGet Role.withdraw x.roles ctx
  { x with
    roles := mapSet x.roles ctx r
    s := if r = .sig ∨ r = .both then (if old = .sig ∨ old = .both then x.s else mapSet x.s ctx x.phase) else mapErase x.s ctx
    w := if r = .wait ∨ r = .both then (if old = .wait ∨ old = .both then x.w else mapSet x.w ctx x.phase) else mapErase x.w ctx }

end Sys2Proof.Claims

/-- R331, R335, R336, R337, R339, R334: CHANNEL_REQUEST processes the oldest request of a group: an arrival, a signal, a registration,
the end of a member's part, or the question about the mode; then the open phase completes where its condition holds, and P advances
by one. The queue holds the requests of different cores in the order of issue, the model's choice (log entry 75). An answer to a
question lets the asker's instruction issue. No register and no byte changes. -/
def Obligations.ChannelsCompletePhases : Prop :=
  ∀ (s : State) (key : Nat) (g : GroupNo) (l : Launch) (x : Group) (q : ChanReq) (rest : List ChanReq),
    s.launch? key = some l → mapGet (Group.start []) l.groups g.val = x → x.queue = q :: rest →
    let y := { x with queue := rest }
    let c := q.ctx
    let becomes := fun z : Group => exec (.channelRequest key g) s =
      .next { s with launches := s.launches.map fun m => if m.key = key then { m with groups := mapSet m.groups g.val z } else m }
    let settles := fun z : Group =>
      (completes z → becomes { z with phase := z.phase + 1, signalled := if z.mode = .phaser then false else z.signalled }) ∧
        (¬ completes z → becomes z)
    (q.op = .arrive → settles { y with arrived := mapSet x.arrived c (mapGet 0 x.arrived c + 1) }) ∧
    (q.op = .signal → settles { y with s := mapSet x.s c (mapGet 0 x.s c + 1), signalled := true }) ∧
    (∀ r, q.op = .register r → settles (registered y c r)) ∧
    (q.op = .ended → settles { registered y c .withdraw with gone := x.gone ++ [c] }) ∧
    (∀ b, q.op = .ask b → (s.core (l.coreOf c)).launch = some key → l.coreOf c / 144 ∉ x.known →
      let z : Group := { y with
        mode := if x.mode = GroupMode.unset then (if b then .barrier else .phaser) else x.mode, known := x.known ++ [l.coreOf c / 144] }
      exec (.channelRequest key g) s = .next (({ s with launches := s.launches.map fun m : Launch =>
        if m.key = key then { m with groups := mapSet m.groups g.val z } else m } : State).modCore (l.coreOf c) fun k : Core =>
          { k with groups := k.groups.map fun e : Nat × Member => if e.1 = g.val then (e.1, { e.2 with asked := false }) else e }))

namespace Sys2Proof.Claims
open Sys2Proof.Machine

/-- A gang's size and its code in `gidx` (R320, R321). -/
def sizes : List (GangSize × Nat × Nat) := [(.two, 2, 1), (.four, 4, 2), (.eight, 8, 3)]

/-- The position of the leader of a core's set of size `n` (R319). -/
def leaderOf (n c : Nat) : Nat := c - c % 12 % n

/-- A core has stopped on GANG_FAULT with a reason, at its PC (R324). -/
def gangFaulted (s t : State) (c reason : Nat) : Prop :=
  (t.core c).run = .faulted ∧ (t.core c).tcause = 0x0F ∧ (t.core c).tval = BitVec.ofNat 64 (reason * 2 ^ 8) ∧
    (t.core c).tpc = BitVec.ofNat 64 ((s.core c).pc.toNat % 2 ^ 56)

/-- The set of size `n` of a core exists (R319). -/
abbrev setExists (n c : Nat) : Prop := c % 12 / n * n + n ≤ 12

end Sys2Proof.Claims

/-- R319, R320, R321, R323, R324, R267: GANG holds its core with the gang pending; GANG_FORM joins the set once every member holds one
of the same size: each takes its position, and the stream goes on at the leader's address + 4; UNGANG leaves the gang. GANG in a gang,
a GANG whose set does not exist or reaches outside the launch, one of whose set a core's part has ended, and GANGs of two sizes that
meet raise GANG_FAULT, and so does UNGANG outside a gang; where several reasons hold, 0x03 comes before 0x02, that before 0x07, and that
before 0x01 (log entry 74, the model's choice). A fatal trap of a member disbands the gang and makes reason 0x05 with its position pending
at the others; a CALL frame that would start on a ganged core raises reason 0x06. -/
def Obligations.GangsFormAndEnd : Prop :=
  (∀ z ∈ sizes, ∀ (s : State) (l : Launch), s.launchOf s.cur = some l →
    let fault := fun (i : Instr) (reason : Nat) => exec i s = .next (s.trap .gangFault (BitVec.ofNat 64 (reason * 2 ^ 8)))
    let lead := leaderOf z.2.1 s.cur
    (s.me.gidx.toNat / 16 ≠ 0 → fault (.gang z.1) 0x03 ∧
      exec .ungang s = .next (s.modMe fun k => { k with gidx := 0, pc := k.pc + 4, stall := false })) ∧
    (s.me.gidx.toNat / 16 = 0 → fault .ungang 0x04 ∧
      (¬ setExists z.2.1 s.cur ∨ (∃ i < z.2.1, lead + i ∉ l.cores) → fault (.gang z.1) 0x02) ∧
      (setExists z.2.1 s.cur → (∀ i < z.2.1, lead + i ∈ l.cores) → (∀ c, (s.core c).inSparkFrame = false ∧ (s.core c).glean = none) →
        ((∃ i < z.2.1, (s.core (lead + i)).run ∈ [RunState.ended, .idle, .faulted, .stopped]) →
          ∃ t, exec (.gang z.1) s = .next t ∧
            ∀ c, c = s.cur ∨ (∃ i < z.2.1, c = lead + i ∧ (s.core c).gangWait = some z.1) → gangFaulted s t c 0x07) ∧
        ((∀ i < z.2.1, (s.core (lead + i)).run ∉ [RunState.ended, .idle, .faulted, .stopped]) →
          let meets := fun c : Nat => c ∈ l.cores ∧ c ≠ s.cur ∧ ∃ y ∈ sizes, (s.core c).gangWait = some y.1 ∧ y.1 ≠ z.1 ∧
            ((∃ i < z.2.1, c = lead + i) ∨ setExists y.2.1 c ∧ ∃ i < y.2.1, s.cur = leaderOf y.2.1 c + i)
          (∃ c, meets c) → ∃ t, exec (.gang z.1) s = .next t ∧ ∀ c, c = s.cur ∨ meets c → gangFaulted s t c 0x01)) ∧
      (setExists z.2.1 s.cur → (∀ i < z.2.1, lead + i ∈ l.cores ∧ ((s.core (lead + i)).run = .running ∨ (s.core (lead + i)).run = .parked)) →
        (∀ c ∈ l.cores, (s.core c).gangWait = none ∨ (s.core c).gangWait = some z.1) →
        exec (.gang z.1) s = .next (s.modMe fun k => { k with gangWait := some z.1, stall := true }))) ∧
    ∀ c : CoreNo, setExists z.2.1 c.val →
      let lead := leaderOf z.2.1 c.val
      (∀ i < z.2.1, (s.core (lead + i)).gangWait = some z.1 ∧ (s.core (lead + i)).run = .running ∧ (s.core (lead + i)).pending = []) →
      ∃ t, exec (.gangForm c) s = .next t ∧
        (∀ i < z.2.1, t.core (lead + i) = { s.core (lead + i) with
          gangWait := none, gidx := BitVec.ofNat 6 (z.2.2 * 16 + i), pc := (s.core lead).pc + 4, stall := false }) ∧
        (∀ d, d < lead ∨ lead + z.2.1 ≤ d → t.core d = s.core d) ∧ t.mem = s.mem ∧ t.launches = s.launches) ∧
  (∀ z ∈ sizes, ∀ (s : State) (tv : Word), s.me.gidx.toNat / 16 = z.2.2 → s.me.gidx.toNat % 16 < z.2.1 → s.me.gidx.toNat % 8 ≤ s.cur →
    s.me.inSparkFrame = false → ∃ t, exec (.illegalInstruction tv) s = .next t ∧ t.me.gidx = 0 ∧
      ∀ i < z.2.1, i ≠ s.me.gidx.toNat % 8 →
        let c := s.cur - s.me.gidx.toNat % 8 + i
        (t.core c).gidx = 0 ∧
          (t.core c).pending = (s.core c).pending ++ [⟨5, 0x0F, BitVec.ofNat 64 (5 * 2 ^ 8 + s.me.gidx.toNat % 8), none, 0⟩]) ∧
  ∀ (s : State) (c : CoreNo) (x : ForceEntry) (rest : List ForceEntry) (st : Stook) (pc : Word), Innermost s c.val x rest .callWait st →
    (s.core c.val).force.flying = [] → (s.core c.val).midway = none → Resting (s.core c.val) → (s.core c.val).force.root = some (.force pc) →
    (s.core c.val).gidx.toNat / 16 ≠ 0 →
    exec (.callFrameStart c) s = .next (s.modCore c.val fun k => faulted s.nextId k .gangFault 0x0F 0x600 (some pc))

/-! ## Gleaning -/

namespace Sys2Proof.Claims
open Sys2Proof.Machine

/-- What a release at .package scope has waited for (R243, R302, R359): every earlier load and atomic has returned, every TSTAT
and every write is performed. -/
abbrev settledWrites (s : State) : Prop :=
  s.me.usc = 0 ∧ ∀ p ∈ s.net, p.src = s.cur → p.op.isLoad = false ∧ p.op.isAtom = false ∧
    (p.op.isStat = true ∨ p.wr = true → p.unperformed = false)

end Sys2Proof.Claims

/-- R358, R359, R363: RANGE pushes [lo, hi) with its grain and entry at the bottom of the core's deque of 8 and writes 1, or 0 with the
deque full, or 2 for an empty range; a push is a release, which waits for the core's
earlier accesses, and gives the waiting GLEANs of the launch news. A bad entry address raises MISALIGNED. -/
def Sys2Proof.Claims.RangePublishesWork : Prop :=
  ∀ (s : State) (r : R3), fullAt s.me [.g r.a, .g (regUp r.a 1), .g r.b, .g r.d] →
    let lo := bits (s.me.gr r.a) 31 0
    let hi := bits (s.me.gr r.a) 63 32
    let grain := bits (s.me.gr (regUp r.a 1)) 15 0
    let entry := s.me.gr r.b
    let bad := entry.toNat % 4 ≠ 0 ∨ bits entry 63 56 ≠ 0
    (bad → exec (.rangeInit r) s = .next (s.trap .misaligned entry)) ∧
    (¬ bad → hi ≤ lo → exec (.rangeInit r) s = .next (s.modMe (wrote r.d 2 4))) ∧
    (¬ bad → lo < hi → 8 ≤ s.me.deque.length → exec (.rangeInit r) s = .next (s.modMe (wrote r.d 0 4))) ∧
    (¬ bad → lo < hi → s.me.deque.length < 8 → ¬ settledWrites s → exec (.rangeInit r) s = .next (s.modMe fun k => { k with stall := true })) ∧
    (¬ bad → lo < hi → s.me.deque.length < 8 → settledWrites s → ∃ t, exec (.rangeInit r) s = .next t ∧ t.mem = s.mem ∧ t.loft = s.loft ∧ t.net = s.net ∧
      ∀ c, t.core c = told (s.launchOf s.cur) c (if c = s.cur then
        { wrote r.d 1 4 s.me with deque := ⟨lo, hi, if grain = 0 then 1 else grain, entry⟩ :: s.me.deque } else s.core c))

namespace Sys2Proof.Claims
open Sys2Proof.Machine

/-- Torus hops (R103). -/
def hopsBetween (a b : Nat) : Nat :=
  let d := fun x y : Nat => min ((x + 12 - y) % 12) ((y + 12 - x) % 12)
  d (a % 12) (b % 12) + d (a % 144 / 12) (b % 144 / 12)

/-- The rank of a kind under GORDER (R362). -/
def rankOf (g : Nat) (k : WorkKind) : Nat :=
  ([[.range, .spark, .alternative], [.range, .alternative, .spark], [.spark, .range, .alternative], [.spark, .alternative, .range],
    [.alternative, .range, .spark], [.alternative, .spark, .range]].getD g [] : List WorkKind).findIdx (· = k)

/-- The key (c, h, k, t) of a pair as core `c` orders it, `r` its glean LFSR (R362). -/
def keyOf (g c : Nat) (r : BitVec 16) (x : Nat × WorkKind) : List Nat :=
  [if x.1 / 144 = c / 144 then 0 else 1, if x.1 = c then 0 else hopsBetween c x.1, rankOf g x.2, x.1 ^^^ (r.toNat % 2048)]

/-- The pairs with work for core `c` are `x`, first in the order of the search, and others behind it. -/
def firstWork (s : State) (l : Launch) (c : Nat) (r : BitVec 16) (x : Nat × WorkKind) : Prop :=
  x.1 ∈ l.cores ∧ s.hasWork c x = true ∧
    ∀ y : Nat × WorkKind, y.1 ∈ l.cores → s.hasWork c y = true → y ≠ x → keyOf l.gorder c r x < keyOf l.gorder c r y

/-- A launch's cores are cores of the package, and its GORDER is one of R362's. -/
def orderly (l : Launch) : Prop := (∀ v ∈ l.cores, v < 1152) ∧ l.gorder < 6

/-- The next value of the glean LFSR (R362). -/
def lfsrNext (r : BitVec 16) : BitVec 16 :=
  BitVec.ofNat 16 (r.toNat / 2 + 2 ^ 15 * ((r.toNat + r.toNat / 2 ^ 2 + r.toNat / 2 ^ 3 + r.toNat / 2 ^ 5) % 2))

/-- A pair of registers emptied. -/
def pairEmptied (d : Reg) (k : Core) : Word := k.gfull &&& ~~~(3#64 <<< d.val)

/-- A pair filled: the values, and the registers full. -/
def pairFilled (d : Reg) (x y : Word) (k t : Core) : Prop :=
  t.gfull = k.gfull ||| 3#64 <<< d.val ∧ t.glean = none ∧ t.pc = k.pc + 4 ∧
    ∀ r : Reg, t.g.get r = if r = d then x else if r.val = d.val + 1 then y else k.g.get r

/-- The pair of a GLEAN: d even and not 0 (R361). -/
abbrev pairReg (d : Reg) : Prop := d.val % 2 = 0 ∧ d ≠ 0

end Sys2Proof.Claims

/-- R361, R362, R363, R270: GLEAN empties its pair, steps the LFSR and searches: with nothing found it waits; a range or an alternative
that comes first in the order (c, h, k, t) is its target; a spark that comes first leaves its victim's queue and becomes a chain of the
taker. GLEAN_RESEARCH searches again, with the same LFSR, once work has been published. That the PC stays at the GLEAN until its pair
is filled, and that only news makes a waiting GLEAN search again, are the model's choices (log entries 27 and 53). -/
def Obligations.GleanSearchesInOrder : Prop :=
  ∀ (s : State) (d : Reg) (l : Launch), s.launchOf s.cur = some l → orderly l → pairReg d → s.me.inFrame = false → s.eccOne = [] →
    s.svlRetry = [] →
    let w : GleanWait := { d := d, old0 := s.me.gr d, old1 := s.me.gr (regUp d 1), lfsr0 := s.me.lfsr, pc := s.me.pc, target := none, idle := true,
                           news := false }
    let k' := { s.me with gfull := pairEmptied d s.me, lfsr := lfsrNext s.me.lfsr, stall := false }
    (s.me.glean = none → fullAt s.me [.g d, .g (regUp d 1)] →
      ((∀ v ∈ l.cores, ∀ x, s.hasWork s.cur (v, x) = false) →
        exec (.glean d) s = .next (s.modMe fun _ => { k' with glean := some w })) ∧
      (∀ v kind, kind ≠ .spark → firstWork s l s.cur (lfsrNext s.me.lfsr) (v, kind) →
        exec (.glean d) s = .next (s.modMe fun _ => { k' with glean := some { w with target := some (v, kind), idle := false } })) ∧
      (∀ v n rest, firstWork s l s.cur (lfsrNext s.me.lfsr) (v, .spark) → (s.core v).sparks = n :: rest →
        s.reaches s.cur (ownerOf s.cur n) = true → ∃ t, exec (.glean d) s = .next t ∧ t = { s with cores := t.cores } ∧
        ∀ c, t.core c = if c = s.cur then
          { k' with sparks := if v = s.cur then rest else k'.sparks, glean := some { w with idle := false },
                    force := ⟨some (.spark d n), .ask (ownerOf s.cur n) (bits n 11 0) n (some (.spark d n)), [], 0, false, [], [], s.nextId, none⟩ }
          else if c = v then { s.core v with sparks := rest } else s.core c)) ∧
    (s.me.glean ≠ none → exec (.glean d) s = .next (s.modMe fun k => { k with stall := true })) ∧
    ∀ (c : CoreNo) (w : GleanWait), (s.core c.val).glean = some w → (s.core c.val).run = .running →
      (w.idle = false ∨ w.news = false → exec (.gleanResearch c) s = .next s) ∧
      (w.idle = true → w.news = true → s.launchOf c.val = some l →
        ((∀ v ∈ l.cores, ∀ x, s.hasWork c.val (v, x) = false) → exec (.gleanResearch c) s = .next (s.modCore c.val fun k =>
          { k with glean := some { w with target := none, news := false } })) ∧
        ∀ v kind, kind ≠ .spark → firstWork s l c.val (s.core c.val).lfsr (v, kind) →
          exec (.gleanResearch c) s = .next (s.modCore c.val fun k =>
            { k with glean := some { w with target := some (v, kind), idle := false, news := false } }))

/-- R360, R361, R363, R364: RANGE_TAKE gives an owner the first grain of its bottom entry, and a thief the upper half of a victim's top
entry, or its last index, from which it takes a grain at once; the pair receives the piece and the entry, and the PC goes on only now (log
entry 27, the model's choice). GLEAN_EMPTY fills every waiting pair with 0 once every other context has ended or waits and no work remains. -/
def Sys2Proof.Claims.RangesAreSplitAndTaken : Prop :=
  (∀ (s : State) (c : CoreNo) (w : GleanWait) (v : Nat), (s.core c.val).glean = some w → w.target = some (v, .range) → pairReg w.d →
    (s.core c.val).gfull &&& (3#64 <<< w.d.val) = 0 → (s.core v).run ≠ .parked →
    let piece := fun (lo hi : Nat) (e : RangeEntry) (q : List RangeEntry) (t : State) =>
      pairFilled w.d (BitVec.ofNat 64 (2 ^ 62) ||| e.entry) (BitVec.ofNat 64 (hi * 2 ^ 32 + lo)) (s.core c.val) (t.core c.val) ∧
      (t.core c.val).deque = (if lo + e.grain < e.hi then { e with lo := lo + e.grain } :: q else q) ∧ t.mem = s.mem
    (∀ e q, v = c.val → (s.core v).deque = e :: q → ∃ t, exec (.rangeTake c) s = .next t ∧ piece e.lo (min (e.lo + e.grain) e.hi) e q t) ∧
    (∀ e q, v ≠ c.val → (s.core v).deque = q ++ [e] → (s.core c.val).deque = [] →
      let m := if e.hi - e.lo ≤ 1 then e.lo else e.lo + (e.hi - e.lo) / 2
      ∃ t, exec (.rangeTake c) s = .next t ∧ piece m (min (m + e.grain) e.hi) e [] t ∧
        (t.core v).deque = if e.hi - e.lo ≤ 1 then q else q ++ [{ e with hi := m }])) ∧
  ∀ (s : State) (key : Nat) (l : Launch) (c : Nat), s.launch? key = some l → c ∈ l.cores →
    (∀ v ∈ l.cores, (s.core v).run = .ended ∨ (s.core v).run = .running ∧ ∃ w, (s.core v).glean = some w ∧ w.idle = true ∧ w.news = false ∧
      pairReg w.d ∧ (s.core v).gfull &&& (3#64 <<< w.d.val) = 0) →
    (∀ v ∈ l.cores, ∀ u ∈ l.cores, ∀ x, s.hasWork v (u, x) = false) → (∀ v ∈ l.cores, (s.core v).launch = some key) → l.cores.Nodup →
    ∃ t, exec (.gleanEmpty key) s = .next t ∧ t.mem = s.mem ∧
      ∀ w, (s.core c).run = .running → (s.core c).glean = some w → pairFilled w.d 0 0 (s.core c) (t.core c)

/-- RANGE, and how its work is split, taken and found used up. -/
def Obligations.RangesArePublishedAndTaken : Prop := RangePublishesWork ∧ RangesAreSplitAndTaken

namespace Sys2Proof.Claims
open Sys2Proof.Machine

/-- A word at an offset of an arena that lies in memory from `pa` upward. -/
def arenaWord (s : State) (pa off : Nat) : Word := s.mem.readWord (pa + off)

/-- The number of registers that a VMASK saves below register `i`. -/
def savedBelow (vmask : Word) (i : Nat) : Nat := (List.range i).countP fun j => vmask.getLsbD j

/-- Plain memory of core `c`'s own frond (what a sequence meets at another's is log entry 91). -/
def nearHome (s : State) (c h : Nat) : Prop :=
  plainHome s h ∧ (if h < 2 ^ 40 then h / 2 ^ 36 / 2 else (h - 2 ^ 52) / 2 ^ 19 / 144) = c / 144

/-- Core `v`'s arena of `size` bytes lies in plain memory of core `c`'s frond from `pa` upward, as `v`'s page tables have it, and the
scalar path of core `c`. -/
structure ArenaAt (s : State) (c v pa size : Nat) : Prop where
  extent : (s.arena v).2 = size ∧ size ≠ 0
  mapped : ∀ off, off < size → off % 8 = 0 → nearHome s c (pa + off) ∧ (pa + off) % 8 = 0 ∧ (s.arenaVa v off).toNat % 8 = 0 ∧
    (∃ d, (s.translateNow v (s.arenaVa v off) .read).1 = .ok (pa + off) d) ∧
    ∀ a, a ≠ .fetch → ∃ d, s.translateFor c v (s.arenaVa v off) a = (.ok (pa + off) d, s)

/-- The records of a choice stack, newest first, from an offset downward (R368, R370). -/
def records (s : State) (pa : Nat) : Nat → List Nat → Prop
  | top, [] => top = 0
  | top, r :: rest => top = r ∧ r ≠ 0 ∧ records s pa (bits (arenaWord s pa r) 32 0) rest

/-- A record has an untried alternative (R370). -/
abbrev untried (s : State) (pa r : Nat) : Prop := bits (arenaWord s pa (r + 16)) 31 16 < bits (arenaWord s pa (r + 16)) 15 0

/-- `r` is the oldest record of core `v` with an untried alternative. -/
structure Oldest (s : State) (v pa size r : Nat) : Prop where
  stack : ∃ newer older, records s pa (s.core v).ctop (newer ++ r :: older) ∧ (newer ++ r :: older).length < 2 ^ 24 ∧
    (∀ x ∈ newer ++ r :: older, x % 8 = 0 ∧ x + 576 ≤ size) ∧ ∀ x ∈ older, ¬ untried s pa x
  left : untried s pa r
  fits : r + 576 + 128 * savedBelow (arenaWord s pa (r + 32)) 64 ≤ size

/-- Nothing of the thief or of its victim is in the network, no copy's event lies on a word, and memory is in order. -/
structure Still (s : State) (c v : Nat) : Prop where
  net : ∀ p ∈ s.net, p.src ≠ c ∧ p.src ≠ v ∧ p.stage ≠ .landing
  memory : s.mem.wf = true ∧ s.eccOne = []

/-- The victim is at an instruction boundary and has made the waits of FENCE .rel (R382). -/
structure AtRest (k : Core) : Prop where
  boundary : k.blocked = false ∧ k.midway = none
  written : k.usc = 0

/-- The swath entry number `n` from `sp` is KIND 1 and names word `i` of the data area at address `base` + 64 (R371). -/
abbrev names (s : State) (pa sp : Nat) (base : Word) (n i : Nat) : Prop :=
  bits (arenaWord s pa (sp + 16 * n)) 63 60 = 1 ∧
    (BitVec.ofNat 64 (bits (arenaWord s pa (sp + 16 * n)) 55 0) - base).toNat / 8 = 8 + i

end Sys2Proof.Claims

/-- R382, R383: once its victim is at rest and no register of the thief but the pair is empty, ALTERNATIVE_THEFT takes the victim's
oldest untried alternative: that record's NEXT advances and is marked stolen; the thief gets the snapshot of the record in every register
but the pair, the saved vectors, and the data area with the trailed values put back, its header names the prune word and its value, its
choice stack and swath are empty, and the pair holds the alternative's address and the arena's base. Until then it waits. The victim's
registers stay. (The PC moves on only with the fill: log entry 27; a victim held by its own FORCE delays the take: log entry 54; both
the model's choices.) -/
def Obligations.AlternativesAreStolen : Prop :=
  ∀ (s : State) (c : CoreNo) (w : GleanWait) (v pc pv csize vsize r : Nat), (s.core c.val).glean = some w →
    w.target = some (v, .alternative) → (s.core c.val).run = .running → (s.core v).run = .running → v ≠ c.val →
    (s.core c.val).ctop = 0 → ArenaAt s c.val c.val pc csize → ArenaAt s c.val v pv vsize → pc + csize ≤ pv ∨ pv + vsize ≤ pc →
    Oldest s v pv vsize r → Still s c.val v → (s.core v).gidx.toNat / 16 = 0 →
    let k := s.core c.val
    let at' := fun off => arenaWord s pv off
    let dsize := bits (at' 0) 32 6 * 64
    let armed := ∀ x : Reg, (k.gIsFull x = true ∨ x = w.d ∨ x = regUp w.d 1) ∧ k.vIsFull x = true
    (¬ armed → exec (.alternativeTheft c) s = .next s) ∧
    (64 + dsize ≤ csize → ¬ AtRest (s.core v) → exec (.alternativeTheft c) s = .next s) ∧
    (armed → AtRest (s.core v) → pairReg w.d → k.gfull &&& (3#64 <<< w.d.val) = 0 →
      64 + dsize ≤ csize → 64 + dsize ≤ vsize → (s.core v).sp % 8 = 0 → bits (at' (r + 24)) 32 0 ≤ vsize →
      let vmask := at' (r + 32)
      let prune := bits (at' (r + 40)) 55 0
      let count := (bits (at' (r + 24)) 32 0 - (s.core v).sp) / 16
      let old := fun n => at' ((s.core v).sp + 16 * n + 8)
      let names := fun n i => Claims.names s pv (s.core v).sp (s.arena v).1 n i
      ∀ (h hp : Nat) (dev dp : Bool),
      s.translateFor c.val v (BitVec.ofNat 64 (bits (at' (r + 8)) 55 0 + 8 * bits (at' (r + 16)) 31 16)) .read = (.ok h dev, s) →
      nearHome s c.val h → h % 8 = 0 →
      (prune ≠ 0 → prune % 8 = 0 ∧ prune / 2 ^ 48 < 0xFD ∧ s.translateFor c.val v (BitVec.ofNat 64 prune) .rw = (.ok hp dp, s) ∧
        nearHome s c.val hp ∧ hp % 8 = 0) →
      ∃ t, exec (.alternativeTheft c) s = .next t ∧ t.core v = s.core v ∧
        ((t.core c.val).glean = none ∧ (t.core c.val).ctop = 0 ∧ (t.core c.val).sp = csize ∧ (t.core c.val).pc = k.pc + 4 ∧
          (∀ x : Reg, (t.core c.val).gIsFull x = true) ∧ (t.core c.val).vfull = k.vfull) ∧
        (∀ x : Reg, x ≠ 0 → (t.core c.val).gr x = if x = w.d then BitVec.ofNat 64 (3 * 2 ^ 62) ||| s.mem.readWord h
          else if x.val = w.d.val + 1 then (s.arena c.val).1 else at' (r + 56 + 8 * x.val)) ∧
        (∀ x : Reg, if vmask.getLsbD x.val then ∀ j < 16, lane (t.core c.val) x (2 * j + 1) ++ lane (t.core c.val) x (2 * j) =
          at' (r + 576 + 128 * savedBelow vmask x.val + 8 * j) else (t.core c.val).v.get x = k.v.get x) ∧
        arenaWord t pv (r + 16) = (at' (r + 16) + 0x10000) ||| 2 ^ 32 ∧
        (∀ i, 8 * i < dsize →
          ((∀ n < count, ¬ names n i) → arenaWord t pc (64 + 8 * i) = at' (64 + 8 * i)) ∧
          ∀ n < count, names n i → (∀ m < count, n < m → ¬ names m i) → arenaWord t pc (64 + 8 * i) = old n) ∧
        arenaWord t pc 0 = BitVec.ofNat 64 dsize ∧ arenaWord t pc 24 = BitVec.ofNat 64 prune ∧ arenaWord t pc 40 = 1 ∧
        arenaWord t pc 32 = (if prune = 0 then 0 else s.mem.readWord hp) ∧
        ∀ y, (y < pc ∨ pc + 64 + dsize ≤ y ∨ (pc + 8 ≤ y ∧ y < pc + 24) ∨ (pc + 48 ≤ y ∧ y < pc + 64)) →
          (y < pv + r + 16 ∨ pv + r + 24 ≤ y) → t.mem.read y = s.mem.read y)

/-! ## Search -/

namespace Sys2Proof.Claims
open Sys2Proof.Machine

/-- A word that the issuing core may read and write, mapped by its micro-TLB to home `h`, which is plain memory of its frond. -/
def reachesWord (s : State) (va : Word) (h : Nat) : Prop :=
  wellFormedAddress va ∧ bits va 55 48 < 0xFD ∧ va.toNat % 8 = 0 ∧ nearHome s s.cur h ∧ h % 8 = 0 ∧
    ∃ e, mapped s va e ∧ e.leaf.getLsbD 2 = true ∧ e.leaf.getLsbD 3 = true ∧
      bits e.leaf 51 12 * 2 ^ 12 + va.toNat % 2 ^ pageBits e.level = h

/-- The issuing core's arena of `size` bytes lies in memory from `pa` upward, mapped word by word. -/
structure ArenaOk (s : State) (pa size : Nat) : Prop where
  extent : (s.arena s.cur).2 = size ∧ size ≠ 0
  words : ∀ off, off < size → off % 8 = 0 → reachesWord s (s.arenaVa s.cur off) (pa + off)
  plain : s.mem.wf = true ∧ s.eccOne = []

/-- Bytes of memory outside a range keep their values. -/
def elsewhere (s t : State) (a n : Nat) : Prop := ∀ x, x < a ∨ a + n ≤ x → t.mem.read x = s.mem.read x

/-- The issuing core may search: outside a CALL frame, unheld, nothing of it in the network (R374), no FAIL or CUT of it broken off,
and no copy's event on a word (R289). -/
abbrev searches (s : State) : Prop :=
  s.me.inFrame = false ∧ s.me.holdFence = [] ∧ s.me.midway = none ∧ ∀ p ∈ s.net, p.src ≠ s.cur ∧ p.stage ≠ .landing

/-- A packet is an increment of the prune word at `va`: an AADD of 1 that returns nothing (R380). -/
def increments (q : Packet) (va : Word) (h : Nat) : Prop :=
  q.op = .atom 0x01 1 0 true 0 (h % 8) ∧ q.parts = [⟨h, 0, 0⟩] ∧ q.va = va

/-- Every g and v register is full. -/
abbrev allRegisters (k : Core) : Prop := ∀ r : Reg, k.gIsFull r = true ∧ k.vIsFull r = true

end Sys2Proof.Claims

/-- R376, R370, R373, R368: TRY writes the record behind the newest one: the old CTOP, the table, NALT with NEXT 1, SP, VMASK, the prune
word's address, g1 to g63 and the saved vectors; CTOP becomes its offset and the stream goes on at entry 0. Where the record would
reach past SP, it raises CHOICE_OVERFLOW and writes nothing. With NALT = 0 it acts as FAIL. -/
def Sys2Proof.Claims.TryPushesARecord : Prop :=
  ∀ (s : State) (a b : Reg) (p q : Bool) (pa size h : Nat), searches s → allRegisters s.me →
    let table := s.me.gr a
    let nalt := bits (s.me.gr (regUp a 1)) 15 0
    let vmask := s.me.gr b
    let need := 576 + 128 * savedBelow vmask 64
    (nalt = 0 → exec (.tryAlt a b p q) s = exec .failBack s) ∧
    (nalt ≠ 0 → s.me.gidx.toNat / 16 = 0 → table.toNat % 8 ≠ 0 ∨ bits table 63 56 ≠ 0 → exec (.tryAlt a b p q) s = .next (s.trap .misaligned table)) ∧
    (nalt ≠ 0 → ArenaOk s pa size → s.me.ctop % 8 = 0 → s.me.ctop + 576 ≤ size → s.me.sp ≤ size →
      let base := if s.me.ctop = 0 then 64 + bits (arenaWord s pa 0) 32 6 * 64
        else s.me.ctop + 576 + 128 * savedBelow (arenaWord s pa (s.me.ctop + 32)) 64
      (s.me.sp < base + need → s.me.gidx.toNat / 16 = 0 → table.toNat % 8 = 0 → bits table 63 56 = 0 → exec (.tryAlt a b p q) s =
        .next (s.trap .choiceOverflow (BitVec.ofNat 64 (need * 2 ^ 32 + min (s.me.sp - base) (2 ^ 32 - 1))))) ∧
      (base + need ≤ s.me.sp → reachesWord s table h → (h + 8 ≤ pa ∨ pa + size ≤ h) → (s.mem.readWord h).toNat % 4 = 0 →
        ∃ t, exec (.tryAlt a b p q) s = .next t ∧ elsewhere s t (pa + base) need ∧
          (∀ c, t.core c = told (s.launchOf s.cur) c (if c = s.cur then
            { s.me with ctop := base, pc := s.mem.readWord h, stall := false } else s.core c)) ∧
          (let at' := fun off => arenaWord t pa (base + off)
          at' 0 = BitVec.ofNat 64 s.me.ctop ∧ at' 8 = table ∧ at' 16 = BitVec.ofNat 64 (2 ^ 16 + nalt) ∧ at' 24 = BitVec.ofNat 64 s.me.sp ∧
          at' 32 = vmask ∧ at' 40 = BitVec.ofNat 64 (bits (s.me.gr (regUp b 1)) 55 0) ∧
          (∀ i : Reg, i ≠ 0 → at' (56 + 8 * i.val) = s.me.gr i) ∧
          ∀ i : Reg, vmask.getLsbD i.val = true → ∀ j < 16,
            at' (576 + 128 * savedBelow vmask i.val + 8 * j) = lane s.me i (2 * j + 1) ++ lane s.me i (2 * j))))

/-- R378, R379, R371: FAIL goes back to the newest record: it undoes the swath, newest entry first (here none, or one trailed word,
whose old value is written back), restores g1 to g63 and the saved vectors, all full, and goes on at the next alternative, which the record
then counts as tried. With no record left it marks the header FAILED and goes on at FAILPC, or ends as END does. -/
def Sys2Proof.Claims.FailGoesBack : Prop :=
  ∀ (s : State) (pa size : Nat), searches s → allRegisters s.me →
    ((s.arena s.cur).2 = 0 → s.me.ctop = 0 → s.me.gidx.toNat / 16 = 0 → exec .failBack s = exec .endLaunch s) ∧
    (ArenaOk s pa size → s.me.ctop = 0 → 64 ≤ size → (arenaWord s pa 8).toNat % 4 = 0 → bits (arenaWord s pa 8) 55 0 ≠ 0 →
      ∃ t, exec .failBack s = .next t ∧ elsewhere s t pa 64 ∧ arenaWord t pa 16 = 1 ∧ arenaWord t pa 24 = 0 ∧ arenaWord t pa 32 = 0 ∧
        arenaWord t pa 40 = 0 ∧
        t.me = { s.me with sp := size, pc := BitVec.ofNat 64 (bits (arenaWord s pa 8) 55 0), stall := false }) ∧
    ∀ (h : Nat), ArenaOk s pa size → s.me.ctop ≠ 0 → s.me.ctop % 8 = 0 → s.me.sp % 8 = 0 →
      let rec' := fun off => arenaWord s pa (s.me.ctop + off)
      let vmask := rec' 32
      let next := bits (rec' 16) 31 16
      let mark := bits (rec' 24) 32 0
      s.me.ctop + 576 + 128 * savedBelow vmask 64 ≤ s.me.sp → s.me.sp ≤ size → next < bits (rec' 16) 15 0 →
      reachesWord s (BitVec.ofNat 64 (bits (rec' 8) 55 0 + 8 * next)) h → (h + 8 ≤ pa ∨ pa + size ≤ h) →
      (s.mem.readWord h).toNat % 4 = 0 →
      let back := fun (t : State) (sp : Nat) =>
        t.me.ctop = s.me.ctop ∧ t.me.sp = sp ∧ t.me.pc = s.mem.readWord h ∧ t.me.gfull = BitVec.allOnes 64 ∧
        t.me.vfull = BitVec.allOnes 64 ∧
        (∀ i : Reg, i ≠ 0 → t.me.gr i = rec' (56 + 8 * i.val)) ∧
        (∀ i : Reg, if vmask.getLsbD i.val then ∀ j < 16, lane t.me i (2 * j + 1) ++ lane t.me i (2 * j) =
            rec' (576 + 128 * savedBelow vmask i.val + 8 * j) else t.me.v.get i = s.me.v.get i) ∧
        arenaWord t pa (s.me.ctop + 16) = rec' 16 + 0x10000
      (mark ≤ s.me.sp → ∃ t, exec .failBack s = .next t ∧ back t s.me.sp ∧ elsewhere s t (pa + s.me.ctop + 16) 8) ∧
      ∀ o, mark = s.me.sp + 16 → mark ≤ size → bits (arenaWord s pa s.me.sp) 63 60 = 1 →
        reachesWord s (BitVec.ofNat 64 (bits (arenaWord s pa s.me.sp) 55 0)) o → (o + 8 ≤ pa ∨ pa + size ≤ o) → (o + 8 ≤ h ∨ h + 8 ≤ o) →
        ∃ t, exec .failBack s = .next t ∧ back t mark ∧ t.mem.readWord o = arenaWord s pa (s.me.sp + 8) ∧
          ∀ x, (x < o ∨ o + 8 ≤ x) → (x < pa + s.me.ctop + 16 ∨ pa + s.me.ctop + 24 ≤ x) → t.mem.read x = s.mem.read x

/-- TRY and FAIL. -/
def Obligations.TryAndFail : Prop := TryPushesARecord ∧ FailGoesBack

/-- R375, R377, R380, R381, R372: CHMARK writes CTOP or the arena's base; CUT pops the records newer than its marker (here none, or one) and empties the swath with the stack; of a stolen record it sends the increment of the prune word, and while increments are left it goes on
with the next once the one before has been answered; TST sends a swap of its word, counted in `usc`, and outside a choice logs
nothing; CLAIM in a task that was not stolen sends its store. Inside a CALL frame CUT and CLAIM raise LOFT_FAULT. -/
def Obligations.ChoicePointInstructions : Prop :=
  (∀ (s : State) (d : Reg), s.me.gIsFull d = true →
    exec (.chmark d .marker) s = .next (s.modMe (wrote d (BitVec.ofNat 64 s.me.ctop) 4)) ∧
    exec (.chmark d .base) s = .next (s.modMe (wrote d (s.arena s.cur).1 4))) ∧
  (∀ (s : State) (a : Reg) (p : Bool), s.me.gIsFull a = true → searches s →
    (s.me.ctop ≤ (s.me.gr a).toNat → exec (.cutTo a p) s = .next (s.modMe fun k =>
      { k with sp := if k.ctop = 0 then (s.arena s.cur).2 else k.sp, pc := k.pc + 4, stall := false })) ∧
    ∀ pa size, ArenaOk s pa size → (s.me.gr a).toNat < s.me.ctop → s.me.ctop % 8 = 0 → s.me.ctop + 576 ≤ size →
      bits (arenaWord s pa s.me.ctop) 32 0 ≤ (s.me.gr a).toNat →
      let prev := bits (arenaWord s pa s.me.ctop) 32 0
      let done := fun k : Core => { k with ctop := prev, sp := if prev = 0 then size else k.sp, pc := k.pc + 4, stall := false }
      let prune := BitVec.ofNat 64 (bits (arenaWord s pa (s.me.ctop + 40)) 55 0)
      ((arenaWord s pa (s.me.ctop + 16)).getLsbD 32 = false → exec (.cutTo a p) s = .next (s.modMe done)) ∧
      ∀ h, (arenaWord s pa (s.me.ctop + 16)).getLsbD 32 = true → prune ≠ 0 → reachesWord s prune h →
        ∃ t q k, exec (.cutTo a p) s = .next t ∧ Sent s t q ∧ increments q prune h ∧ counted q s.me k ∧ t.me = done k) ∧
  (∀ (s : State) (a : Reg) (p : Bool) (x : PruneAdd) (r : List PruneAdd), s.me.midway = some (.cut (x :: r)) →
    ((∃ q ∈ s.net, q.src = s.cur) → exec (.cutTo a p) s = .next (s.modMe fun k => { k with stall := true })) ∧
    ((∀ q ∈ s.net, q.src ≠ s.cur) → ∃ t q k, exec (.cutTo a p) s = .next t ∧ Sent s t q ∧ increments q x.va x.home ∧
      counted q s.me k ∧ (r ≠ [] → t.me = { k with midway := some (.cut r), stall := true }) ∧
      (r = [] → t.me = { k with midway := none, sp := if k.ctop = 0 then (s.arena s.cur).2 else k.sp, pc := k.pc + 4, stall := false }))) ∧
  (∀ (s : State) (r : R2) (h : Nat) (dev : Bool), fullAt s.me [.g r.a, .g r.d] →
    s.target (s.me.gr r.a) 8 .rw = (.at h dev, s) → s.me.usc ≠ 1023 → s.me.ctop = 0 → s.me.midway = none → unheld s →
      ∃ t p k, exec (.tst r) s = .next t ∧ Sent s t p ∧ p.op = .tst (s.me.gr r.d) none ∧ p.parts = [⟨h, 0, 0⟩] ∧ p.rd = true ∧ p.wr = true ∧
        p.va = s.me.gr r.a ∧ counted p s.me k ∧ t.me = k.advance 4) ∧
  (∀ (s : State) (r : R2) (h : Nat) (dev : Bool), fullAt s.me [.g r.a, .g r.d] →
    s.target (s.me.gr r.a) 8 .write = (.at h dev, s) → searches s →
    ((s.arena s.cur).2 = 0 ∨ ∃ pa size, ArenaOk s pa size ∧ 64 ≤ size ∧ (arenaWord s pa 40).getLsbD 0 = false) →
      ∃ t p k, exec (.claim r) s = .next t ∧ Sent s t p ∧ p.op = .atom 0x1B (s.me.gr r.d) 0 true r.d (h % 8) ∧ p.parts = [⟨h, 0, 0⟩] ∧
        p.va = s.me.gr r.a ∧ counted p s.me k ∧ t.me = k.advance 4) ∧
  ∀ (s : State) (a : Reg) (p : Bool) (r : R2), s.me.inFrame = true → s.me.holdFence = [] → fullAt s.me [.g a, .g r.a, .g r.d] →
    exec (.cutTo a p) s = .next (s.trap .loftFault (BitVec.ofNat 64 (0x1D * 2 ^ 32))) ∧
    exec (.claim r) s = .next (s.trap .loftFault (BitVec.ofNat 64 (0x1D * 2 ^ 32))) ∧
    exec .failBack s = .next (s.trap .loftFault (BitVec.ofNat 64 (0x1D * 2 ^ 32)))

/-! ## The network -/

namespace Sys2Proof.Claims
open Sys2Proof.Machine

/-- A request that writes or acts at its home (R283). -/
def isCounted (p : Packet) : Prop :=
  match p.op with
  | .ld .. | .ldb .. | .vldt .. | .topk .. | .value .. | .engRead .. => False
  | _ => True

/-- A packet whose words count as writes of its core: a Wr of R295, or a write of an engine (R308). -/
def isWrite (p : Packet) : Prop :=
  p.wr = true ∨ match p.op with
    | .engWrite .. | .copy .. | .amax .. => True
    | _ => False

def ofEngine (p : Packet) : Prop :=
  match p.op with
  | .engRead .. | .engWrite .. | .copy .. | .amax .. => True
  | _ => False

/-- A store, or an AST. -/
def plainStore (p : Packet) : Prop :=
  p.parts ≠ [] ∧ match p.op with
    | .st _ => True
    | .atom code .. => code = 0x1A ∨ code = 0x1B
    | _ => False

/-- A read that its core's own earlier stores take part in (R102). -/
def plainRead (p : Packet) : Prop :=
  match p.op with
  | .ld .. | .ldb .. | .vldt .. | .topk .. => True
  | _ => False

/-- An earlier packet `x` of its core that keeps packet `p` in its network interface, or from its own scratchpad. -/
inductive Behind (p x : Packet) : Prop
  /-- R281: one packet in flight to a word. -/
  | word (h : ∃ w ∈ p.words, w ∈ x.words) (out : p.own = false)
  /-- R248, R150: the words of the own scratchpad, in program order; an engine's words come before no access, and a read does not wait
  for a store that it sees (the model's choice, log entry 90). -/
  | own (h : ∃ w ∈ p.words, w ∈ x.words) (here : p.own = true) (late : x.unperformed = true ∧ x.since < p.since)
    (of : ¬ ofEngine x ∧ ¬ (plainRead p ∧ plainStore x))
  /-- R288: a packet that crosses fronds waits for the core's stores and atomics. -/
  | acked (h : p.cross = true) (late : x.inUsc = true ∨ x.wr = true ∧ x.unperformed = true)
  /-- R288: the assignment notice of a counted packet. -/
  | notice (h : p.own = false ∨ isCounted p) (late : x.cross = true ∧ isCounted x ∧ x.stamp = none ∧ x.unperformed = true)
  /-- R301: a write after one that crosses fronds. -/
  | written (h : isWrite p) (late : x.wr = true ∧ x.cross = true ∧ x.unperformed = true ∧ x.since < p.since)
  /-- R299: two reads of which one crosses fronds. -/
  | reads (h : p.rd = true ∧ x.rd = true) (late : p.cross = true ∨ x.cross = true)
  /-- R91: device memory, one access at a time. -/
  | device (h : p.device = true ∧ x.device = true)
  /-- R298: a write waits for the core's earlier reads. -/
  | read (h : isWrite p) (late : x.rd = true ∧ x.unperformed = true ∧ x.since < p.since)

/-- A packet of class 2 or 3 that finds no slot in a ring port (R279). -/
def needsSlot (s : State) : Evictor → Prop
  | .packet n => ∃ p, s.packet? n = some p ∧ p.own = false ∧ (p.stage = .reply ∨ p.stage = .error ∨ p.stage = .evicted ∨ p.stage = .nacked)
  | .channel k g => ∃ l x, s.launch? k = some l ∧ (g, x) ∈ l.groups ∧ x.queue ≠ []
  | .preempt k => ∃ l, s.launch? k = some l ∧ l.state = .preempting
  | .management => True

/-- A request of class 0, the data of the engines, or of class 1 (R279), that has been evicted fewer than four times (R280). -/
def mayGo (cls : Nat) (q : Packet) : Prop :=
  q.stage = .torus ∧ q.evictions < 4 ∧ (cls = 0 ↔ (∃ k ds, q.op = .copy k ds) ∨ (∃ e i t ws, q.op = .engRead e i t ws) ∨
    ∃ e i n t ws, q.op = .engWrite e i n t ws)

/-- The packets in the twelve slots of a ring port, in the order in which they came (R276). -/
structure InPort (s : State) (b : List Nat) (ps : List Packet) : Prop where
  found : b.map s.packet? = ps.map some
  fits : b.length ≤ 12 ∧ b.Nodup
  torus : ∀ q ∈ ps, q.own = false ∧ (q.stage = .torus ∨ q.stage = .reply ∨ q.stage = .error)

end Sys2Proof.Claims

/-- R281, R288, R298, R299, R301, R91, R280: a held write is released once the core's earlier reads are performed; a packet leaves its
interface once no earlier packet of its core keeps it there and the words in flight leave it room, and stays while one does, but for an
LD whose bytes a held-back store of its core holds, which is answered with them. A packet of class 2 or 3 that finds no slot in a port's
buffer evicts the newest request of class 0, or of class 1 where there is none, at most four times, which its sender sends again; that
the buffer's packets are an operand of the event, of any number up to twelve, is the model's choice (log entry 9, DEDUCED). These change
the packet's place and nothing else. Which words of the own scratchpad wait for one another is the model's choice too (log entry 90). -/
def Sys2Proof.Claims.PacketsWaitAndMove : Prop :=
  (∀ (s : State) (n : Nat) (p : Packet), s.packet? n = some p →
    let moved := fun (i : Instr) (p : Packet) => exec i s = .next { s with net := withPacket s p }
    let earlier := fun (x : Packet) => x ∈ s.net ∧ x.src = p.src ∧ x.id < p.id
    let alone := p.own = true ∨ p.words.length ≤ 64 ∧ ∀ x ∈ s.net, x.src = p.src → x.stage = .held ∨ x.stage = .ni ∨ x.own = true
    (p.stage = .held →
      ((∀ x, earlier x → x.rd = true → x.since < p.since → x.unperformed = false) →
        moved (.heldWriteRelease n) { p with stage := if s.mayLeave p then .torus else .ni }) ∧
      ((∃ x, earlier x ∧ x.rd = true ∧ x.since < p.since ∧ x.unperformed = true) → exec (.heldWriteRelease n) s = .next s)) ∧
    (p.stage = .ni →
      ((∀ x, earlier x → ¬ Behind p x) → alone → moved (.niPacketRelease n) { p with stage := .torus }) ∧
      ((∃ x, earlier x ∧ Behind p x) → (p.own = true ∨ ∀ d z b o, p.op ≠ .ld d z b o) → exec (.niPacketRelease n) s = .next s) ∧
      ∀ d z b o v w y, p.op = .ld d z b o → p.parts = [v] → p.got = [] → p.own = false → p.device = false → earlier y →
        y.stage = .held ∨ y.stage = .ni → (∃ l, y.op = .st l) → y.parts = [w] → y.got = [] → w.addr / 8 = v.addr / 8 →
        (∀ x, earlier x → (∃ a ∈ p.words, a ∈ x.words) → x = y) → (∀ i, 8 * o ≤ i → i < 8 * o + 8 * z → w.mask.getLsbD i = true) →
        ∃ g, moved (.niPacketRelease n) { p with stage := .reply, parts := [], got := [(v.addr / 8 * 8, g)] } ∧
          ∀ i, 8 * o ≤ i → i < 8 * o + 8 * z → g.getLsbD i = w.data.getLsbD i) ∧
    (p.stage = .evicted → moved (.nackResend n) { p with stage := .torus }) ∧
    (p.stage = .nacked → moved (.rhizomeResend n) { p with stage := .stamped })) ∧
  ∀ (s : State) (e : Evictor) (b : List Nat) (ps : List Packet), InPort s b ps →
    (needsSlot s e →
      (∀ before q after cls, ps = before ++ q :: after → mayGo cls q → (∀ x ∈ after, ¬ mayGo cls x) →
        cls = 0 ∨ cls = 1 ∧ (∀ x ∈ ps, ¬ mayGo 0 x) →
        exec (.packetEviction e b) s =
          .next { s with net := withPacket s { q with stage := .evicted, evictions := q.evictions + 1 } }) ∧
      ((∀ x ∈ ps, ¬ mayGo 0 x ∧ ¬ mayGo 1 x) → exec (.packetEviction e b) s = .next s)) ∧
    (¬ needsSlot s e → exec (.packetEviction e b) s = .next s)

/-- How packets wait, move, are evicted, and merge at routers. That the packets of the full buffer are an operand of an eviction, of any number up to twelve, is the model's choice (log entry 9, DEDUCED). -/
def Obligations.PacketsMoveAndMerge : Prop := RoutersMergeAtomics ∧ PacketsWaitAndMove

namespace Sys2Proof.Claims
open Sys2Proof.Machine

/-- A count (R282) compared by the sign of the difference. -/
def atMost (a b : BitVec 16) : Prop := 0 ≤ (b - a).toInt

/-- The packet has its stamp, and every dependency is met at its destination (R285): for each other frond `i`, a count `v` with the
low bits of its slot that lies in the window about the applied count, and is at most it, unless that frond has retired (R291). -/
def dependenciesMet (s : State) (d : Nat) (x : Stamp) : Prop :=
  ∀ i < 8, i ≠ x.src → i ≠ d → i ∈ s.retired ∨ ∃ v : BitVec 16, v.setWidth 10 = x.dep.getD (if i < x.src then i else i - 1) 0 ∧
    atMost v (s.count d d i) ∧ -512 < (v - s.count d d i).toInt

end Sys2Proof.Claims

/-- R282, R283, R284, R286, R287, R289: a packet that enters the port toward its home's frond takes its stamp: a counted one raises the
count and carries it as OWN, a read carries the latest, and of both the seven slots carry what the frond knows of the other counts, 0 in
the destination's. A counted one waits while its count would pass the window of 512, and a copy's until the count before its own has
been applied. At its destination a packet whose dependencies are not met takes a place in the early buffer, one of its source's 24 or
of the 64 shared, or, where it is counted, that of a read of its source or else of a counted packet of its source with a larger OWN,
the one with the largest OWN, which is NACKed; and the header of a copy takes one of the frond's 16 landing entries. Where none is left
the packet is NACKed. -/
def Sys2Proof.Claims.RhizomePortsStamp : Prop :=
  (∀ (s : State) (n : Nat) (p : Packet), s.packet? n = some p → p.stage = .torus → p.cross = true → p.dest < 8 → p.src / 144 < 8 →
    p.dest ∉ s.retired → p.src / 144 ∉ s.retired →
    let f := p.src / 144
    let last := s.count f p.dest f
    let acked : BitVec 16 := mapGet 0 s.acked (8 * f + p.dest)
    let enters := s.rebasing = false ∧ (last + 1 - acked).toNat ≤ 512 ∧ ((∃ k ds, p.op = .copy k ds) → acked = last)
    let slots := fun x : Stamp => x.dep.length = 7 ∧ ∀ i < 8, i ≠ f → x.dep.getD (if i < f then i else i - 1) 0 =
      if i = p.dest then 0 else (s.count f p.dest i).setWidth 10
    (isCounted p → enters → ∃ t x, exec (.rhizomeStamp n) s = .next t ∧
      t.net = withPacket s { p with stage := .stamped, stamp := some x } ∧ x.cnt = true ∧ x.src = f ∧ x.own = last + 1 ∧ slots x ∧
      (∀ a < 8, ∀ b < 8, ∀ c < 8, t.count a b c = if a = f ∧ b = p.dest ∧ c = f then last + 1 else s.count a b c) ∧ t.mem = s.mem ∧
      t.cores = s.cores) ∧
    (isCounted p → ¬ enters → exec (.rhizomeStamp n) s = .next s) ∧
    (¬ isCounted p → ∃ t x, exec (.rhizomeStamp n) s = .next t ∧ t.net = withPacket s { p with stage := .stamped, stamp := some x } ∧
      x.cnt = false ∧ x.src = f ∧ x.own = last ∧ slots x ∧ t.counts = s.counts ∧ t.mem = s.mem ∧ t.cores = s.cores)) ∧
  ∀ (s : State) (n : Nat) (p : Packet) (x : Stamp), s.packet? n = some p → p.stage = .stamped → p.stamp = some x →
    let arrives := fun q : Packet => exec (.rhizomeArrival n) s = .next { s with net := withPacket s q }
    let own := (s.buffered p.dest).countP fun q => q.stampSrc = x.src ∧ q.shared = false
    let shared := (s.buffered p.dest).countP fun q => q.shared = true
    (s.applicable p.dest x = false → own < 24 → arrives { p with stage := .early, shared := false }) ∧
    (s.applicable p.dest x = false → 24 ≤ own → shared < 64 → arrives { p with stage := .early, shared := true }) ∧
    (s.applicable p.dest x = false → 24 ≤ own → 64 ≤ shared → x.cnt = false → arrives { p with stage := .nacked }) ∧
    (s.applicable p.dest x = false → 24 ≤ own → 64 ≤ shared → x.cnt = true →
      let may := fun q => q ∈ s.buffered p.dest ∧ q.stampSrc = x.src ∧ (q.stampCnt = false ∨ q.stampOwn ≠ x.own ∧ atMost x.own q.stampOwn)
      ((∀ q, ¬ may q) → arrives { p with stage := .nacked }) ∧
      ((∃ q, may q) → (∃ k : BitVec 16, ∀ q, may q → (q.stampOwn - k).toNat < 2 ^ 15) → ∃ q, may q ∧
        (∀ y, may y → y.stampCnt = false → q.stampCnt = false) ∧ (∀ y, may y → y.stampCnt = q.stampCnt → atMost y.stampOwn q.stampOwn) ∧
        ∃ t, exec (.rhizomeArrival n) s = .next t ∧ t = { s with net := t.net } ∧
          t.net = s.net.map fun z => if z.id = n then { p with stage := .early, shared := q.shared }
            else if z.id = q.id then { q with stage := .nacked } else z)) ∧
    ∀ k ds, s.applicable p.dest x = true → s.appliesFirst p x = true → p.op = .copy k ds →
      arrives { p with stage := if (s.net.countP fun q => q.stage = .landing ∧ q.dest = p.dest) < 16 then .landing else .nacked }

/-- R285, R289, R290: an applicable packet whose turn it is, here one with a single masked write, is performed at its home: those bits of
memory and no others; the applied count of its source becomes its OWN, and the reply begins. A counted packet is applicable only
next after the applied count, with every dependency met. -/
def Sys2Proof.Claims.RhizomeAppliesInOrder : Prop :=
  (∀ (s : State) (n : Nat) (p : Packet) (x : Stamp) (w : Part) (b : Bool), s.packet? n = some p → p.stage = .stamped ∨ p.stage = .early →
    p.stamp = some x → x.cnt = true → s.applicable p.dest x = true → s.appliesFirst p x = true → p.op = .st b → p.parts = [w] →
    w.mask ≠ 0 → plainHome s w.addr → s.mem.wf = true → p.dest < 8 → x.src < 8 → (∀ e ∈ x.mat, e.1 < 64) →
    (∀ q ∈ s.net, q.stage ≠ .landing) →
    let a := w.addr / 8 * 8
    ∃ t back, exec (.rhizomeApply n) s = .next t ∧
      t.net = withPacket s { p with stage := .reply, parts := [], got := p.got ++ [(a, 0)], back := back } ∧
      t.count p.dest p.dest x.src = x.own ∧
      (∀ i < 64, (t.mem.readWord a).getLsbD i = if w.mask.getLsbD i then w.data.getLsbD i else (s.mem.readWord a).getLsbD i) ∧
      ∀ c, c < a ∨ a + 8 ≤ c → t.mem.read c = s.mem.read c) ∧
  (∀ (s : State) (d : Nat) (x : Stamp), x.cnt = true → s.rebasing = false → s.applicable d x = true →
    x.own = s.count d d x.src + 1 ∧ dependenciesMet s d x) ∧
  ∀ (s : State) (n : Nat) (p : Packet) (x : Stamp), s.packet? n = some p → p.stamp = some x → s.applicable p.dest x = false →
    exec (.rhizomeApply n) s = .next s

/-- The stamps of the Rhizome, and the order in which it applies packets. -/
def Obligations.RhizomeKeepsCausalOrder : Prop := RhizomePortsStamp ∧ RhizomeAppliesInOrder

namespace Sys2Proof.Claims
open Sys2Proof.Machine

/-- An inbound request of `len` bytes at an address of HBM4E that R423 admits: aligned, 8 to 256 bytes, within one 4 KiB page, every word
readable. -/
structure InboundOk (s : State) (a len : Nat) : Prop where
  size : len % 8 = 0 ∧ 8 ≤ len ∧ len ≤ 256
  place : a % 8 = 0 ∧ a / 4096 = (a + len - 1) / 4096 ∧ a < 2 ^ 40 ∧ s.stackReady (a / 2 ^ 36) = true
  words : ∀ w ∈ s.eccBad ++ s.eccOne, w < a ∨ a + len ≤ w

end Sys2Proof.Claims

/-- R422, R423, R304: a request that reaches a ready SVL port and names HBM4E is performed there and answered: a read with its bytes, a
write with every byte and none beside, an AADD.z64 with the old value; one that breaks R423's form gets an error completion.
A port's sixteenth retry in a row clears its readiness. What the host has accepted at a port becomes visible on every port with the
confirmation, which a core's writes get once none of them is on its way there. -/
def Obligations.SvlPortsServe : Prop :=
  (∀ (s : State) (port a : Nat), port < 144 → s.portReady port = true → s.mem.wf = true →
    (∀ q ∈ s.net, q.stage ≠ .landing) →
    let answered := fun (t : State) (e : Bool) (d : List Byte) => t.hostOut = s.hostOut ++ [⟨port, e, d⟩] ∧ t.cores = s.cores ∧
      t.net = s.net ∧ t.svlRetry = s.svlRetry.filter fun x => x.1 ≠ port
    (∀ len, InboundOk s a len → ∃ t, exec (.inboundSvlRequest ⟨port, a, .read len⟩) s = .next t ∧ t.mem = s.mem ∧
      answered t false ((List.range len).map fun i => s.mem.read (a + i))) ∧
    (∀ data : List Byte, InboundOk s a data.length → ∃ t, exec (.inboundSvlRequest ⟨port, a, .write data⟩) s = .next t ∧
      answered t false [] ∧ (∀ i < data.length, t.mem.read (a + i) = data.getD i 0) ∧
      ∀ c, c < a ∨ a + data.length ≤ c → t.mem.read c = s.mem.read c) ∧
    (∀ x y, InboundOk s a 8 → ∃ t, exec (.inboundSvlRequest ⟨port, a, .atom 0x01 x y⟩) s = .next t ∧
      answered t false ((List.range 8).map fun i => s.mem.read (a + i)) ∧ t.mem.readWord a = s.mem.readWord a + x ∧
      ∀ c, c < a ∨ a + 8 ≤ c → t.mem.read c = s.mem.read c) ∧
    (∀ len, a % 8 ≠ 0 ∨ len % 8 ≠ 0 ∨ len < 8 ∨ 256 < len → ∃ t, exec (.inboundSvlRequest ⟨port, a, .read len⟩) s = .next t ∧ t.mem = s.mem ∧
      answered t true [])) ∧
  (∀ (s : State) (port : Nat), port < 144 →
    let n := mapGet 0 s.svlRetry port + 1
    ∃ t, exec (.linkLevelRetry port) s = .next t ∧ mapGet 0 t.svlRetry port = n ∧ t.mem = s.mem ∧ t.cores = s.cores ∧
      ∀ f i, t.readyBit f i = (s.readyBit f i && !(decide (16 ≤ n) && f == port / 18 && i == 4 + port % 18))) ∧
  ∀ (s : State) (c : CoreNo) (port : Nat),
    let confirms := ∀ q ∈ s.net, q.src = c.val → isWrite q → q.unperformed = true → ∀ w ∈ q.parts, ∀ r, s.homeKind w.addr = .svl r →
      r.port ≠ port
    let goesOn := fun (t : State) => t.core c.val = { s.core c.val with svlPorts := (s.core c.val).svlPorts.filter (· ≠ port) }
    ((∀ x ∈ s.hostPending, x.port ≠ port) → confirms → exec (.svlVisibilityConfirm c port) s =
      .next (s.modCore c.val fun k => { k with svlPorts := k.svlPorts.filter (· ≠ port) })) ∧
    ((∀ x ∈ s.hostPending, x.port ≠ port) → ¬ confirms → exec (.svlVisibilityConfirm c port) s = .next s) ∧
    ∀ x, s.hostPending = [x] → x.port = port → x.key % 8 = 0 → s.mem.wf = true → ∃ t, exec (.svlVisibilityConfirm c port) s = .next t ∧
      t.hostPending = [] ∧ (confirms → goesOn t) ∧ (¬ confirms → t.cores = s.cores) ∧
      (∀ b < 64, (t.mem.readWord x.key).getLsbD b = if x.mask.getLsbD b then x.data.getLsbD b else (s.mem.readWord x.key).getLsbD b) ∧
      ∀ y, y < x.key ∨ x.key + 8 ≤ y → t.mem.read y = s.mem.read y

/-! ## Translation -/

namespace Sys2Proof.Claims
open Sys2Proof.Machine

/-- The index of a level of the page table (R90). -/
def indexAt (level : Nat) (va : Word) : Nat :=
  match level with
  | 0 => bits va 20 16
  | 1 => bits va 29 21
  | 2 => bits va 38 30
  | 3 => bits va 47 39
  | _ => bits va 55 48

/-- An entry whose fields are well formed (R91, R92). -/
abbrev entryForm (e : Word) : Prop :=
  e.getLsbD 0 = true ∧ bits e 63 52 = 0 ∧ bits e 11 8 = 0 ∧ e.getLsbD 5 = false ∧ bits e 7 6 < 2 ∧ (e.getLsbD 3 = true → e.getLsbD 2 = true)

/-- From a table of a level, entries lead to a leaf at level `at'` (R90, R92): a leaf maps 64 KiB, 2 MiB or 1 GiB, aligned to its size;
any other entry names the next table, in HBM4E. Every entry can be read. -/
def leadsTo (s : State) (va : Word) (at' : Nat) (leaf : Word) : Nat → Nat → Prop
  | 0, table => plainHome s (table + 8 * indexAt 0 va) ∧ at' = 0 ∧ leaf = s.mem.readWord (table + 8 * indexAt 0 va) ∧ entryForm leaf ∧
      leaf.getLsbD 1 = true ∧ bits leaf 51 12 * 2 ^ 12 % 2 ^ 16 = 0
  | n + 1, table =>
    let e := s.mem.readWord (table + 8 * indexAt (n + 1) va)
    plainHome s (table + 8 * indexAt (n + 1) va) ∧ entryForm e ∧
      if n + 1 = at' then e = leaf ∧ n + 1 ≤ 2 ∧ e.getLsbD 1 = true ∧ bits e 51 12 * 2 ^ 12 % 2 ^ (if n = 0 then 21 else 30) = 0
      else e.getLsbD 1 = false ∧ bits e 51 12 * 2 ^ 12 < 2 ^ 40 ∧ leadsTo s va at' leaf n (bits e 51 12 * 2 ^ 12)

/-- A miss that frond `f`'s walker works on, by its requester; a requester presents one miss at a time (R95). -/
structure Walked (s : State) (f : Nat) (m : Miss) (ms : List Miss) : Prop where
  queue : mapGet [] s.walks f = ms
  found : m ∈ ms ∧ m.walking = true ∧ m.core / 144 = f
  once : ∀ x ∈ ms, ∀ y ∈ ms, x.core = y.core → x.req = y.req → x = y
  root : m.root < 2 ^ 40 ∧ m.root % 8 = 0

/-- A miss that has joined the walk of another's page (R95). -/
def joins (m x : Miss) : Bool := x.walking && decide (x.asn = m.asn) && decide (x.va.toNat / 2 ^ 16 = m.va.toNat / 2 ^ 16)

/-- The walk of a miss has ended: every miss that had joined it is gone, no invalidation waits for it, the others keep their order,
and no more than 64 pages are walked. -/
structure WalkOver (s t : State) (f : Nat) (m : Miss) (ms : List Miss) : Prop where
  left : (mapGet [] t.walks f).map (fun x => { x with walking := false }) =
    (ms.filter fun x => !joins m x).map fun x => { x with walking := false }
  walks : t.inval.map (·.walks) =
    s.inval.map fun i => i.walks.filter fun x => !ms.any fun y => joins m y && decide (y.core = x.1) && decide (y.req = x.2)
  kept : t.mem = s.mem ∧ t.net = s.net ∧ t.loft = s.loft

end Sys2Proof.Claims

/-- R90, R91, R92, R93, R95: TRANSLATION_WALK walks the five levels of a page table for a miss and for every miss that has joined its
walk; the leaf that it reaches enters the micro-TLB of each one's core (log entry 6 says which entry makes room: the model's choice) and
the frond's shared TLB, and the misses are over. An invalid entry, or one malformed by its own bits (log entry 30, the model's choice), ends them in a fault, which
each waiting access takes. Stated where every entry of the walk can be read (log entry 19 says what an error response does: the model's
choice). No register changes. -/
def Sys2Proof.Claims.WalksFillTheTlbs : Prop :=
  ∀ (s : State) (c : CoreNo) (req : Fin 8) (m : Miss) (ms : List Miss), Walked s (c.val / 144) m ms → m.core = c.val → m.req = req.val →
    let f := c.val / 144
    (∀ level leaf, leadsTo s m.va level leaf 4 m.root →
      let e : TlbEntry := { asn := m.asn, level := level, vpage := m.va.toNat / 2 ^ pageBits level, leaf := leaf }
      ∃ t, exec (.translationWalk c req) s = .next t ∧ WalkOver s t f m ms ∧
        (∀ d, t.core d = { s.core d with
          tlb := (List.replicate (ms.countP fun x => joins m x && decide (x.core = d)) e ++ (s.core d).tlb).take
            (if ms.any (fun x => joins m x && decide (x.core = d)) then 64 else (s.core d).tlb.length) }) ∧
        ∀ g, mapGet [] t.tlbs g = if g = f then (e :: mapGet [] s.tlbs g).take 8192 else mapGet [] s.tlbs g) ∧
    let top := s.mem.readWord (m.root + 8 * bits m.va 55 48)
    let faults := fun (x : WalkEnd) => ∃ t, exec (.translationWalk c req) s = .next t ∧ WalkOver s t f m ms ∧ t.tlbs = s.tlbs ∧
      (∀ d, t.core d = { s.core d with ends := (t.core d).ends }) ∧
      ∀ y ∈ ms, joins m y = true → (t.core y.core).ends.find? (fun e => e.1 = y.req) = some (y.req, y.va, x)
    plainHome s (m.root + 8 * bits m.va 55 48) →
      (top.getLsbD 0 = false → faults .fault) ∧
      (top.getLsbD 0 = true → ¬ entryForm top ∨ top.getLsbD 1 = true → faults .violation)

/-- R96, R424: TLB_INVALIDATE with its zero fields 0 records the command, the latched address and the walks of the named fronds that it
waits for. TLB_INVALIDATE_COMPLETE, once those have ended, takes every entry of the address space (its SIZE 3), or every one that overlaps
the page, out of the TLBs of the named fronds, with the faults of walks that no access has taken there, and the completion count rises by
one. That overlap is what counts, whatever the entry's size, is the model's choice (log entry 35). -/
def Sys2Proof.Claims.InvalidationsClearTheTlbs : Prop :=
  (∀ (s : State) (v : Word), (bits v 63 24 = 0 → bits v 13 12 = 0 → ∃ t i, exec (.tlbInvalidate v) s = .next t ∧
      t.inval = s.inval ++ [i] ∧ i.cmd = v ∧ i.va = s.invalVa ∧ t.cores = s.cores ∧ t.tlbs = s.tlbs ∧
      ∀ c r, (c, r) ∈ i.walks ↔ ∃ f ms, (f, ms) ∈ s.walks ∧ v.getLsbD (16 + f) = true ∧
        ∃ m ∈ ms, m.walking = true ∧ m.core = c ∧ m.req = r) ∧
    (bits v 63 24 ≠ 0 ∨ bits v 13 12 ≠ 0 → exec (.tlbInvalidate v) s = .next s)) ∧
  ∀ (s : State) (i : Invalidation) (rest : List Invalidation), s.inval = i :: rest →
    (i.walks ≠ [] → exec .tlbInvalidateComplete s = .next s) ∧
    (i.walks = [] →
      let hit := fun (e : TlbEntry) => e.asn = bits i.cmd 11 0 ∧ (bits i.cmd 15 14 = 3 ∨
        let k := max (pageBits (bits i.cmd 15 14)) (pageBits e.level)
        i.va.toNat / 2 ^ k = e.vpage * 2 ^ pageBits e.level / 2 ^ k)
      ∃ t, exec .tlbInvalidateComplete s = .next t ∧ t.inval = rest ∧ t.invalDone = s.invalDone + 1 ∧ t.mem = s.mem ∧
        (∀ c, t.core c = { s.core c with
          tlb := (t.core c).tlb, ends := if i.cmd.getLsbD (16 + c / 144) then [] else (s.core c).ends }) ∧
        (∀ c e, e ∈ (t.core c).tlb ↔ e ∈ (s.core c).tlb ∧ ¬ (i.cmd.getLsbD (16 + c / 144) = true ∧ hit e)) ∧
        ∀ f e, e ∈ mapGet [] t.tlbs f ↔ e ∈ mapGet [] s.tlbs f ∧ ¬ (i.cmd.getLsbD (16 + f) = true ∧ hit e))

/-- Page walks, and TLB invalidations. -/
def Obligations.TranslationsComeAndGo : Prop := WalksFillTheTlbs ∧ InvalidationsClearTheTlbs

/-! ## Boundaries and service -/

namespace Sys2Proof.Claims
open Sys2Proof.Machine

/-- The address at which a stopped core issues again (R271, R404): past an instruction that waits for a chain which it has begun, and is not
issued again: a FORCE, a push of a CALL frame, or a GLEAN whose spark the force unit holds. Any other core issues at its PC. -/
def resumesAt (k : Core) : Word :=
  if k.inFrame then
    if k.force.goal = .none ∧ (k.force.stack.head?.map (·.phase)) = some .frame then k.pc else k.pc + 4
  else
    match k.force.root with
    | some (.force _) => k.pc + 4
    | some (.spark _ _) => if k.glean = none then k.pc else k.pc + 4
    | _ => k.pc

/-- A copy that a stop has left unperformed is performed from the start (R162, R396). -/
def restarted : CopyItem → CopyItem
  | .copy o r => .copy o { r with faulted := false }
  | .join m => .join m

/-- The loft entries with a context out of every waiter list of its launch's cores (R272). -/
def waitsLeft (l : Launch) (ctx : Nat) (loft : SMap LoftEntry) : SMap LoftEntry :=
  loft.map fun e =>
    let part := 3 * (e.1 / 4096 / 144) + e.1 / 4096 % 144 / 12 / 4
    if l.parts.testBit part then (e.1, { e.2 with waiters := e.2.waiters.filter (· ≠ ctx) }) else e

/-- A wait on a tile is made again (R272, R396). -/
def askedAgain : Goal → Goal
  | .asleep c n w r => .ask c n w r
  | .woken c n w r _ => .ask c n w r
  | g => g

end Sys2Proof.Claims

/-- R392, R398, R407, R408, R394, R385: at an instruction boundary of a core outside gangs and chains, the pending cause of lowest rank is
taken as R391 says, but none while a CUT that has begun has increments left to send. At a core's turn with none pending, the next
instruction's precise causes come before a halt, and a halt before a pre-emption; either stops the core with its cause, `tval` and the
address at which it issues again in the trap CSRs (log entry 26, the model's reading of how these are met). A halted core that has drained
posts its record and waits for service. -/
def Obligations.BoundariesTakeOneCause : Prop :=
  (∀ (s : State) (c : CoreNo), s.cur = c.val → plain s.me → s.me.run = .running → (∀ l, s.launchOf s.cur = some l → l.state ≠ .ending) →
    (∀ d n, s.me.force.root ≠ some (.spark d n)) →
    ((∃ a, s.me.midway = some (.cut a)) → exec (.takeBoundaryTrap c) s = .next s) ∧
    ((∀ a, s.me.midway ≠ some (.cut a)) →
    let clear := s.modMe fun k => { k with pending := [] }
    (∀ (x : Cause) (p : Pending), s.me.pending = [p] → p.cause = x.code → x ≠ .translationFault → p.tpc = none →
      (∀ d, (s.core d).run ≠ .parked) →
      ∃ t, exec (.takeBoundaryTrap c) s = .next t ∧ TookFatal clear t (BitVec.ofNat 8 x.code) p.tval) ∧
    (∀ p q : Pending, s.me.pending = [p, q] → q.rank < p.rank → p.cause ≠ 0x08 → q.cause ≠ 0x08 →
      ∃ t, exec (.takeBoundaryTrap c) s = .next t ∧ t.me.tcause = BitVec.ofNat 8 q.cause ∧ t.me.tval = q.tval ∧
        t.me.run = .faulted ∧ t.me.pending = []) ∧
    (s.me.pending = [] → exec (.takeBoundaryTrap c) s = .next s))) ∧
  (∀ (s : State) (c : Nat) (r : List Turn), s.agenda = .issue c :: r → plain (s.core c) → (s.core c).run = .running →
    (s.core c).pending = [] → (s.core c).force.absorbing = false → (s.core c).midway = none → (s.core c).glean = none →
    (∀ l, s.launchOf c = some l → l.state ≠ .ending) →
    let u : State := { s with agenda := r, cur := c }
    let stopped := fun (st : RunState) (cause : Byte) (tv : Word) (halt : Bool) => u.modMe fun k =>
      { k with tcause := cause, tval := tv, tpc := BitVec.ofNat 64 ((resumesAt k).toNat % 2 ^ 56), run := st, stall := false,
               haltReq := halt, preemptReq := halt && k.preemptReq }
    let precise := ∃ t, u.issueStream exec = .next t ∧ (t.core c).run ≠ .running ∧ (t.core c).run ≠ .ended
    let clean := ∃ t, u.issueStream exec = .next t ∧ ((t.core c).run = .running ∨ (t.core c).run = .ended)
    (precise ∨ (s.core c).haltReq = false ∧ (s.core c).preemptReq = false → step s = u.issueStream exec) ∧
    (clean → (s.core c).haltReq = true → step s = .next (stopped .halted 0x11 2 true)) ∧
    (clean → (s.core c).haltReq = false → (s.core c).preemptReq = true → step s = .next (stopped .preempted 0x10 0 false))) ∧
  ∀ (s : State) (c : CoreNo) (l : Launch), (s.core c.val).run = .halted → (s.core c.val).haltReq = true → s.drained c.val = true →
    s.launchOf c.val = some l → (s.core c.val).glean = none →
    ∃ t, exec (.takeBoundaryTrap c) s = .next t ∧ (t.core c.val).haltReq = false ∧ (t.core c.val).run = .halted ∧
      (t.core c.val).g = (s.core c.val).g ∧ (t.core c.val).pc = (s.core c.val).pc ∧
      ∀ f, mapGet FaultRing.reset t.rings f = if f = c.val / 144
        then ringWith (mapGet FaultRing.reset s.rings f) (recordFor s c.val 0x11 (s.core c.val).tval (s.core c.val).tpc)
        else mapGet FaultRing.reset s.rings f

/-- R393, R394, R395, R396, R401, R408: RESUME lets a parked core whose record has not been withdrawn, and waits for no room, issue again
with its copies performed from the start and its wait on a tile made again; a halted core that has posted its record issues again too, with
the registers that its block holds. Either stops again for a pre-emption of its launch. ABORT ends a parked core's launch with STATUS 0x01
and cause 0x08; that it has no effect at a halted core is the model's choice (log entry 89). HALT attaches a debugger and asks a core that
runs, is parked or has stopped for a pre-emption to halt. A record marked read leaves room for the records that wait. -/
def Obligations.ServiceActsOnACore : Prop :=
  (∀ (s : State) (c : CoreNo) (l : Launch), s.launchOf c.val = some l → (s.core c.val).run = .parked →
    ((s.core c.val).withdrawn = false →
      (∀ r ∈ (mapGet FaultRing.reset s.rings (c.val / 144)).waiting, r.coord ≠ c.val / 144 * 256 + c.val % 144 / 12 * 16 + c.val % 12) →
      exec (.serviceResume c) s = .next ({ s with loft := waitsLeft l (s.core c.val).ctx s.loft }.modCore c.val fun (k : Core) =>
        { k with run := .running, queues := k.queues.map (List.map restarted),
                 force := { k.force with goal := askedAgain k.force.goal },
                 preemptReq := k.preemptReq || l.state == LaunchState.preempting })) ∧
    ((s.core c.val).withdrawn = true → exec (.serviceResume c) s = .next s ∧ exec (.serviceAbort c) s = .next s) ∧
    ((s.core c.val).withdrawn = false → (s.core c.val).launch = some l.key → l.state ≠ .ending →
      ∃ t, exec (.serviceAbort c) s = .next t ∧ (t.core c.val).run = .faulted ∧ t.mem = s.mem ∧
        t.launch? l.key = some { l with
          state := .ending, status := 1, note := some ⟨c.val / 144 * 256 + c.val % 144 / 12 * 16 + c.val % 12, 0x08, (s.core c.val).tval, (s.core c.val).tpc⟩ })) ∧
  (∀ (s : State) (c : CoreNo) (l : Launch), s.launchOf c.val = some l → (s.core c.val).run = .halted →
    exec (.serviceAbort c) s = .next s ∧
    ((s.core c.val).haltReq = true → exec (.serviceResume c) s = .next s) ∧
    ((s.core c.val).haltReq = false →
      (∀ r ∈ (mapGet FaultRing.reset s.rings (c.val / 144)).waiting, r.coord ≠ c.val / 144 * 256 + c.val % 144 / 12 * 16 + c.val % 12) →
      l.ctxBase % 8 = 0 → (∀ i < 66, plainHome s (l.ctxBase + (s.core c.val).ctx * 2 ^ 21 + 0x40 + 8 * i)) →
      let saved := fun i => s.mem.readWord (l.ctxBase + (s.core c.val).ctx * 2 ^ 21 + 0x40 + 8 * i)
      ∃ t, exec (.serviceResume c) s = .next t ∧ (t.core c.val).run = .running ∧ (t.core c.val).pc = (s.core c.val).pc ∧
        (∀ r : Reg, (t.core c.val).gr r = if r = 0 then 0 else saved r.val) ∧ (t.core c.val).gfull = saved 64 ||| 1 ∧
        (t.core c.val).vfull = saved 65 ∧ (t.core c.val).preemptReq = (l.state == .preempting) ∧
        (t.core c.val).queues = (s.core c.val).queues.map (fun q => q.map restarted) ∧
        (t.core c.val).force = { (s.core c.val).force with goal := askedAgain (s.core c.val).force.goal } ∧ t.mem = s.mem ∧
        ∀ d, d ≠ c.val → t.core d = s.core d)) ∧
  (∀ (s : State) (c : CoreNo) (l : Launch), s.launchOf c.val = some l →
    exec (.serviceHalt c) s = .next (s.modCore c.val fun k => { k with
      debugger := true, haltReq := k.haltReq || decide (k.run = .running ∨ k.run = .parked ∨ k.run = .preempted) })) ∧
  (∀ (s : State) (f : Frond) (v : Word32), (mapGet FaultRing.reset s.rings f.val).waiting = [] →
    let ring := mapGet FaultRing.reset s.rings f.val
    exec (.faultRingRead f v) s = .next { s with rings := mapSet s.rings f.val { ring with unread := ring.unread.filter (· ≠ v.toNat) } }) ∧
  ∀ (s : State) (f : Frond) (v : Word32) (r : FaultRecord), (mapGet FaultRing.reset s.rings f.val).waiting = [r] →
    (∀ n ∈ (mapGet FaultRing.reset s.rings f.val).unread, n ≠ v.toNat → n % 256 ≠ (mapGet FaultRing.reset s.rings f.val).count.toNat % 256) →
    ∃ t x, exec (.faultRingRead f v) s = .next t ∧ mapGet FaultRing.reset t.rings f.val = x ∧ x.waiting = [] ∧
      x.count = (mapGet FaultRing.reset s.rings f.val).count + 1 ∧ t.cores = s.cores ∧
      ∀ i, mapGet r x.entries i = if i = (mapGet FaultRing.reset s.rings f.val).count.toNat % 256 then r
        else mapGet r (mapGet FaultRing.reset s.rings f.val).entries i

/-! ## Launches -/

namespace Sys2Proof.Claims
open Sys2Proof.Machine

/-- Nothing but the launches at hand may be selected: no queue, no parked launch, no substitution waits, and no completion record is on
its way to the control region. -/
abbrev nothingWaits (s : State) : Prop := s.queues = [] ∧ s.resumeList = [] ∧ s.subst.state ≠ 1 ∧ s.records = []

/-- One queue, whose ring has become not empty by one descriptor that passes the checks of R351, in a package that runs nothing. -/
structure OneRequest (s : State) (q : Nat) (w : WorkQueue) (r : Request) (variant : Nat) : Prop where
  only : s.queues = [(q, w)] ∧ s.launches = [] ∧ s.resumeList = [] ∧ s.served = [] ∧ s.records = []
  ring : 1 ≤ w.log2n.toNat ∧ w.log2n.toNat ≤ 16 ∧ w.head = w.tail ∧ w.chosen = none
  request : r = s.headRequest { w with tail := w.head + 1 } ∧
    s.checkRequest { w with tail := w.head + 1 } r = .inr variant
  ready : s.partsReady r.parts = true
  ungrouped : s.groupsOf r = []
  arena : r.arenaSz = 0
  deficit : r.cores.length ≤ min (w.deficit + (if w.quantum = 0 then 1 else w.quantum.toNat)) 2304

end Sys2Proof.Claims

/-- R348, R353, R355, R356, R174, R354, R362: a doorbell value that would overfill its ring is ignored. One that publishes a descriptor
which passes its checks, in a package that runs nothing, dispatches it: HEAD passes it, its launch holds the partitions, and every core
of its set starts at the entry address with the registers of R174, zero weights and its context index. No core outside the set changes. -/
def Obligations.DoorbellsDispatch : Prop :=
  (∀ (s : State) (q : Nat) (v : Word32), q < 65536 →
    let w := mapGet WorkQueue.reset s.queues q
    (if w.log2n = 0 ∨ 16 < w.log2n.toNat then 0 else 2 ^ w.log2n.toNat) < (v - w.head).toNat →
    exec (.doorbell q v) s = .next s) ∧
  ∀ (s : State) (q : Nat) (w : WorkQueue) (r : Request) (variant : Nat), q < 65536 → OneRequest s q w r variant →
    ∃ t l, exec (.doorbell q (w.tail + 1)) s = .next t ∧ t.launches = [l] ∧ l.key = s.nextId ∧ l.state = .running ∧
      l.parts = bits (wordAt r.d 0) 23 0 ∧ l.cores = r.cores ∧ l.launchid.toNat = bits (wordAt r.d 0) 63 32 ∧ l.variant = variant ∧
      (mapGet WorkQueue.reset t.queues q).head = w.head + 1 ∧ (mapGet WorkQueue.reset t.queues q).tail = w.tail + 1 ∧
      (mapGet WorkQueue.reset t.queues q).deficit = 0 ∧
      (∀ c, c ∉ r.cores → t.core c = s.core c) ∧
      ∀ c ∈ r.cores, (∀ i < 2 ^ 17, t.mem.read (weightAddr c i) = 0) ∧
        t.core c = { Core.reset with
          run := .running, launch := some s.nextId, ctx := r.cores.findIdx (· == c), pc := r.entry variant,
          lstat := BitVec.ofNat 64 (bits (wordAt r.d 10) 55 0), srkey := wordAt r.d 11,
          lfsr := BitVec.ofNat 16 (2 ^ 15 + (c / 144 * 256 + c % 144 / 12 * 16 + c % 12)), tlb := (s.core c).tlb }

namespace Sys2Proof.Claims
open Sys2Proof.Machine

/-- The contexts of a launch lie apart in HBM4E, each core runs its own, the cores are cores of the package, and their banks have no
uncorrectable error. -/
structure ContextsApart (s : State) (l : Launch) : Prop where
  listed : s.launch? l.key = some l ∧ l.cores.Nodup
  area : l.ctxBase % 8 = 0 ∧ l.ctxBase + l.cores.length * 2 ^ 21 ≤ 2 ^ 40 ∧
    ∀ a, l.ctxBase ≤ a → a < l.ctxBase + l.cores.length * 2 ^ 21 → plainHome s a
  cores : ∀ i (h : i < l.cores.length), l.cores[i] < 1152 ∧ (l.state ≠ .resuming →
    (s.core l.cores[i]).ctx = i ∧ (s.core l.cores[i]).launch = some l.key)
  banks : ∀ c ∈ l.cores, ∀ x < 2 ^ 19, scratchAddr c x ∉ s.eccBad

end Sys2Proof.Claims

/-- R398, R399, R403, R404, R133, R272: a pre-empted launch whose contexts have drained parks: each context's block in the context area
receives the header with the address at which it issues again, g0 to g63 and the full bits, `tcause` PREEMPT and the scratchpad; the cores' SUSPENDED and
BLACKHOLE tiles are freed, the cores are idle, and the launch joins the resume list or is resumed at once where it may be. -/
def Sys2Proof.Claims.LaunchesPark : Prop :=
  ∀ (s : State) (l : Launch), ContextsApart s l → nothingWaits s → s.mem.wf = true → l.state = .preempting → l.reloc = false →
    (∀ c ∈ l.cores, (s.core c).run = .preempted ∧ s.drained c = true ∧ (s.core c).glean = none) → l.cores ≠ [] →
    (∀ c ∈ l.cores, c / 144 ∉ s.retired) → (∀ e ∈ s.wear, e.2.wear ≠ 255) →
    ∃ t m, exec (.launchPark l.key) s = .next t ∧ t.launch? l.key = some m ∧ (m.state = .parked ∧ t.resumeList = [l.key] ∨ m.state = .resuming) ∧
      (∀ c ∈ l.cores, t.core c = { Core.reset with tlb := (s.core c).tlb } ∧
        ∀ n < 4096, (s.entry c n).state = .suspended ∨ (s.entry c n).state = .blackhole → (t.entry c n).state = .free) ∧
      ∀ i (h : i < l.cores.length),
        let k := s.core l.cores[i]
        let b := l.ctxBase + i * 2 ^ 21
        t.mem.readWord b = BitVec.ofNat 64 (2 ^ 12 + k.gidx.toNat) ∧ t.mem.readWord (b + 8) = BitVec.ofNat 64 ((resumesAt k).toNat % 2 ^ 56) ∧
        (∀ r : Reg, t.mem.readWord (b + 0x40 + 8 * r.val) = k.gr r) ∧ t.mem.readWord (b + 0x240) = k.gfull ||| 1 ∧
        t.mem.readWord (b + 0x2E0) = 0x10 ∧
        ∀ x < 2 ^ 19, t.mem.read (b + 0x80000 + x) = s.mem.read (scratchAddr l.cores[i] x)

/-- R398, R405, R357: LAUNCH_RESUME loads every context of its launch: the registers and the scratchpad as the context's block holds them, at
the saved address; its cores issue again. -/
def Sys2Proof.Claims.LaunchesResume : Prop :=
  ∀ (s : State) (l : Launch), ContextsApart s l → nothingWaits s → s.mem.wf = true → l.state = .resuming →
    (∀ i < l.cores.length, ∃ k, l.saved.find? (fun e => e.1 = i) = some (i, k)) →
    ∃ t, exec (.launchResume l.key) s = .next t ∧
      t.launch? l.key = some { l with state := .running, saved := [], savedLoft := [], phys := [] } ∧
      ∀ i (h : i < l.cores.length) k, l.saved.find? (fun e => e.1 = i) = some (i, k) →
        let b := l.ctxBase + i * 2 ^ 21
        let u := t.core l.cores[i]
        u.run = (if k.run = .ended ∨ k.run = .halted then k.run else .running) ∧ u.pc = k.pc ∧
        (∀ r : Reg, u.gr r = if r = 0 then 0 else s.mem.readWord (b + 0x40 + 8 * r.val)) ∧ u.gfull = s.mem.readWord (b + 0x240) ||| 1 ∧
        u.vfull = s.mem.readWord (b + 0x248) ∧
        ∀ x < 2 ^ 19, t.mem.read (scratchAddr l.cores[i] x) = s.mem.read (b + 0x80000 + x)

/-- The parking of a pre-empted launch, and its resumption. -/
def Obligations.LaunchesStopAndGoOn : Prop := LaunchesPark ∧ LaunchesResume

/-- R353, R352, R318, R133: LAUNCH_END of a launch whose every context has performed END and drained writes the completion record with
STATUS 0x00, words 1 to 3 before word 0, frees the demanded tiles and the partitions, and takes the launch away; while a context has not
ended, or has not drained, it does nothing. -/
def Obligations.LaunchesEnd : Prop :=
  ∀ (s : State) (l : Launch), ContextsApart s l → nothingWaits s → s.mem.wf = true → l.state = .running →
    ((∃ c ∈ l.cores, (s.core c).run ≠ .ended ∨ s.drained c = false) → exec (.launchEnd l.key) s = .next s) ∧
    ((∀ c ∈ l.cores, (s.core c).run = .ended ∧ s.drained c = true) → l.status = 0 → l.note = none → l.compl % 32 = 0 →
      l.compl < 2 ^ 40 → (∀ i < 4, plainHome s (l.compl + 8 * i)) →
      ∃ t, exec (.launchEnd l.key) s = .next t ∧ t.launch? l.key = none ∧
        (∀ c ∈ l.cores, (t.core c).run = .idle ∧ (t.core c).launch = none ∧ (t.core c).sparks = [] ∧ (t.core c).deque = []) ∧
        (∀ c, c ∉ l.cores → t.core c = s.core c) ∧
        (∀ c n, n < 4096 → t.entry c n = if c ∈ l.cores ∧ ((s.entry c n).state = .suspended ∨ (s.entry c n).state = .blackhole) then
            { s.entry c n with state := .free, gen := (s.entry c n).gen + 1, stook := none, owner := 0, ownerDepth := 0, waiters := [] }
          else s.entry c n) ∧
        t.mem.readWord l.compl = BitVec.ofNat 64 (l.launchid.toNat * 2 ^ 32 + 2 ^ 7 + l.variant % 2 ^ 4) ∧
        (∀ i, 1 ≤ i → i ≤ 3 → t.mem.readWord (l.compl + 8 * i) = 0) ∧
        ∀ x, x < l.compl ∨ l.compl + 32 ≤ x → t.mem.read x = s.mem.read x)

/-! ## Management of the package -/

/-- R7, R347, R422, R424, R428: a write of a plain word of the device control region sets its RW fields and no other: the address of an
invalidation, the nonce, a queue's RINGBASE and LOG2N while its ring is empty, its QUANTUM and PARTMASK, and the entries of the
SVL map. A word whose fields are all RO keeps them; the two command words below 0x300_0000 are write-only and are not among these. -/
def Sys2Proof.Claims.RegisterWritesSetTheirFields : Prop :=
  ∀ (s : State) (v : Word),
    exec (.registerWrite 0x30000 v) s = .next { s with invalVa := v } ∧
    (∀ i < 4, s.attest.nonce.length = 4 → ∃ t, exec (.registerWrite (0x100000 + 8 * i) v) s = .next t ∧
      t.ctrlRead (0x100000 + 8 * i) = some v ∧ (∀ j < 4, j ≠ i → t.ctrlRead (0x100000 + 8 * j) = s.ctrlRead (0x100000 + 8 * j)) ∧
      t.attest.status = s.attest.status ∧ t.cores = s.cores ∧ t.mem = s.mem) ∧
    (∀ q < 65536,
      let w := mapGet WorkQueue.reset s.queues q
      let became := fun (i : Nat) (w' : WorkQueue) => ∃ t, exec (.registerWrite (0x2000000 + 32 * q + 8 * i) v) s = .next t ∧
        (∀ p, mapGet WorkQueue.reset t.queues p = if p = q then w' else mapGet WorkQueue.reset s.queues p) ∧ t.cores = s.cores ∧
        t.mem = s.mem ∧ t.launches = s.launches
      (w.head = w.tail → became 0 { w with ringBase := BitVec.ofNat 44 (bits v 51 8), log2n := BitVec.ofNat 5 (bits v 4 0) }) ∧
      (w.head ≠ w.tail → became 0 w) ∧ became 1 w ∧ became 2 { w with quantum := BitVec.ofNat 11 (bits v 10 0) } ∧
      became 3 { w with partMask := BitVec.ofNat 24 (bits v 23 0) }) ∧
    (∀ w < 256, ∃ t u, exec (.registerWrite (0x5000000 + 16 * w) v) s = .next t ∧ exec (.registerWrite (0x5000008 + 16 * w) v) s = .next u ∧
      (∀ n < 512, t.ctrlRead (0x5000000 + 8 * n) = if n = 2 * w then some (v &&& 0xC00FFFF00FFFFFFF) else s.ctrlRead (0x5000000 + 8 * n)) ∧
      (∀ n < 512, u.ctrlRead (0x5000000 + 8 * n) = if n = 2 * w + 1 then some v else s.ctrlRead (0x5000000 + 8 * n)) ∧
      t.cores = s.cores ∧ t.mem = s.mem ∧ u.cores = s.cores ∧ u.mem = s.mem) ∧
    ∀ off, off / 8 * 8 ≠ 0x21000 → off / 8 * 8 ≠ 0x100020 → off < 0x30000 ∨ 0x100020 ≤ off ∧ off < 0x1000000 ∨ 0x3000000 ≤ off ∧ off < 0x3010040 → exec (.registerWrite off v) s = .next s

/-- R9, R73, R347, R394, R416, R418, R419, R420: after DEVICE_RESET every core, loft entry, queue, ring, readiness word, wear record and
position is as at reset, nothing runs and nothing is in flight. That memory keeps its bytes, and the fuses and images what they hold, is the
model's choice (log entries 5 and 65). -/
def Sys2Proof.Claims.DeviceResetResets : Prop :=
  ∀ s : State, ∃ t, exec .deviceReset s = .next t ∧ t.launches = [] ∧ t.net = [] ∧ t.mem = s.mem ∧ t.subst = ⟨0, 0, 0⟩ ∧ t.inval = [] ∧
    t.invalDone = 0 ∧ (t.eccBad = s.eccBad ∧ t.eccOne = s.eccOne ∧ t.poison = s.poison ∧ t.hostPending = s.hostPending) ∧
    (t.fuses = s.fuses ∧ t.images = s.images) ∧
    ∀ n, mapGet [] t.walks n = [] ∧ t.core n = Core.reset ∧ (∀ i, t.entry n i = LoftEntry.reset) ∧ mapGet WorkQueue.reset t.queues n = WorkQueue.reset ∧
      mapGet FaultRing.reset t.rings n = FaultRing.reset ∧ mapGet 0 t.ready n = 0 ∧ mapGet 0 t.cxl n = 0 ∧ t.wearOf n = Wear.reset ∧
      t.defectByte n = BitVec.ofNat 8 (n % 144) ∧ mapGet 0 t.counts n = 0 ∧ mapGet [] t.tlbs n = [] ∧ mapGet 0 t.svlMap n = 0

namespace Sys2Proof.Claims
open Sys2Proof.Machine

/-- A word with one bit given. -/
def bitGiven (w w' : Word) (i : Nat) (b : Bool) : Prop := ∀ n < 64, w'.getLsbD n = if n = i then b else w.getLsbD n

/-- What retirement of frond `q` does to a packet in flight (R291): the reason for which it is discarded, none where it stays. -/
def tossed (s : State) (q : Nat) (p : Packet) : Option Nat :=
  if p.cross = false ∨ p.stage = .reply ∨ p.stage = .error then none
  else if p.dest = q then some 2
  else if p.src / 144 = q then some 1
  else match p.stamp with
    | none => none
    | some x => if s.depMet x p.dest q then none else some 1

/-- R291, R292, R420: a frond leaves service. Its readiness bits clear, the rebase begins, and the packets that R291 names are discarded,
each pending as RHIZOME_DISCARD at its core while that runs a launch. -/
structure Retired (s t : State) (q : Nat) : Prop where
  ready : ∀ f, mapGet 0 t.ready f = if f = q then 0 else mapGet 0 s.ready f
  state : q ∈ t.retired ∧ t.rebasing = true ∧ t.mem = s.mem ∧ t.launches = s.launches
  net   : ∀ p, p ∈ t.net ↔ p ∈ s.net ∧ tossed s q p = none
  core  : ∀ c, (t.core c).pending = (s.core c).pending ++ if (s.core c).launch = none then []
    else (s.net.filter (·.src = c)).filterMap fun p => (tossed s q p).map fun r =>
      ⟨1, 0x12, BitVec.ofNat 64 (r * 2 ^ 8 + p.dest * 2 ^ 4 + q), none, p.id⟩
  counts : ∀ a < 8, ∀ b < 8, ∀ c < 8, t.count a b c = if a = q ∨ b = q ∨ c = q then 0 else s.count a b c
  regs  : ∀ c, (t.core c).g = (s.core c).g ∧ (t.core c).pc = (s.core c).pc ∧ (t.core c).run = (s.core c).run

end Sys2Proof.Claims

/-- R416, R417, R426, R431, R291: FUNCTION_READY sets one bit of a frond's readiness word: the controller of F0 comes first, then that of its frond,
each with an image that the fuses accept, and the CXL bit with its decode word, a multiple of 256 MiB; nothing else changes. FUNCTION_FAIL clears a bit; that of a Rhizome link
clears at both its ends and retires its frond of the higher number. -/
def Sys2Proof.Claims.FunctionsComeAndGo : Prop :=
  ∀ (s : State) (f : Frond) (b : Fin 64),
    let w := fun (t : State) (f : Nat) => mapGet 0 t.ready f
    let image := mapGet Image.reset s.images f.val
    let accepted := image.digest = s.fuses.digest ∧ image.signed = true ∧ s.fuses.version ≤ image.version
    (∀ v : Word, b.val < 32 → f.val ∉ s.retired → (b = 0 → accepted ∧ (f = 0 ∨ (w s 0).getLsbD 0 = true)) → (b ≠ 0 → (w s f).getLsbD 0 = true) →
      (b.val = 3 → (w s f).getLsbD 3 = false ∧ v.toNat % 2 ^ 28 = 0 ∧ v.toNat ≤ 2 ^ 44) →
      ∃ t, exec (.functionReady f b v) s = .next t ∧ bitGiven (w s f) (w t f) b true ∧ (∀ g, g ≠ f.val → w t g = w s g) ∧
        (∀ g, mapGet 0 t.cxl g = if b.val = 3 ∧ g = f.val then v else mapGet 0 s.cxl g) ∧ t.cores = s.cores ∧ t.mem = s.mem ∧
        t.launches = s.launches ∧ t.net = s.net) ∧
    (∀ v : Word, (b = 0 → ¬ accepted ∨ f ≠ 0 ∧ (w s 0).getLsbD 0 = false) → (b ≠ 0 → (w s f).getLsbD 0 = false) →
      exec (.functionReady f b v) s = .next s) ∧
    (b.val < 22 ∨ 29 ≤ b.val → ∃ t, exec (.functionFail f b) s = .next t ∧ bitGiven (w s f) (w t f) b false ∧
      (∀ g, g ≠ f.val → w t g = w s g) ∧ t.cores = s.cores ∧ t.mem = s.mem ∧ t.launches = s.launches ∧ t.net = s.net) ∧
    (22 ≤ b.val ∧ b.val < 29 → (s.net.map (·.id)).Nodup →
      let j := if b.val - 22 < f.val then b.val - 22 else b.val - 21
      ∃ t u, exec (.functionFail f b) s = .next t ∧ bitGiven (w s f) (w u f) b false ∧
        bitGiven (w s j) (w u j) (22 + if f.val < j then f.val else f.val - 1) false ∧ (∀ g, g ≠ f.val → g ≠ j → w u g = w s g) ∧
        u = { s with ready := u.ready } ∧ Retired u t (max f.val j))

namespace Sys2Proof.Claims
open Sys2Proof.Machine

/-- The position that a substitution command names (R420, R104): [10:8] frond, [7:4] y, [3:0] x. -/
def posOf (v : Word) : Nat := 144 * bits v 10 8 + 12 * bits v 7 4 + bits v 3 0

/-- A launch holds the partition of a core (R420); a parked one holds none (log entry 32). -/
def heldNow (s : State) (c : Nat) : Prop := ∃ l ∈ s.launches, l.state ≠ .parked ∧ l.parts.testBit (3 * (c / 144) + c % 144 / 12 / 4) = true

/-- Physical core `k` of frond `f` serves a position. -/
def serves (s : State) (f k : Nat) : Prop := ∃ i < 144, (s.defectByte (144 * f + i)).toNat = k

/-- R420: fallow core `k` now serves position `c`: a core at reset, with a FREE loft at generation 0 and zeroed banks. -/
structure CoreReplaced (s t : State) (c k : Nat) : Prop where
  map  : ∀ d, t.defectByte d = if d = c then BitVec.ofNat 8 k else s.defectByte d
  loft : ∀ d, ∀ n < 4096, t.entry d n = if d = c then LoftEntry.reset else s.entry d n
  banks : ∀ x < 2 ^ 19, t.mem.read (scratchAddr c x) = 0
  rest : ∀ a, a < scratchAddr c 0 ∨ scratchAddr c 0 + 2 ^ 19 ≤ a → t.mem.read a = s.mem.read a
  core : ∀ d, t.core d = if d = c then Core.reset else s.core d
  kept : t.launches = s.launches ∧ t.net = s.net ∧ t.ready = s.ready

/-- R420: fallow bank `k` now stands for logical bank `b` of a core, and the one that did so before stands for none; programs see no
difference (R127). That the bank's words keep their values is the model's choice (log entry 80). -/
def BankReplaced (s t : State) (c k b : Nat) : Prop :=
  (∀ d, mapGet d t.banks (1024 * c + k) = b) ∧ t = { s with banks := t.banks, subst := t.subst } ∧
    ((s.banks.map (·.1)).Nodup → ∀ n, n ≠ 1024 * c + k → ∀ d, mapGet d t.banks n =
      if n / 1024 = c ∧ (n, b) ∈ s.banks then d else mapGet d s.banks n)

end Sys2Proof.Claims

/-- R420, R127: a substitution command is ignored while one is pending; one with a bad field, or a TARGET in service, is refused; one whose
position a launch holds stays pending, and SUBSTITUTION_PERFORM does nothing until no launch holds it; else it is performed and STATE is 2.
That a parked launch holds no partition is the model's choice (log entry 32, DEDUCED). -/
def Sys2Proof.Claims.SubstitutionsWaitForTheirPartition : Prop :=
  ∀ (s : State) (v : Word),
    (s.subst.state = 1 → exec (.substituteCore v) s = .next s ∧ exec (.substituteBank v) s = .next s) ∧
    (s.subst.state ≠ 1 →
      let ok := bits v 7 4 < 12 ∧ bits v 3 0 < 12
      let status := fun (i : Instr) (state reason : Nat) => ∃ t, exec i s = .next t ∧ t = { s with subst := t.subst } ∧
        t.subst.state = state ∧ t.subst.reason = reason
      (¬ ok ∨ bits v 33 24 < 144 ∨ 160 ≤ bits v 33 24 → status (.substituteCore v) 3 2) ∧
      (¬ ok ∨ bits v 33 24 < 512 ∨ 520 ≤ bits v 33 24 → status (.substituteBank v) 3 2) ∧
      (ok → 144 ≤ bits v 33 24 → bits v 33 24 < 160 →
        (serves s (bits v 10 8) (bits v 33 24) → status (.substituteCore v) 3 1) ∧
        (¬ serves s (bits v 10 8) (bits v 33 24) →
          (heldNow s (posOf v) → status (.substituteCore v) 1 0) ∧
          (¬ heldNow s (posOf v) → ∃ t, exec (.substituteCore v) s = .next t ∧ t.subst.state = 2 ∧ t.subst.reason = 0 ∧
            CoreReplaced s t (posOf v) (bits v 33 24)))) ∧
      (ok → 512 ≤ bits v 33 24 → bits v 33 24 < 520 →
        ((1024 * posOf v + bits v 33 24) ∈ s.banks.map (·.1) → status (.substituteBank v) 3 1) ∧
        ((1024 * posOf v + bits v 33 24) ∉ s.banks.map (·.1) →
          (heldNow s (posOf v) → status (.substituteBank v) 1 0) ∧
          (¬ heldNow s (posOf v) → ∃ t, exec (.substituteBank v) s = .next t ∧ t.subst.state = 2 ∧ t.subst.reason = 0 ∧
            BankReplaced s t (posOf v) (bits v 33 24) (bits v 23 15))))) ∧
    let w := s.subst.command
    (s.subst.state ≠ 1 ∨ heldNow s (posOf w) → exec .substitutionPerform s = .next s) ∧
    (s.subst.state = 1 → ¬ heldNow s (posOf w) → s.subst.reason = 0 → ∃ t, exec .substitutionPerform s = .next t ∧ t.subst.state = 2 ∧
      t.subst.reason = 0 ∧ (bits w 35 34 = 1 → CoreReplaced s t (posOf w) (bits w 33 24)) ∧
      (bits w 35 34 = 2 → BankReplaced s t (posOf w) (bits w 33 24) (bits w 23 15)))

/-- R291, R292, R420: a RETIRE command takes its frond out of service at once; a packet that comes to the port toward a retired frond later
is discarded there. REBASE, once no packet in flight holds a stamp, sets every count
and window base to 0, and the ports resume; before that it does nothing. -/
def Sys2Proof.Claims.RetirementRebases : Prop :=
  ∀ s : State,
    (∀ v : Word, s.subst.state ≠ 1 → (s.net.map (·.id)).Nodup → ∃ t, exec (.retireFrond v) s = .next t ∧ Retired s t (bits v 10 8) ∧
      t.subst.state = 2 ∧ t.subst.reason = 0) ∧
    (∀ n p, s.packet? n = some p → p.stage = .torus → p.cross = true → p.dest ∈ s.retired → ∃ t, exec (.rhizomeStamp n) s = .next t ∧
      t.net = s.net.filter (fun q => q.id ≠ n) ∧ t.mem = s.mem ∧ t.counts = s.counts ∧
      (t.core p.src).pending = (s.core p.src).pending ++ if (s.core p.src).launch = none then [] else
        [⟨1, 0x12, BitVec.ofNat 64 (2 * 2 ^ 8 + p.dest * 2 ^ 4 + p.dest), none, n⟩]) ∧
    (s.rebasing = true → (∀ p ∈ s.net, p.stamp = none) → ∃ t, exec .rebase s = .next t ∧ t.rebasing = false ∧ t.cores = s.cores ∧
      t.mem = s.mem ∧ t.net = s.net ∧ (∀ a b c, t.count a b c = 0) ∧ ∀ n, mapGet 0 t.acked n = 0) ∧
    (s.rebasing = false ∨ (∃ p ∈ s.net, p.stamp ≠ none) → exec .rebase s = .next s)

/-- Readiness, the retirement of a frond, and the rebase. -/
def Obligations.FunctionsAndFronds : Prop := FunctionsComeAndGo ∧ RetirementRebases

/-- R418, R420, R417: WEAR never decreases. WEAR_OUT_REMOVAL takes a position whose core is worn to 255 out of service while no launch holds
its partition and no substitution is pending for it; the partition's bit clears where the frond keeps no fallow core. -/
def Sys2Proof.Claims.WearTakesPositionsOut : Prop :=
  (∀ (s : State) (u : Nat) (x : Byte) (e : BitVec 16),
    (u < 1280 ∨ 1536 ≤ u ∧ u < 1552 ∨ 1568 ≤ u ∧ u < 1712 → ∃ t, exec (.wearRecordUpdate u x e) s = .next t ∧ t.cores = s.cores ∧ t.mem = s.mem ∧
      ∀ n, t.wearOf n = if n = u then { s.wearOf u with wear := BitVec.ofNat 8 (max (s.wearOf u).wear.toNat x.toNat), eolh := e }
        else s.wearOf n) ∧
    (1280 ≤ u ∧ u < 1536 ∨ 1552 ≤ u ∧ u < 1568 ∨ 1712 ≤ u → exec (.wearRecordUpdate u x e) s = .next s)) ∧
  ∀ (s : State) (c : CoreNo),
    let f := c.val / 144
    let p := 29 + c.val % 144 / 12 / 4
    let worn := fun k : Nat => (s.wearOf (160 * f + k)).wear = 255
    (s.defectByte c.val = 0xFF ∨ ¬ worn (s.defectByte c.val).toNat ∨ heldNow s c.val → exec (.wearOutRemoval c) s = .next s) ∧
    (s.defectByte c.val ≠ 0xFF → worn (s.defectByte c.val).toNat → ¬ heldNow s c.val → s.subst.state ≠ 1 →
      let left := ∃ k, 144 ≤ k ∧ k < 160 ∧ ¬ worn k ∧ ∀ i < 144, 144 * f + i ≠ c.val → (s.defectByte (144 * f + i)).toNat ≠ k
      ∃ t, exec (.wearOutRemoval c) s = .next t ∧ t.cores = s.cores ∧ t.mem = s.mem ∧ t.launches = s.launches ∧
        (∀ d, t.defectByte d = if d = c.val then 0xFF else s.defectByte d) ∧
        (left → t.ready = s.ready) ∧
        (¬ left → bitGiven (mapGet 0 s.ready f) (mapGet 0 t.ready f) p false ∧ ∀ g, g ≠ f → mapGet 0 t.ready g = mapGet 0 s.ready g))

/-- Substitution commands, wear records, and positions worn out. That a parked launch holds no partition, so that a command is performed while one names it, is the model's choice (log entry 32, DEDUCED). -/
def Obligations.SubstitutionAndWear : Prop := SubstitutionsWaitForTheirPartition ∧ WearTakesPositionsOut

/-- R428: an attestation request takes the nonce and the mailbox reads 1; a request made while it reads 1 is ignored. The report that is ready
starts with that nonce and holds each frond's readiness word, and the mailbox reads 2. Its digests and signatures are values of the part. -/
def Sys2Proof.Claims.AttestationReports : Prop :=
  ∀ s : State,
    (s.attest.status ≠ 1 → ∃ t, exec .attestRequest s = .next t ∧ t = { s with attest := t.attest } ∧
      t.attest.signing = s.attest.nonce ∧ t.attest.nonce = s.attest.nonce ∧ t.ctrlRead 0x100028 = some 1) ∧
    (s.attest.status = 1 → exec .attestRequest s = .next s) ∧
    (s.attest.status = 1 → s.attest.signing.length = 4 → ∃ t, exec .attestReportReady s = .next t ∧ t = { s with attest := t.attest } ∧
      t.ctrlRead 0x100028 = some 2 ∧ (∀ i < 4, t.ctrlRead (0x100100 + 8 * i) = s.attest.signing[i]?) ∧
      t.ctrlRead 0x100120 = s.ctrlRead 0 ∧ t.ctrlRead 0x100128 = s.ctrlRead 8 ∧
      ∀ f < 8, t.ctrlRead (0x100100 + 48 + 40 * f + 32) = some (mapGet 0 s.ready f)) ∧
    (s.attest.status ≠ 1 → exec .attestReportReady s = .next s)

/-- Writes of the device control region, and attestation. -/
def Obligations.RegistersAndMailboxes : Prop := RegisterWritesSetTheirFields ∧ AttestationReports

/-! ## Words, steps, and the whole machine -/

namespace Sys2Proof.Claims
open Sys2Proof.Machine

/-- The four bytes of a word in address order (R3). -/
def bytesLE (w : Word32) : List Byte := (List.range 4).map fun i => w.extractLsb' (8 * i) 8

/-- Words and word pairs of the manual's worked encodings, with the instruction that each stands for. -/
def workedWords : List (List Word32 × Instr) :=
  [([0x04304240], .add ⟨3, 1, 2, false, true⟩),
   ([0xF9520000, 0x40420C04], .vfma (some ⟨2, true, some .rtz, 16⟩) ⟨4, 8, 12, false, false⟩),
   ([0x2C527FFD], .beq 5 9 (-3)), ([0x2C917FFD], .bne 9 5 (-3)),
   ([0x70750298], .aaddZ64 ⟨7, 20, .rel, .frond⟩ false),
   ([0x1C67FFFF], .ldi 6 (-1)),
   ([0x68608400], .talloc ⟨6, 2, 4, false, false⟩), ([0x6C620C00], .tsusp ⟨6, 8, 12, false, false⟩),
   ([0x6C718008], .forceNb ⟨7, 6, false⟩), ([0x2881C701], .stb 8 7 7 false),
   ([0x7C028C00], .tryAlt 10 12 false false), ([0x74000250], .fence .sc .system),
   ([0x78910600], .rangeInit ⟨9, 4, 6, false, false⟩), ([0x3C002001], .endLaunch)]

/-- Words that the manual's worked encodings call illegal: no major, a reserved function code, a misplaced prefix, a
nonzero field of zeros. -/
def workedIllegal : List (Word32 × Word32) :=
  [(0x00000000, 0), (0xFFFFFFFF, 0), (0x84000000, 0), (0x0430427F, 0), (0xF9520000, 0x04304240), (0xF9520001, 0x40420C04)]

/-- A byte that core `c` can fetch at an address, through a leaf of its micro-TLB and a ready stack of HBM4E. -/
def ByteAt (s : State) (c : Nat) (va : Word) (b : Byte) : Prop :=
  wellFormedAddress va ∧ bits va 55 48 < 0xFD ∧
    ∃ e, (s.core c).tlb.find? (fun x => x.asn == (match s.launchOf c with | some l => l.asn | none => 0) &&
      x.vpage == va.toNat / 2 ^ pageBits x.level) = some e ∧ e.leaf.getLsbD 4 = true ∧
    let pa := bits e.leaf 51 12 * 2 ^ 12 + va.toNat % 2 ^ pageBits e.level
    pa < 2 ^ 40 ∧ s.stackReady (pa / 2 ^ 36) = true ∧ pa / 8 * 8 ∉ s.eccBad ∧ pa / 8 * 8 ∉ s.eccOne ∧ s.mem.read pa = b

/-- Core `c` is to issue its next instruction by itself: it runs outside a gang, nothing is pending or asked of it, neither a
FORCE, a GLEAN, a frame, a CUT in progress nor an arena header holds its issue, its launch is not ending, and no copy's event holds a
word (R289). -/
structure Issues (s : State) (c : Nat) : Prop where
  runs : (s.core c).run = .running ∧ (s.core c).gidx.toNat / 16 = 0
  quiet : (s.core c).pending = [] ∧ (s.core c).haltReq = false ∧ (s.core c).preemptReq = false
  free : (s.core c).holds = false ∧ (s.core c).headerDue = false ∧ ∀ a, (s.core c).midway ≠ some (.cut a)
  goes : ∀ l, s.launchOf c = some l → l.state ≠ .ending
  still : ∀ p ∈ s.net, p.stage ≠ .landing

end Sys2Proof.Claims

/-- R59, R64, R68, R71, R73, R74, R75, R76: words of the manual's worked encodings decode to the instructions they stand for; words that it
calls illegal are rejected, and a fetch of one issues ILLEGAL_INSTRUCTION. -/
def Obligations.WordsDecodeAsTheSpecEncodes : Prop :=
  (∀ e ∈ workedWords, decode (e.1.flatMap bytesLE) = .ok (e.2, [])) ∧
  ∀ e ∈ workedIllegal, (∀ r, decode (bytesLE e.1 ++ bytesLE e.2) ≠ .ok r) ∧
    instrOfWords e.1 e.2 = .illegalInstruction (if e.1.toNat / 2 ^ 26 = 0x3E then e.2 ++ e.1 else e.1.zeroExtend 64)

/-- R59 to R76: every well-formed instruction's words decode to it, whatever bytes follow; of two instructions no two have the same words. -/
def Sys2Proof.Claims.EncodedInstructionsDecodeBack : Prop :=
  ∀ (i : Instr) (rest : List Byte), i.isEncoded = true → i.wf = true →
    decode ((encode i).flatMap bytesLE ++ rest) = .ok (i, rest)

/-- R61, R76: bytes that decode are the words of the instruction that they decode to, and nothing else: no bit of an encoding is ignored. -/
def Sys2Proof.Claims.DecodedBytesEncodeBack : Prop :=
  ∀ (bs rest : List Byte) (i : Instr), decode bs = .ok (i, rest) →
    bs = (encode i).flatMap bytesLE ++ rest ∧ i.wf = true ∧ i.isEncoded = true

/-- R59 to R76: decoding and encoding agree in both directions, with every operand at every value. -/
def Obligations.WordsAndInstructionsAgree : Prop := EncodedInstructionsDecodeBack ∧ DecodedBytesEncodeBack

/-- R64, R79, R316, R392: the bytes at the PC of a core that is to issue decode to an instruction: a step in which that core is named is exec
of the instruction, with that core issuing. (That the turn names a core is the model's own, log entry 3.) With no turn proposed, the next
running core in order takes one; a proposed step of the package is exec of that step. -/
def Obligations.StepIssuesTheDecodedInstruction : Prop :=
  (∀ (s : State) (c : Nat) (turns : List Turn) (bs : List Byte) (i : Instr), s.agenda = .issue c :: turns → Issues s c →
    (s.core c).pc.toNat % 4 = 0 → (∀ n (h : n < bs.length), ByteAt s c ((s.core c).pc + BitVec.ofNat 64 n) bs[n]) → decode bs = .ok (i, []) →
    step s = exec i { s with agenda := turns, cur := c }) ∧
  (∀ (s : State) (c : Nat) (bs : List Byte) (i : Instr), s.agenda = [] → s.beat % 2 = 0 → Issues s c →
    (∀ e ∈ s.cores, e.2.run = .running → e.1 = c) → (c ∈ s.cores.map (·.1)) →
    (s.core c).pc.toNat % 4 = 0 → (∀ n (h : n < bs.length), ByteAt s c ((s.core c).pc + BitVec.ofNat 64 n) bs[n]) → decode bs = .ok (i, []) →
    step s = exec i { s with beat := s.beat + 1, cur := c }) ∧
  ∀ (s : State) (j : Instr) (turns : List Turn), s.agenda = .event j :: turns → j.isEncoded = false → (∀ v, j ≠ .illegalInstruction v) →
    step s = exec j { s with agenda := turns }

/-- The package's memory keeps its canonical form over every step, whatever the step is: equal memories stay equal data. (A property of the
model's memory, log entry 1.) -/
def Obligations.StepKeepsMemoryCanonical : Prop := ∀ s : State, Inv s → KeepsInv (step s)

/-- R9, R73, R133, R347, R416: the values that the manual states for reset, at every core and unit; memory is in its canonical form. The
values that it leaves open are the model's choices (log entries 5, 6, 7 and 8). -/
def Sys2Proof.Claims.ResetHoldsTheStatedValues : Prop :=
  Inv State.reset ∧
  (∀ c : CoreNo, ∀ x : Csr, (State.reset.core c.val).csrValue c.val x = match x with
    | .fcsr => 1
    | .nroute => 0x3000
    | .coord => BitVec.ofNat 64 (c.val / 144 * 256 + c.val % 144 / 12 * 16 + c.val % 12)
    | _ => 0) ∧
  (∀ c n : Nat, (State.reset.entry c n).state = .free ∧ (State.reset.entry c n).gen = 0) ∧
  (∀ q, let w := mapGet WorkQueue.reset State.reset.queues q
    w.ringBase = 0 ∧ w.log2n = 0 ∧ w.head = 0 ∧ w.tail = 0 ∧ w.deficit = 0 ∧ w.quantum = 1 ∧ w.partMask = 0) ∧
  (∀ f b : Nat, State.reset.readyBit f b = false) ∧ (∀ k, (State.reset.wearOf k).eolh = 0xFFFF ∧ (State.reset.wearOf k).wear = 0) ∧
  ∀ c < 1152, (State.reset.defectByte c).toNat = c % 144

/-- What holds after device reset. -/
def Obligations.ResetValues : Prop := DeviceResetResets ∧ ResetHoldsTheStatedValues
end

