-- ==== Sys2Proof/Laws/Encode.lean ====
section
/-! SUPPORT. The major opcode of a word that the encoder builds, by format (R59). -/
namespace Sys2Proof

theorem bit_lt (b : Bool) : bit b < 2 := by cases b <;> decide

theorem fieldOp_encA {op d a b fn : Nat} {pa pb : Bool} (ho : op < 64) (hd : d < 64) (ha : a < 64) (hb : b < 64) (hf : fn < 64) :
    fieldOp (encA op d a b pa pb fn) = op := by
  have hp := bit_lt pa
  have hq := bit_lt pb
  simp only [fieldOp, bitsOf, encA, BitVec.toNat_ofNat]
  omega

theorem fieldOp_encI {op d a imm : Nat} (ho : op < 64) (hd : d < 64) (ha : a < 64) (hi : imm < 2 ^ 14) : fieldOp (encI op d a imm) = op := by
  simp only [fieldOp, bitsOf, encI, BitVec.toNat_ofNat]
  omega

theorem fieldOp_encL {op d imm : Nat} (ho : op < 64) (hd : d < 64) (hi : imm < 2 ^ 20) : fieldOp (encL op d imm) = op := by
  simp only [fieldOp, bitsOf, encL, BitVec.toNat_ofNat]
  omega

theorem fieldOp_encR3 {op fn : Nat} (r : R3) (ho : op < 64) (hf : fn < 64) : fieldOp (encR3 op fn r) = op :=
  fieldOp_encA ho r.d.isLt r.a.isLt r.b.isLt hf

theorem fieldOp_encR2 {op fn : Nat} (r : R2) (ho : op < 64) (hf : fn < 64) : fieldOp (encR2 op fn r) = op :=
  fieldOp_encA ho r.d.isLt r.a.isLt (by decide) hf

theorem fieldOp_encCmp {op fn : Nat} (r : CmpOps) (ho : op < 64) (hf : fn < 64) : fieldOp (encCmp op fn r) = op :=
  fieldOp_encA ho (Nat.lt_trans r.d.isLt (by decide)) r.a.isLt r.b.isLt hf

theorem MemOrder.code_lt (o : MemOrder) : o.code < 8 := by cases o <;> decide
theorem MemScope.code_lt (s : MemScope) : s.code < 8 := by cases s <;> decide
theorem Csr.number_lt (c : Csr) : c.number < 2 ^ 11 := by cases c <;> simp only [Csr.number] <;> omega
theorem Role.code_lt (r : Role) : r.code < 4 := by cases r <;> decide
theorem GangSize.code_lt (z : GangSize) : z.code < 16 := by cases z <;> decide

theorem fieldOp_encAtom {code : Nat} (t : AtomOps) (nr : Bool) (hc : code < 32) : fieldOp (encAtom code t nr) = 0x1C := by
  have ho := t.o.code_lt
  have hs := t.s.code_lt
  have hn := bit_lt nr
  exact fieldOp_encI (by decide) t.d.isLt t.a.isLt (by omega)

theorem fieldOp_encSync {sub imm : Nat} (hs : sub < 16) (hi : imm < 2 ^ 10) : fieldOp (encSync sub imm) = 0x1D :=
  fieldOp_encI (by decide) (by decide) (by decide) (by omega)

end Sys2Proof
end

