-- ==== Sys2Proof/Laws/Maps.lean ====
section
/-! SUPPORT. Laws of the sparse maps: a read after a write, and the keys that stay. -/
namespace Sys2Proof.Machine

@[simp] theorem mapGet_nil {α : Type} (d : α) (k : Nat) : mapGet d [] k = d := rfl

theorem mapGet_mapSet {α : Type} (d : α) (m : SMap α) (k j : Nat) (v : α) :
    mapGet d (mapSet m k v) j = if k = j then v else mapGet d m j := by
  induction m with
  | nil => simp [mapSet, mapGet]
  | cons e r ih =>
    obtain ⟨a, w⟩ := e
    simp only [mapSet]
    split
    · simp only [mapGet]
    · split
      · rename_i h; subst h; simp only [mapGet]; split <;> rfl
      · simp only [mapGet, ih]
        split
        · rename_i h1 h2; subst h2; simp [Ne.symm h1]
        · rfl

@[simp] theorem mapGet_mapSet_same {α : Type} (d : α) (m : SMap α) (k : Nat) (v : α) :
    mapGet d (mapSet m k v) k = v := by simp [mapGet_mapSet]

theorem mapGet_mapSet_other {α : Type} (d : α) (m : SMap α) (k j : Nat) (v : α) (h : k ≠ j) :
    mapGet d (mapSet m k v) j = mapGet d m j := by simp [mapGet_mapSet, h]

theorem mapSet_mapSet {α : Type} (m : SMap α) (k : Nat) (v w : α) :
    mapSet (mapSet m k v) k w = mapSet m k w := by
  induction m with
  | nil => simp [mapSet]
  | cons e r ih =>
    obtain ⟨a, x⟩ := e
    simp only [mapSet]
    split
    · simp [mapSet]
    · split
      · rename_i h; subst h; simp [mapSet]
      · rename_i h1 h2; simp [mapSet, h1, h2, ih]

end Sys2Proof.Machine
end

