-- ==== Sys2Proof/Laws/State.lean ====
section
/-! SUPPORT. Each update of the state and of a core, field by field: what it sets, and what it leaves. -/
namespace Sys2Proof.Machine

/-! ## Updates of the package -/

@[simp] theorem State.setCore_mem (s : State) (c : Nat) (k : Core) : (s.setCore c k).mem = s.mem := rfl
@[simp] theorem State.setCore_eccBad (s : State) (c : Nat) (k : Core) : (s.setCore c k).eccBad = s.eccBad := rfl
@[simp] theorem State.setCore_eccOne (s : State) (c : Nat) (k : Core) : (s.setCore c k).eccOne = s.eccOne := rfl
@[simp] theorem State.setCore_poison (s : State) (c : Nat) (k : Core) : (s.setCore c k).poison = s.poison := rfl
@[simp] theorem State.setCore_loft (s : State) (c : Nat) (k : Core) : (s.setCore c k).loft = s.loft := rfl
@[simp] theorem State.setCore_launches (s : State) (c : Nat) (k : Core) : (s.setCore c k).launches = s.launches := rfl
@[simp] theorem State.setCore_resumeList (s : State) (c : Nat) (k : Core) : (s.setCore c k).resumeList = s.resumeList := rfl
@[simp] theorem State.setCore_queues (s : State) (c : Nat) (k : Core) : (s.setCore c k).queues = s.queues := rfl
@[simp] theorem State.setCore_served (s : State) (c : Nat) (k : Core) : (s.setCore c k).served = s.served := rfl
@[simp] theorem State.setCore_rings (s : State) (c : Nat) (k : Core) : (s.setCore c k).rings = s.rings := rfl
@[simp] theorem State.setCore_ready (s : State) (c : Nat) (k : Core) : (s.setCore c k).ready = s.ready := rfl
@[simp] theorem State.setCore_cxl (s : State) (c : Nat) (k : Core) : (s.setCore c k).cxl = s.cxl := rfl
@[simp] theorem State.setCore_wear (s : State) (c : Nat) (k : Core) : (s.setCore c k).wear = s.wear := rfl
@[simp] theorem State.setCore_defect (s : State) (c : Nat) (k : Core) : (s.setCore c k).defect = s.defect := rfl
@[simp] theorem State.setCore_banks (s : State) (c : Nat) (k : Core) : (s.setCore c k).banks = s.banks := rfl
@[simp] theorem State.setCore_subst (s : State) (c : Nat) (k : Core) : (s.setCore c k).subst = s.subst := rfl
@[simp] theorem State.setCore_invalVa (s : State) (c : Nat) (k : Core) : (s.setCore c k).invalVa = s.invalVa := rfl
@[simp] theorem State.setCore_inval (s : State) (c : Nat) (k : Core) : (s.setCore c k).inval = s.inval := rfl
@[simp] theorem State.setCore_invalDone (s : State) (c : Nat) (k : Core) : (s.setCore c k).invalDone = s.invalDone := rfl
@[simp] theorem State.setCore_logs (s : State) (c : Nat) (k : Core) : (s.setCore c k).logs = s.logs := rfl
@[simp] theorem State.setCore_attest (s : State) (c : Nat) (k : Core) : (s.setCore c k).attest = s.attest := rfl
@[simp] theorem State.setCore_fuses (s : State) (c : Nat) (k : Core) : (s.setCore c k).fuses = s.fuses := rfl
@[simp] theorem State.setCore_images (s : State) (c : Nat) (k : Core) : (s.setCore c k).images = s.images := rfl
@[simp] theorem State.setCore_svlMap (s : State) (c : Nat) (k : Core) : (s.setCore c k).svlMap = s.svlMap := rfl
@[simp] theorem State.setCore_svlRetry (s : State) (c : Nat) (k : Core) : (s.setCore c k).svlRetry = s.svlRetry := rfl
@[simp] theorem State.setCore_hostPending (s : State) (c : Nat) (k : Core) : (s.setCore c k).hostPending = s.hostPending := rfl
@[simp] theorem State.setCore_counts (s : State) (c : Nat) (k : Core) : (s.setCore c k).counts = s.counts := rfl
@[simp] theorem State.setCore_acked (s : State) (c : Nat) (k : Core) : (s.setCore c k).acked = s.acked := rfl
@[simp] theorem State.setCore_retired (s : State) (c : Nat) (k : Core) : (s.setCore c k).retired = s.retired := rfl
@[simp] theorem State.setCore_rebasing (s : State) (c : Nat) (k : Core) : (s.setCore c k).rebasing = s.rebasing := rfl
@[simp] theorem State.setCore_tlbs (s : State) (c : Nat) (k : Core) : (s.setCore c k).tlbs = s.tlbs := rfl
@[simp] theorem State.setCore_walks (s : State) (c : Nat) (k : Core) : (s.setCore c k).walks = s.walks := rfl
@[simp] theorem State.setCore_net (s : State) (c : Nat) (k : Core) : (s.setCore c k).net = s.net := rfl
@[simp] theorem State.setCore_hostOut (s : State) (c : Nat) (k : Core) : (s.setCore c k).hostOut = s.hostOut := rfl
@[simp] theorem State.setCore_records (s : State) (c : Nat) (k : Core) : (s.setCore c k).records = s.records := rfl
@[simp] theorem State.setCore_cur (s : State) (c : Nat) (k : Core) : (s.setCore c k).cur = s.cur := rfl
@[simp] theorem State.setCore_agenda (s : State) (c : Nat) (k : Core) : (s.setCore c k).agenda = s.agenda := rfl
@[simp] theorem State.setCore_nextId (s : State) (c : Nat) (k : Core) : (s.setCore c k).nextId = s.nextId := rfl
@[simp] theorem State.setCore_beat (s : State) (c : Nat) (k : Core) : (s.setCore c k).beat = s.beat := rfl

@[simp] theorem State.modCore_mem (s : State) (c : Nat) (f : Core → Core) : (s.modCore c f).mem = s.mem := rfl
@[simp] theorem State.modCore_eccBad (s : State) (c : Nat) (f : Core → Core) : (s.modCore c f).eccBad = s.eccBad := rfl
@[simp] theorem State.modCore_eccOne (s : State) (c : Nat) (f : Core → Core) : (s.modCore c f).eccOne = s.eccOne := rfl
@[simp] theorem State.modCore_poison (s : State) (c : Nat) (f : Core → Core) : (s.modCore c f).poison = s.poison := rfl
@[simp] theorem State.modCore_loft (s : State) (c : Nat) (f : Core → Core) : (s.modCore c f).loft = s.loft := rfl
@[simp] theorem State.modCore_launches (s : State) (c : Nat) (f : Core → Core) : (s.modCore c f).launches = s.launches := rfl
@[simp] theorem State.modCore_resumeList (s : State) (c : Nat) (f : Core → Core) : (s.modCore c f).resumeList = s.resumeList := rfl
@[simp] theorem State.modCore_queues (s : State) (c : Nat) (f : Core → Core) : (s.modCore c f).queues = s.queues := rfl
@[simp] theorem State.modCore_served (s : State) (c : Nat) (f : Core → Core) : (s.modCore c f).served = s.served := rfl
@[simp] theorem State.modCore_rings (s : State) (c : Nat) (f : Core → Core) : (s.modCore c f).rings = s.rings := rfl
@[simp] theorem State.modCore_ready (s : State) (c : Nat) (f : Core → Core) : (s.modCore c f).ready = s.ready := rfl
@[simp] theorem State.modCore_cxl (s : State) (c : Nat) (f : Core → Core) : (s.modCore c f).cxl = s.cxl := rfl
@[simp] theorem State.modCore_wear (s : State) (c : Nat) (f : Core → Core) : (s.modCore c f).wear = s.wear := rfl
@[simp] theorem State.modCore_defect (s : State) (c : Nat) (f : Core → Core) : (s.modCore c f).defect = s.defect := rfl
@[simp] theorem State.modCore_banks (s : State) (c : Nat) (f : Core → Core) : (s.modCore c f).banks = s.banks := rfl
@[simp] theorem State.modCore_subst (s : State) (c : Nat) (f : Core → Core) : (s.modCore c f).subst = s.subst := rfl
@[simp] theorem State.modCore_invalVa (s : State) (c : Nat) (f : Core → Core) : (s.modCore c f).invalVa = s.invalVa := rfl
@[simp] theorem State.modCore_inval (s : State) (c : Nat) (f : Core → Core) : (s.modCore c f).inval = s.inval := rfl
@[simp] theorem State.modCore_invalDone (s : State) (c : Nat) (f : Core → Core) : (s.modCore c f).invalDone = s.invalDone := rfl
@[simp] theorem State.modCore_logs (s : State) (c : Nat) (f : Core → Core) : (s.modCore c f).logs = s.logs := rfl
@[simp] theorem State.modCore_attest (s : State) (c : Nat) (f : Core → Core) : (s.modCore c f).attest = s.attest := rfl
@[simp] theorem State.modCore_fuses (s : State) (c : Nat) (f : Core → Core) : (s.modCore c f).fuses = s.fuses := rfl
@[simp] theorem State.modCore_images (s : State) (c : Nat) (f : Core → Core) : (s.modCore c f).images = s.images := rfl
@[simp] theorem State.modCore_svlMap (s : State) (c : Nat) (f : Core → Core) : (s.modCore c f).svlMap = s.svlMap := rfl
@[simp] theorem State.modCore_svlRetry (s : State) (c : Nat) (f : Core → Core) : (s.modCore c f).svlRetry = s.svlRetry := rfl
@[simp] theorem State.modCore_hostPending (s : State) (c : Nat) (f : Core → Core) : (s.modCore c f).hostPending = s.hostPending := rfl
@[simp] theorem State.modCore_counts (s : State) (c : Nat) (f : Core → Core) : (s.modCore c f).counts = s.counts := rfl
@[simp] theorem State.modCore_acked (s : State) (c : Nat) (f : Core → Core) : (s.modCore c f).acked = s.acked := rfl
@[simp] theorem State.modCore_retired (s : State) (c : Nat) (f : Core → Core) : (s.modCore c f).retired = s.retired := rfl
@[simp] theorem State.modCore_rebasing (s : State) (c : Nat) (f : Core → Core) : (s.modCore c f).rebasing = s.rebasing := rfl
@[simp] theorem State.modCore_tlbs (s : State) (c : Nat) (f : Core → Core) : (s.modCore c f).tlbs = s.tlbs := rfl
@[simp] theorem State.modCore_walks (s : State) (c : Nat) (f : Core → Core) : (s.modCore c f).walks = s.walks := rfl
@[simp] theorem State.modCore_net (s : State) (c : Nat) (f : Core → Core) : (s.modCore c f).net = s.net := rfl
@[simp] theorem State.modCore_hostOut (s : State) (c : Nat) (f : Core → Core) : (s.modCore c f).hostOut = s.hostOut := rfl
@[simp] theorem State.modCore_records (s : State) (c : Nat) (f : Core → Core) : (s.modCore c f).records = s.records := rfl
@[simp] theorem State.modCore_cur (s : State) (c : Nat) (f : Core → Core) : (s.modCore c f).cur = s.cur := rfl
@[simp] theorem State.modCore_agenda (s : State) (c : Nat) (f : Core → Core) : (s.modCore c f).agenda = s.agenda := rfl
@[simp] theorem State.modCore_nextId (s : State) (c : Nat) (f : Core → Core) : (s.modCore c f).nextId = s.nextId := rfl
@[simp] theorem State.modCore_beat (s : State) (c : Nat) (f : Core → Core) : (s.modCore c f).beat = s.beat := rfl

@[simp] theorem State.modMe_mem (s : State) (f : Core → Core) : (s.modMe f).mem = s.mem := rfl
@[simp] theorem State.modMe_eccBad (s : State) (f : Core → Core) : (s.modMe f).eccBad = s.eccBad := rfl
@[simp] theorem State.modMe_eccOne (s : State) (f : Core → Core) : (s.modMe f).eccOne = s.eccOne := rfl
@[simp] theorem State.modMe_poison (s : State) (f : Core → Core) : (s.modMe f).poison = s.poison := rfl
@[simp] theorem State.modMe_loft (s : State) (f : Core → Core) : (s.modMe f).loft = s.loft := rfl
@[simp] theorem State.modMe_launches (s : State) (f : Core → Core) : (s.modMe f).launches = s.launches := rfl
@[simp] theorem State.modMe_resumeList (s : State) (f : Core → Core) : (s.modMe f).resumeList = s.resumeList := rfl
@[simp] theorem State.modMe_queues (s : State) (f : Core → Core) : (s.modMe f).queues = s.queues := rfl
@[simp] theorem State.modMe_served (s : State) (f : Core → Core) : (s.modMe f).served = s.served := rfl
@[simp] theorem State.modMe_rings (s : State) (f : Core → Core) : (s.modMe f).rings = s.rings := rfl
@[simp] theorem State.modMe_ready (s : State) (f : Core → Core) : (s.modMe f).ready = s.ready := rfl
@[simp] theorem State.modMe_cxl (s : State) (f : Core → Core) : (s.modMe f).cxl = s.cxl := rfl
@[simp] theorem State.modMe_wear (s : State) (f : Core → Core) : (s.modMe f).wear = s.wear := rfl
@[simp] theorem State.modMe_defect (s : State) (f : Core → Core) : (s.modMe f).defect = s.defect := rfl
@[simp] theorem State.modMe_banks (s : State) (f : Core → Core) : (s.modMe f).banks = s.banks := rfl
@[simp] theorem State.modMe_subst (s : State) (f : Core → Core) : (s.modMe f).subst = s.subst := rfl
@[simp] theorem State.modMe_invalVa (s : State) (f : Core → Core) : (s.modMe f).invalVa = s.invalVa := rfl
@[simp] theorem State.modMe_inval (s : State) (f : Core → Core) : (s.modMe f).inval = s.inval := rfl
@[simp] theorem State.modMe_invalDone (s : State) (f : Core → Core) : (s.modMe f).invalDone = s.invalDone := rfl
@[simp] theorem State.modMe_logs (s : State) (f : Core → Core) : (s.modMe f).logs = s.logs := rfl
@[simp] theorem State.modMe_attest (s : State) (f : Core → Core) : (s.modMe f).attest = s.attest := rfl
@[simp] theorem State.modMe_fuses (s : State) (f : Core → Core) : (s.modMe f).fuses = s.fuses := rfl
@[simp] theorem State.modMe_images (s : State) (f : Core → Core) : (s.modMe f).images = s.images := rfl
@[simp] theorem State.modMe_svlMap (s : State) (f : Core → Core) : (s.modMe f).svlMap = s.svlMap := rfl
@[simp] theorem State.modMe_svlRetry (s : State) (f : Core → Core) : (s.modMe f).svlRetry = s.svlRetry := rfl
@[simp] theorem State.modMe_hostPending (s : State) (f : Core → Core) : (s.modMe f).hostPending = s.hostPending := rfl
@[simp] theorem State.modMe_counts (s : State) (f : Core → Core) : (s.modMe f).counts = s.counts := rfl
@[simp] theorem State.modMe_acked (s : State) (f : Core → Core) : (s.modMe f).acked = s.acked := rfl
@[simp] theorem State.modMe_retired (s : State) (f : Core → Core) : (s.modMe f).retired = s.retired := rfl
@[simp] theorem State.modMe_rebasing (s : State) (f : Core → Core) : (s.modMe f).rebasing = s.rebasing := rfl
@[simp] theorem State.modMe_tlbs (s : State) (f : Core → Core) : (s.modMe f).tlbs = s.tlbs := rfl
@[simp] theorem State.modMe_walks (s : State) (f : Core → Core) : (s.modMe f).walks = s.walks := rfl
@[simp] theorem State.modMe_net (s : State) (f : Core → Core) : (s.modMe f).net = s.net := rfl
@[simp] theorem State.modMe_hostOut (s : State) (f : Core → Core) : (s.modMe f).hostOut = s.hostOut := rfl
@[simp] theorem State.modMe_records (s : State) (f : Core → Core) : (s.modMe f).records = s.records := rfl
@[simp] theorem State.modMe_cur (s : State) (f : Core → Core) : (s.modMe f).cur = s.cur := rfl
@[simp] theorem State.modMe_agenda (s : State) (f : Core → Core) : (s.modMe f).agenda = s.agenda := rfl
@[simp] theorem State.modMe_nextId (s : State) (f : Core → Core) : (s.modMe f).nextId = s.nextId := rfl
@[simp] theorem State.modMe_beat (s : State) (f : Core → Core) : (s.modMe f).beat = s.beat := rfl

@[simp] theorem State.setEntry_mem (s : State) (c n : Nat) (e : LoftEntry) : (s.setEntry c n e).mem = s.mem := rfl
@[simp] theorem State.setEntry_eccBad (s : State) (c n : Nat) (e : LoftEntry) : (s.setEntry c n e).eccBad = s.eccBad := rfl
@[simp] theorem State.setEntry_eccOne (s : State) (c n : Nat) (e : LoftEntry) : (s.setEntry c n e).eccOne = s.eccOne := rfl
@[simp] theorem State.setEntry_poison (s : State) (c n : Nat) (e : LoftEntry) : (s.setEntry c n e).poison = s.poison := rfl
@[simp] theorem State.setEntry_cores (s : State) (c n : Nat) (e : LoftEntry) : (s.setEntry c n e).cores = s.cores := rfl
@[simp] theorem State.setEntry_launches (s : State) (c n : Nat) (e : LoftEntry) : (s.setEntry c n e).launches = s.launches := rfl
@[simp] theorem State.setEntry_resumeList (s : State) (c n : Nat) (e : LoftEntry) : (s.setEntry c n e).resumeList = s.resumeList := rfl
@[simp] theorem State.setEntry_queues (s : State) (c n : Nat) (e : LoftEntry) : (s.setEntry c n e).queues = s.queues := rfl
@[simp] theorem State.setEntry_served (s : State) (c n : Nat) (e : LoftEntry) : (s.setEntry c n e).served = s.served := rfl
@[simp] theorem State.setEntry_rings (s : State) (c n : Nat) (e : LoftEntry) : (s.setEntry c n e).rings = s.rings := rfl
@[simp] theorem State.setEntry_ready (s : State) (c n : Nat) (e : LoftEntry) : (s.setEntry c n e).ready = s.ready := rfl
@[simp] theorem State.setEntry_cxl (s : State) (c n : Nat) (e : LoftEntry) : (s.setEntry c n e).cxl = s.cxl := rfl
@[simp] theorem State.setEntry_wear (s : State) (c n : Nat) (e : LoftEntry) : (s.setEntry c n e).wear = s.wear := rfl
@[simp] theorem State.setEntry_defect (s : State) (c n : Nat) (e : LoftEntry) : (s.setEntry c n e).defect = s.defect := rfl
@[simp] theorem State.setEntry_banks (s : State) (c n : Nat) (e : LoftEntry) : (s.setEntry c n e).banks = s.banks := rfl
@[simp] theorem State.setEntry_subst (s : State) (c n : Nat) (e : LoftEntry) : (s.setEntry c n e).subst = s.subst := rfl
@[simp] theorem State.setEntry_invalVa (s : State) (c n : Nat) (e : LoftEntry) : (s.setEntry c n e).invalVa = s.invalVa := rfl
@[simp] theorem State.setEntry_inval (s : State) (c n : Nat) (e : LoftEntry) : (s.setEntry c n e).inval = s.inval := rfl
@[simp] theorem State.setEntry_invalDone (s : State) (c n : Nat) (e : LoftEntry) : (s.setEntry c n e).invalDone = s.invalDone := rfl
@[simp] theorem State.setEntry_logs (s : State) (c n : Nat) (e : LoftEntry) : (s.setEntry c n e).logs = s.logs := rfl
@[simp] theorem State.setEntry_attest (s : State) (c n : Nat) (e : LoftEntry) : (s.setEntry c n e).attest = s.attest := rfl
@[simp] theorem State.setEntry_fuses (s : State) (c n : Nat) (e : LoftEntry) : (s.setEntry c n e).fuses = s.fuses := rfl
@[simp] theorem State.setEntry_images (s : State) (c n : Nat) (e : LoftEntry) : (s.setEntry c n e).images = s.images := rfl
@[simp] theorem State.setEntry_svlMap (s : State) (c n : Nat) (e : LoftEntry) : (s.setEntry c n e).svlMap = s.svlMap := rfl
@[simp] theorem State.setEntry_svlRetry (s : State) (c n : Nat) (e : LoftEntry) : (s.setEntry c n e).svlRetry = s.svlRetry := rfl
@[simp] theorem State.setEntry_hostPending (s : State) (c n : Nat) (e : LoftEntry) : (s.setEntry c n e).hostPending = s.hostPending := rfl
@[simp] theorem State.setEntry_counts (s : State) (c n : Nat) (e : LoftEntry) : (s.setEntry c n e).counts = s.counts := rfl
@[simp] theorem State.setEntry_acked (s : State) (c n : Nat) (e : LoftEntry) : (s.setEntry c n e).acked = s.acked := rfl
@[simp] theorem State.setEntry_retired (s : State) (c n : Nat) (e : LoftEntry) : (s.setEntry c n e).retired = s.retired := rfl
@[simp] theorem State.setEntry_rebasing (s : State) (c n : Nat) (e : LoftEntry) : (s.setEntry c n e).rebasing = s.rebasing := rfl
@[simp] theorem State.setEntry_tlbs (s : State) (c n : Nat) (e : LoftEntry) : (s.setEntry c n e).tlbs = s.tlbs := rfl
@[simp] theorem State.setEntry_walks (s : State) (c n : Nat) (e : LoftEntry) : (s.setEntry c n e).walks = s.walks := rfl
@[simp] theorem State.setEntry_net (s : State) (c n : Nat) (e : LoftEntry) : (s.setEntry c n e).net = s.net := rfl
@[simp] theorem State.setEntry_hostOut (s : State) (c n : Nat) (e : LoftEntry) : (s.setEntry c n e).hostOut = s.hostOut := rfl
@[simp] theorem State.setEntry_records (s : State) (c n : Nat) (e : LoftEntry) : (s.setEntry c n e).records = s.records := rfl
@[simp] theorem State.setEntry_cur (s : State) (c n : Nat) (e : LoftEntry) : (s.setEntry c n e).cur = s.cur := rfl
@[simp] theorem State.setEntry_agenda (s : State) (c n : Nat) (e : LoftEntry) : (s.setEntry c n e).agenda = s.agenda := rfl
@[simp] theorem State.setEntry_nextId (s : State) (c n : Nat) (e : LoftEntry) : (s.setEntry c n e).nextId = s.nextId := rfl
@[simp] theorem State.setEntry_beat (s : State) (c n : Nat) (e : LoftEntry) : (s.setEntry c n e).beat = s.beat := rfl

@[simp] theorem State.setLaunch_mem (s : State) (l : Launch) : (s.setLaunch l).mem = s.mem := rfl
@[simp] theorem State.setLaunch_eccBad (s : State) (l : Launch) : (s.setLaunch l).eccBad = s.eccBad := rfl
@[simp] theorem State.setLaunch_eccOne (s : State) (l : Launch) : (s.setLaunch l).eccOne = s.eccOne := rfl
@[simp] theorem State.setLaunch_poison (s : State) (l : Launch) : (s.setLaunch l).poison = s.poison := rfl
@[simp] theorem State.setLaunch_cores (s : State) (l : Launch) : (s.setLaunch l).cores = s.cores := rfl
@[simp] theorem State.setLaunch_loft (s : State) (l : Launch) : (s.setLaunch l).loft = s.loft := rfl
@[simp] theorem State.setLaunch_resumeList (s : State) (l : Launch) : (s.setLaunch l).resumeList = s.resumeList := rfl
@[simp] theorem State.setLaunch_queues (s : State) (l : Launch) : (s.setLaunch l).queues = s.queues := rfl
@[simp] theorem State.setLaunch_served (s : State) (l : Launch) : (s.setLaunch l).served = s.served := rfl
@[simp] theorem State.setLaunch_rings (s : State) (l : Launch) : (s.setLaunch l).rings = s.rings := rfl
@[simp] theorem State.setLaunch_ready (s : State) (l : Launch) : (s.setLaunch l).ready = s.ready := rfl
@[simp] theorem State.setLaunch_cxl (s : State) (l : Launch) : (s.setLaunch l).cxl = s.cxl := rfl
@[simp] theorem State.setLaunch_wear (s : State) (l : Launch) : (s.setLaunch l).wear = s.wear := rfl
@[simp] theorem State.setLaunch_defect (s : State) (l : Launch) : (s.setLaunch l).defect = s.defect := rfl
@[simp] theorem State.setLaunch_banks (s : State) (l : Launch) : (s.setLaunch l).banks = s.banks := rfl
@[simp] theorem State.setLaunch_subst (s : State) (l : Launch) : (s.setLaunch l).subst = s.subst := rfl
@[simp] theorem State.setLaunch_invalVa (s : State) (l : Launch) : (s.setLaunch l).invalVa = s.invalVa := rfl
@[simp] theorem State.setLaunch_inval (s : State) (l : Launch) : (s.setLaunch l).inval = s.inval := rfl
@[simp] theorem State.setLaunch_invalDone (s : State) (l : Launch) : (s.setLaunch l).invalDone = s.invalDone := rfl
@[simp] theorem State.setLaunch_logs (s : State) (l : Launch) : (s.setLaunch l).logs = s.logs := rfl
@[simp] theorem State.setLaunch_attest (s : State) (l : Launch) : (s.setLaunch l).attest = s.attest := rfl
@[simp] theorem State.setLaunch_fuses (s : State) (l : Launch) : (s.setLaunch l).fuses = s.fuses := rfl
@[simp] theorem State.setLaunch_images (s : State) (l : Launch) : (s.setLaunch l).images = s.images := rfl
@[simp] theorem State.setLaunch_svlMap (s : State) (l : Launch) : (s.setLaunch l).svlMap = s.svlMap := rfl
@[simp] theorem State.setLaunch_svlRetry (s : State) (l : Launch) : (s.setLaunch l).svlRetry = s.svlRetry := rfl
@[simp] theorem State.setLaunch_hostPending (s : State) (l : Launch) : (s.setLaunch l).hostPending = s.hostPending := rfl
@[simp] theorem State.setLaunch_counts (s : State) (l : Launch) : (s.setLaunch l).counts = s.counts := rfl
@[simp] theorem State.setLaunch_acked (s : State) (l : Launch) : (s.setLaunch l).acked = s.acked := rfl
@[simp] theorem State.setLaunch_retired (s : State) (l : Launch) : (s.setLaunch l).retired = s.retired := rfl
@[simp] theorem State.setLaunch_rebasing (s : State) (l : Launch) : (s.setLaunch l).rebasing = s.rebasing := rfl
@[simp] theorem State.setLaunch_tlbs (s : State) (l : Launch) : (s.setLaunch l).tlbs = s.tlbs := rfl
@[simp] theorem State.setLaunch_walks (s : State) (l : Launch) : (s.setLaunch l).walks = s.walks := rfl
@[simp] theorem State.setLaunch_net (s : State) (l : Launch) : (s.setLaunch l).net = s.net := rfl
@[simp] theorem State.setLaunch_hostOut (s : State) (l : Launch) : (s.setLaunch l).hostOut = s.hostOut := rfl
@[simp] theorem State.setLaunch_records (s : State) (l : Launch) : (s.setLaunch l).records = s.records := rfl
@[simp] theorem State.setLaunch_cur (s : State) (l : Launch) : (s.setLaunch l).cur = s.cur := rfl
@[simp] theorem State.setLaunch_agenda (s : State) (l : Launch) : (s.setLaunch l).agenda = s.agenda := rfl
@[simp] theorem State.setLaunch_nextId (s : State) (l : Launch) : (s.setLaunch l).nextId = s.nextId := rfl
@[simp] theorem State.setLaunch_beat (s : State) (l : Launch) : (s.setLaunch l).beat = s.beat := rfl

@[simp] theorem State.modLaunch_mem (s : State) (k : Nat) (f : Launch → Launch) : (s.modLaunch k f).mem = s.mem := rfl
@[simp] theorem State.modLaunch_eccBad (s : State) (k : Nat) (f : Launch → Launch) : (s.modLaunch k f).eccBad = s.eccBad := rfl
@[simp] theorem State.modLaunch_eccOne (s : State) (k : Nat) (f : Launch → Launch) : (s.modLaunch k f).eccOne = s.eccOne := rfl
@[simp] theorem State.modLaunch_poison (s : State) (k : Nat) (f : Launch → Launch) : (s.modLaunch k f).poison = s.poison := rfl
@[simp] theorem State.modLaunch_cores (s : State) (k : Nat) (f : Launch → Launch) : (s.modLaunch k f).cores = s.cores := rfl
@[simp] theorem State.modLaunch_loft (s : State) (k : Nat) (f : Launch → Launch) : (s.modLaunch k f).loft = s.loft := rfl
@[simp] theorem State.modLaunch_resumeList (s : State) (k : Nat) (f : Launch → Launch) : (s.modLaunch k f).resumeList = s.resumeList := rfl
@[simp] theorem State.modLaunch_queues (s : State) (k : Nat) (f : Launch → Launch) : (s.modLaunch k f).queues = s.queues := rfl
@[simp] theorem State.modLaunch_served (s : State) (k : Nat) (f : Launch → Launch) : (s.modLaunch k f).served = s.served := rfl
@[simp] theorem State.modLaunch_rings (s : State) (k : Nat) (f : Launch → Launch) : (s.modLaunch k f).rings = s.rings := rfl
@[simp] theorem State.modLaunch_ready (s : State) (k : Nat) (f : Launch → Launch) : (s.modLaunch k f).ready = s.ready := rfl
@[simp] theorem State.modLaunch_cxl (s : State) (k : Nat) (f : Launch → Launch) : (s.modLaunch k f).cxl = s.cxl := rfl
@[simp] theorem State.modLaunch_wear (s : State) (k : Nat) (f : Launch → Launch) : (s.modLaunch k f).wear = s.wear := rfl
@[simp] theorem State.modLaunch_defect (s : State) (k : Nat) (f : Launch → Launch) : (s.modLaunch k f).defect = s.defect := rfl
@[simp] theorem State.modLaunch_banks (s : State) (k : Nat) (f : Launch → Launch) : (s.modLaunch k f).banks = s.banks := rfl
@[simp] theorem State.modLaunch_subst (s : State) (k : Nat) (f : Launch → Launch) : (s.modLaunch k f).subst = s.subst := rfl
@[simp] theorem State.modLaunch_invalVa (s : State) (k : Nat) (f : Launch → Launch) : (s.modLaunch k f).invalVa = s.invalVa := rfl
@[simp] theorem State.modLaunch_inval (s : State) (k : Nat) (f : Launch → Launch) : (s.modLaunch k f).inval = s.inval := rfl
@[simp] theorem State.modLaunch_invalDone (s : State) (k : Nat) (f : Launch → Launch) : (s.modLaunch k f).invalDone = s.invalDone := rfl
@[simp] theorem State.modLaunch_logs (s : State) (k : Nat) (f : Launch → Launch) : (s.modLaunch k f).logs = s.logs := rfl
@[simp] theorem State.modLaunch_attest (s : State) (k : Nat) (f : Launch → Launch) : (s.modLaunch k f).attest = s.attest := rfl
@[simp] theorem State.modLaunch_fuses (s : State) (k : Nat) (f : Launch → Launch) : (s.modLaunch k f).fuses = s.fuses := rfl
@[simp] theorem State.modLaunch_images (s : State) (k : Nat) (f : Launch → Launch) : (s.modLaunch k f).images = s.images := rfl
@[simp] theorem State.modLaunch_svlMap (s : State) (k : Nat) (f : Launch → Launch) : (s.modLaunch k f).svlMap = s.svlMap := rfl
@[simp] theorem State.modLaunch_svlRetry (s : State) (k : Nat) (f : Launch → Launch) : (s.modLaunch k f).svlRetry = s.svlRetry := rfl
@[simp] theorem State.modLaunch_hostPending (s : State) (k : Nat) (f : Launch → Launch) : (s.modLaunch k f).hostPending = s.hostPending := rfl
@[simp] theorem State.modLaunch_counts (s : State) (k : Nat) (f : Launch → Launch) : (s.modLaunch k f).counts = s.counts := rfl
@[simp] theorem State.modLaunch_acked (s : State) (k : Nat) (f : Launch → Launch) : (s.modLaunch k f).acked = s.acked := rfl
@[simp] theorem State.modLaunch_retired (s : State) (k : Nat) (f : Launch → Launch) : (s.modLaunch k f).retired = s.retired := rfl
@[simp] theorem State.modLaunch_rebasing (s : State) (k : Nat) (f : Launch → Launch) : (s.modLaunch k f).rebasing = s.rebasing := rfl
@[simp] theorem State.modLaunch_tlbs (s : State) (k : Nat) (f : Launch → Launch) : (s.modLaunch k f).tlbs = s.tlbs := rfl
@[simp] theorem State.modLaunch_walks (s : State) (k : Nat) (f : Launch → Launch) : (s.modLaunch k f).walks = s.walks := rfl
@[simp] theorem State.modLaunch_net (s : State) (k : Nat) (f : Launch → Launch) : (s.modLaunch k f).net = s.net := rfl
@[simp] theorem State.modLaunch_hostOut (s : State) (k : Nat) (f : Launch → Launch) : (s.modLaunch k f).hostOut = s.hostOut := rfl
@[simp] theorem State.modLaunch_records (s : State) (k : Nat) (f : Launch → Launch) : (s.modLaunch k f).records = s.records := rfl
@[simp] theorem State.modLaunch_cur (s : State) (k : Nat) (f : Launch → Launch) : (s.modLaunch k f).cur = s.cur := rfl
@[simp] theorem State.modLaunch_agenda (s : State) (k : Nat) (f : Launch → Launch) : (s.modLaunch k f).agenda = s.agenda := rfl
@[simp] theorem State.modLaunch_nextId (s : State) (k : Nat) (f : Launch → Launch) : (s.modLaunch k f).nextId = s.nextId := rfl
@[simp] theorem State.modLaunch_beat (s : State) (k : Nat) (f : Launch → Launch) : (s.modLaunch k f).beat = s.beat := rfl

@[simp] theorem State.setPacket_mem (s : State) (p : Packet) : (s.setPacket p).mem = s.mem := rfl
@[simp] theorem State.setPacket_eccBad (s : State) (p : Packet) : (s.setPacket p).eccBad = s.eccBad := rfl
@[simp] theorem State.setPacket_eccOne (s : State) (p : Packet) : (s.setPacket p).eccOne = s.eccOne := rfl
@[simp] theorem State.setPacket_poison (s : State) (p : Packet) : (s.setPacket p).poison = s.poison := rfl
@[simp] theorem State.setPacket_cores (s : State) (p : Packet) : (s.setPacket p).cores = s.cores := rfl
@[simp] theorem State.setPacket_loft (s : State) (p : Packet) : (s.setPacket p).loft = s.loft := rfl
@[simp] theorem State.setPacket_launches (s : State) (p : Packet) : (s.setPacket p).launches = s.launches := rfl
@[simp] theorem State.setPacket_resumeList (s : State) (p : Packet) : (s.setPacket p).resumeList = s.resumeList := rfl
@[simp] theorem State.setPacket_queues (s : State) (p : Packet) : (s.setPacket p).queues = s.queues := rfl
@[simp] theorem State.setPacket_served (s : State) (p : Packet) : (s.setPacket p).served = s.served := rfl
@[simp] theorem State.setPacket_rings (s : State) (p : Packet) : (s.setPacket p).rings = s.rings := rfl
@[simp] theorem State.setPacket_ready (s : State) (p : Packet) : (s.setPacket p).ready = s.ready := rfl
@[simp] theorem State.setPacket_cxl (s : State) (p : Packet) : (s.setPacket p).cxl = s.cxl := rfl
@[simp] theorem State.setPacket_wear (s : State) (p : Packet) : (s.setPacket p).wear = s.wear := rfl
@[simp] theorem State.setPacket_defect (s : State) (p : Packet) : (s.setPacket p).defect = s.defect := rfl
@[simp] theorem State.setPacket_banks (s : State) (p : Packet) : (s.setPacket p).banks = s.banks := rfl
@[simp] theorem State.setPacket_subst (s : State) (p : Packet) : (s.setPacket p).subst = s.subst := rfl
@[simp] theorem State.setPacket_invalVa (s : State) (p : Packet) : (s.setPacket p).invalVa = s.invalVa := rfl
@[simp] theorem State.setPacket_inval (s : State) (p : Packet) : (s.setPacket p).inval = s.inval := rfl
@[simp] theorem State.setPacket_invalDone (s : State) (p : Packet) : (s.setPacket p).invalDone = s.invalDone := rfl
@[simp] theorem State.setPacket_logs (s : State) (p : Packet) : (s.setPacket p).logs = s.logs := rfl
@[simp] theorem State.setPacket_attest (s : State) (p : Packet) : (s.setPacket p).attest = s.attest := rfl
@[simp] theorem State.setPacket_fuses (s : State) (p : Packet) : (s.setPacket p).fuses = s.fuses := rfl
@[simp] theorem State.setPacket_images (s : State) (p : Packet) : (s.setPacket p).images = s.images := rfl
@[simp] theorem State.setPacket_svlMap (s : State) (p : Packet) : (s.setPacket p).svlMap = s.svlMap := rfl
@[simp] theorem State.setPacket_svlRetry (s : State) (p : Packet) : (s.setPacket p).svlRetry = s.svlRetry := rfl
@[simp] theorem State.setPacket_hostPending (s : State) (p : Packet) : (s.setPacket p).hostPending = s.hostPending := rfl
@[simp] theorem State.setPacket_counts (s : State) (p : Packet) : (s.setPacket p).counts = s.counts := rfl
@[simp] theorem State.setPacket_acked (s : State) (p : Packet) : (s.setPacket p).acked = s.acked := rfl
@[simp] theorem State.setPacket_retired (s : State) (p : Packet) : (s.setPacket p).retired = s.retired := rfl
@[simp] theorem State.setPacket_rebasing (s : State) (p : Packet) : (s.setPacket p).rebasing = s.rebasing := rfl
@[simp] theorem State.setPacket_tlbs (s : State) (p : Packet) : (s.setPacket p).tlbs = s.tlbs := rfl
@[simp] theorem State.setPacket_walks (s : State) (p : Packet) : (s.setPacket p).walks = s.walks := rfl
@[simp] theorem State.setPacket_hostOut (s : State) (p : Packet) : (s.setPacket p).hostOut = s.hostOut := rfl
@[simp] theorem State.setPacket_records (s : State) (p : Packet) : (s.setPacket p).records = s.records := rfl
@[simp] theorem State.setPacket_cur (s : State) (p : Packet) : (s.setPacket p).cur = s.cur := rfl
@[simp] theorem State.setPacket_agenda (s : State) (p : Packet) : (s.setPacket p).agenda = s.agenda := rfl
@[simp] theorem State.setPacket_nextId (s : State) (p : Packet) : (s.setPacket p).nextId = s.nextId := rfl
@[simp] theorem State.setPacket_beat (s : State) (p : Packet) : (s.setPacket p).beat = s.beat := rfl

@[simp] theorem State.dropPacket_mem (s : State) (n : Nat) : (s.dropPacket n).mem = s.mem := rfl
@[simp] theorem State.dropPacket_eccBad (s : State) (n : Nat) : (s.dropPacket n).eccBad = s.eccBad := rfl
@[simp] theorem State.dropPacket_eccOne (s : State) (n : Nat) : (s.dropPacket n).eccOne = s.eccOne := rfl
@[simp] theorem State.dropPacket_poison (s : State) (n : Nat) : (s.dropPacket n).poison = s.poison := rfl
@[simp] theorem State.dropPacket_cores (s : State) (n : Nat) : (s.dropPacket n).cores = s.cores := rfl
@[simp] theorem State.dropPacket_loft (s : State) (n : Nat) : (s.dropPacket n).loft = s.loft := rfl
@[simp] theorem State.dropPacket_launches (s : State) (n : Nat) : (s.dropPacket n).launches = s.launches := rfl
@[simp] theorem State.dropPacket_resumeList (s : State) (n : Nat) : (s.dropPacket n).resumeList = s.resumeList := rfl
@[simp] theorem State.dropPacket_queues (s : State) (n : Nat) : (s.dropPacket n).queues = s.queues := rfl
@[simp] theorem State.dropPacket_served (s : State) (n : Nat) : (s.dropPacket n).served = s.served := rfl
@[simp] theorem State.dropPacket_rings (s : State) (n : Nat) : (s.dropPacket n).rings = s.rings := rfl
@[simp] theorem State.dropPacket_ready (s : State) (n : Nat) : (s.dropPacket n).ready = s.ready := rfl
@[simp] theorem State.dropPacket_cxl (s : State) (n : Nat) : (s.dropPacket n).cxl = s.cxl := rfl
@[simp] theorem State.dropPacket_wear (s : State) (n : Nat) : (s.dropPacket n).wear = s.wear := rfl
@[simp] theorem State.dropPacket_defect (s : State) (n : Nat) : (s.dropPacket n).defect = s.defect := rfl
@[simp] theorem State.dropPacket_banks (s : State) (n : Nat) : (s.dropPacket n).banks = s.banks := rfl
@[simp] theorem State.dropPacket_subst (s : State) (n : Nat) : (s.dropPacket n).subst = s.subst := rfl
@[simp] theorem State.dropPacket_invalVa (s : State) (n : Nat) : (s.dropPacket n).invalVa = s.invalVa := rfl
@[simp] theorem State.dropPacket_inval (s : State) (n : Nat) : (s.dropPacket n).inval = s.inval := rfl
@[simp] theorem State.dropPacket_invalDone (s : State) (n : Nat) : (s.dropPacket n).invalDone = s.invalDone := rfl
@[simp] theorem State.dropPacket_logs (s : State) (n : Nat) : (s.dropPacket n).logs = s.logs := rfl
@[simp] theorem State.dropPacket_attest (s : State) (n : Nat) : (s.dropPacket n).attest = s.attest := rfl
@[simp] theorem State.dropPacket_fuses (s : State) (n : Nat) : (s.dropPacket n).fuses = s.fuses := rfl
@[simp] theorem State.dropPacket_images (s : State) (n : Nat) : (s.dropPacket n).images = s.images := rfl
@[simp] theorem State.dropPacket_svlMap (s : State) (n : Nat) : (s.dropPacket n).svlMap = s.svlMap := rfl
@[simp] theorem State.dropPacket_svlRetry (s : State) (n : Nat) : (s.dropPacket n).svlRetry = s.svlRetry := rfl
@[simp] theorem State.dropPacket_hostPending (s : State) (n : Nat) : (s.dropPacket n).hostPending = s.hostPending := rfl
@[simp] theorem State.dropPacket_counts (s : State) (n : Nat) : (s.dropPacket n).counts = s.counts := rfl
@[simp] theorem State.dropPacket_acked (s : State) (n : Nat) : (s.dropPacket n).acked = s.acked := rfl
@[simp] theorem State.dropPacket_retired (s : State) (n : Nat) : (s.dropPacket n).retired = s.retired := rfl
@[simp] theorem State.dropPacket_rebasing (s : State) (n : Nat) : (s.dropPacket n).rebasing = s.rebasing := rfl
@[simp] theorem State.dropPacket_tlbs (s : State) (n : Nat) : (s.dropPacket n).tlbs = s.tlbs := rfl
@[simp] theorem State.dropPacket_walks (s : State) (n : Nat) : (s.dropPacket n).walks = s.walks := rfl
@[simp] theorem State.dropPacket_hostOut (s : State) (n : Nat) : (s.dropPacket n).hostOut = s.hostOut := rfl
@[simp] theorem State.dropPacket_records (s : State) (n : Nat) : (s.dropPacket n).records = s.records := rfl
@[simp] theorem State.dropPacket_cur (s : State) (n : Nat) : (s.dropPacket n).cur = s.cur := rfl
@[simp] theorem State.dropPacket_agenda (s : State) (n : Nat) : (s.dropPacket n).agenda = s.agenda := rfl
@[simp] theorem State.dropPacket_nextId (s : State) (n : Nat) : (s.dropPacket n).nextId = s.nextId := rfl
@[simp] theorem State.dropPacket_beat (s : State) (n : Nat) : (s.dropPacket n).beat = s.beat := rfl

/-! ## Reads after updates of the package -/

theorem State.core_setCore (s : State) (c d : Nat) (k : Core) :
    (s.setCore c k).core d = if c = d then k else s.core d := mapGet_mapSet _ _ _ _ _

@[simp] theorem State.core_setCore_same (s : State) (c : Nat) (k : Core) : (s.setCore c k).core c = k := by
  simp [State.core_setCore]

theorem State.core_modCore (s : State) (c d : Nat) (f : Core → Core) :
    (s.modCore c f).core d = if c = d then f (s.core c) else s.core d := State.core_setCore _ _ _ _

@[simp] theorem State.core_modCore_same (s : State) (c : Nat) (f : Core → Core) :
    (s.modCore c f).core c = f (s.core c) := by simp [State.core_modCore]

theorem State.core_modCore_other (s : State) (c d : Nat) (f : Core → Core) (h : c ≠ d) :
    (s.modCore c f).core d = s.core d := by simp [State.core_modCore, h]

@[simp] theorem State.me_modMe (s : State) (f : Core → Core) : (s.modMe f).me = f s.me :=
  State.core_modCore_same _ _ _

theorem State.core_modMe (s : State) (c : Nat) (f : Core → Core) :
    (s.modMe f).core c = if s.cur = c then f s.me else s.core c := State.core_modCore _ _ _ _

theorem State.core_modMe_other (s : State) (c : Nat) (f : Core → Core) (h : s.cur ≠ c) :
    (s.modMe f).core c = s.core c := State.core_modCore_other _ _ _ _ h

@[simp] theorem State.core_setEntry (s : State) (c n d : Nat) (e : LoftEntry) : (s.setEntry c n e).core d = s.core d := rfl
@[simp] theorem State.core_setLaunch (s : State) (l : Launch) (d : Nat) : (s.setLaunch l).core d = s.core d := rfl
@[simp] theorem State.core_modLaunch (s : State) (k : Nat) (f : Launch → Launch) (d : Nat) :
    (s.modLaunch k f).core d = s.core d := rfl
@[simp] theorem State.core_setPacket (s : State) (p : Packet) (d : Nat) : (s.setPacket p).core d = s.core d := rfl
@[simp] theorem State.core_dropPacket (s : State) (n : Nat) (d : Nat) : (s.dropPacket n).core d = s.core d := rfl
@[simp] theorem State.entry_modCore (s : State) (c : Nat) (f : Core → Core) (d n : Nat) :
    (s.modCore c f).entry d n = s.entry d n := rfl
@[simp] theorem State.entry_setEntry_same (s : State) (c n : Nat) (e : LoftEntry) : (s.setEntry c n e).entry c n = e :=
  mapGet_mapSet_same _ _ _ _

/-- Two updates of one core are one. -/
@[simp] theorem State.modCore_modCore (s : State) (c : Nat) (f g : Core → Core) :
    (s.modCore c f).modCore c g = s.modCore c fun k => g (f k) := by
  simp [State.modCore, State.setCore, State.core, mapSet_mapSet]

@[simp] theorem State.modMe_modMe (s : State) (f g : Core → Core) :
    (s.modMe f).modMe g = s.modMe fun k => g (f k) := State.modCore_modCore _ _ _ _

theorem State.advance_eq (s : State) (n : Nat) : s.advance n = s.modMe fun k => k.advance n := rfl
theorem State.wait_eq (s : State) : s.wait = s.modMe fun k => { k with stall := true } := rfl
@[simp] theorem State.advance_mem (s : State) (n : Nat) : (s.advance n).mem = s.mem := rfl
@[simp] theorem State.wait_mem (s : State) : s.wait.mem = s.mem := rfl
@[simp] theorem State.advance_cur (s : State) (n : Nat) : (s.advance n).cur = s.cur := rfl
@[simp] theorem State.wait_cur (s : State) : s.wait.cur = s.cur := rfl

/-! ## Updates of a core -/

@[simp] theorem Core.setG_run (k : Core) (r : Reg) (w : Word) : (k.setG r w).run = k.run := by unfold Core.setG; split <;> rfl
@[simp] theorem Core.setG_launch (k : Core) (r : Reg) (w : Word) : (k.setG r w).launch = k.launch := by unfold Core.setG; split <;> rfl
@[simp] theorem Core.setG_ctx (k : Core) (r : Reg) (w : Word) : (k.setG r w).ctx = k.ctx := by unfold Core.setG; split <;> rfl
@[simp] theorem Core.setG_pc (k : Core) (r : Reg) (w : Word) : (k.setG r w).pc = k.pc := by unfold Core.setG; split <;> rfl
@[simp] theorem Core.setG_gfull (k : Core) (r : Reg) (w : Word) : (k.setG r w).gfull = k.gfull := by unfold Core.setG; split <;> rfl
@[simp] theorem Core.setG_v (k : Core) (r : Reg) (w : Word) : (k.setG r w).v = k.v := by unfold Core.setG; split <;> rfl
@[simp] theorem Core.setG_vfull (k : Core) (r : Reg) (w : Word) : (k.setG r w).vfull = k.vfull := by unfold Core.setG; split <;> rfl
@[simp] theorem Core.setG_m (k : Core) (r : Reg) (w : Word) : (k.setG r w).m = k.m := by unfold Core.setG; split <;> rfl
@[simp] theorem Core.setG_fcsr (k : Core) (r : Reg) (w : Word) : (k.setG r w).fcsr = k.fcsr := by unfold Core.setG; split <;> rfl
@[simp] theorem Core.setG_jord (k : Core) (r : Reg) (w : Word) : (k.setG r w).jord = k.jord := by unfold Core.setG; split <;> rfl
@[simp] theorem Core.setG_jfl (k : Core) (r : Reg) (w : Word) : (k.setG r w).jfl = k.jfl := by unfold Core.setG; split <;> rfl
@[simp] theorem Core.setG_vstat (k : Core) (r : Reg) (w : Word) : (k.setG r w).vstat = k.vstat := by unfold Core.setG; split <;> rfl
@[simp] theorem Core.setG_gidx (k : Core) (r : Reg) (w : Word) : (k.setG r w).gidx = k.gidx := by unfold Core.setG; split <;> rfl
@[simp] theorem Core.setG_nroute (k : Core) (r : Reg) (w : Word) : (k.setG r w).nroute = k.nroute := by unfold Core.setG; split <;> rfl
@[simp] theorem Core.setG_srkey (k : Core) (r : Reg) (w : Word) : (k.setG r w).srkey = k.srkey := by unfold Core.setG; split <;> rfl
@[simp] theorem Core.setG_tcause (k : Core) (r : Reg) (w : Word) : (k.setG r w).tcause = k.tcause := by unfold Core.setG; split <;> rfl
@[simp] theorem Core.setG_tval (k : Core) (r : Reg) (w : Word) : (k.setG r w).tval = k.tval := by unfold Core.setG; split <;> rfl
@[simp] theorem Core.setG_tpc (k : Core) (r : Reg) (w : Word) : (k.setG r w).tpc = k.tpc := by unfold Core.setG; split <;> rfl
@[simp] theorem Core.setG_usc (k : Core) (r : Reg) (w : Word) : (k.setG r w).usc = k.usc := by unfold Core.setG; split <;> rfl
@[simp] theorem Core.setG_lstat (k : Core) (r : Reg) (w : Word) : (k.setG r w).lstat = k.lstat := by unfold Core.setG; split <;> rfl
@[simp] theorem Core.setG_acc (k : Core) (r : Reg) (w : Word) : (k.setG r w).acc = k.acc := by unfold Core.setG; split <;> rfl
@[simp] theorem Core.setG_queues (k : Core) (r : Reg) (w : Word) : (k.setG r w).queues = k.queues := by unfold Core.setG; split <;> rfl
@[simp] theorem Core.setG_mqueue (k : Core) (r : Reg) (w : Word) : (k.setG r w).mqueue = k.mqueue := by unfold Core.setG; split <;> rfl
@[simp] theorem Core.setG_qwaits (k : Core) (r : Reg) (w : Word) : (k.setG r w).qwaits = k.qwaits := by unfold Core.setG; split <;> rfl
@[simp] theorem Core.setG_force (k : Core) (r : Reg) (w : Word) : (k.setG r w).force = k.force := by unfold Core.setG; split <;> rfl
@[simp] theorem Core.setG_sparks (k : Core) (r : Reg) (w : Word) : (k.setG r w).sparks = k.sparks := by unfold Core.setG; split <;> rfl
@[simp] theorem Core.setG_deque (k : Core) (r : Reg) (w : Word) : (k.setG r w).deque = k.deque := by unfold Core.setG; split <;> rfl
@[simp] theorem Core.setG_lfsr (k : Core) (r : Reg) (w : Word) : (k.setG r w).lfsr = k.lfsr := by unfold Core.setG; split <;> rfl
@[simp] theorem Core.setG_glean (k : Core) (r : Reg) (w : Word) : (k.setG r w).glean = k.glean := by unfold Core.setG; split <;> rfl
@[simp] theorem Core.setG_ctop (k : Core) (r : Reg) (w : Word) : (k.setG r w).ctop = k.ctop := by unfold Core.setG; split <;> rfl
@[simp] theorem Core.setG_sp (k : Core) (r : Reg) (w : Word) : (k.setG r w).sp = k.sp := by unfold Core.setG; split <;> rfl
@[simp] theorem Core.setG_midway (k : Core) (r : Reg) (w : Word) : (k.setG r w).midway = k.midway := by unfold Core.setG; split <;> rfl
@[simp] theorem Core.setG_groups (k : Core) (r : Reg) (w : Word) : (k.setG r w).groups = k.groups := by unfold Core.setG; split <;> rfl
@[simp] theorem Core.setG_pending (k : Core) (r : Reg) (w : Word) : (k.setG r w).pending = k.pending := by unfold Core.setG; split <;> rfl
@[simp] theorem Core.setG_haltReq (k : Core) (r : Reg) (w : Word) : (k.setG r w).haltReq = k.haltReq := by unfold Core.setG; split <;> rfl
@[simp] theorem Core.setG_debugger (k : Core) (r : Reg) (w : Word) : (k.setG r w).debugger = k.debugger := by unfold Core.setG; split <;> rfl
@[simp] theorem Core.setG_preemptReq (k : Core) (r : Reg) (w : Word) : (k.setG r w).preemptReq = k.preemptReq := by unfold Core.setG; split <;> rfl
@[simp] theorem Core.setG_withdrawn (k : Core) (r : Reg) (w : Word) : (k.setG r w).withdrawn = k.withdrawn := by unfold Core.setG; split <;> rfl
@[simp] theorem Core.setG_headerDue (k : Core) (r : Reg) (w : Word) : (k.setG r w).headerDue = k.headerDue := by unfold Core.setG; split <;> rfl
@[simp] theorem Core.setG_gangWait (k : Core) (r : Reg) (w : Word) : (k.setG r w).gangWait = k.gangWait := by unfold Core.setG; split <;> rfl
@[simp] theorem Core.setG_holdAtom (k : Core) (r : Reg) (w : Word) : (k.setG r w).holdAtom = k.holdAtom := by unfold Core.setG; split <;> rfl
@[simp] theorem Core.setG_holdFence (k : Core) (r : Reg) (w : Word) : (k.setG r w).holdFence = k.holdFence := by unfold Core.setG; split <;> rfl
@[simp] theorem Core.setG_svlPorts (k : Core) (r : Reg) (w : Word) : (k.setG r w).svlPorts = k.svlPorts := by unfold Core.setG; split <;> rfl
@[simp] theorem Core.setG_tlb (k : Core) (r : Reg) (w : Word) : (k.setG r w).tlb = k.tlb := by unfold Core.setG; split <;> rfl
@[simp] theorem Core.setG_ends (k : Core) (r : Reg) (w : Word) : (k.setG r w).ends = k.ends := by unfold Core.setG; split <;> rfl
@[simp] theorem Core.setG_stall (k : Core) (r : Reg) (w : Word) : (k.setG r w).stall = k.stall := by unfold Core.setG; split <;> rfl

@[simp] theorem Core.setV_run (k : Core) (r : Reg) (x : VReg) : (k.setV r x).run = k.run := rfl
@[simp] theorem Core.setV_launch (k : Core) (r : Reg) (x : VReg) : (k.setV r x).launch = k.launch := rfl
@[simp] theorem Core.setV_ctx (k : Core) (r : Reg) (x : VReg) : (k.setV r x).ctx = k.ctx := rfl
@[simp] theorem Core.setV_pc (k : Core) (r : Reg) (x : VReg) : (k.setV r x).pc = k.pc := rfl
@[simp] theorem Core.setV_g (k : Core) (r : Reg) (x : VReg) : (k.setV r x).g = k.g := rfl
@[simp] theorem Core.setV_gfull (k : Core) (r : Reg) (x : VReg) : (k.setV r x).gfull = k.gfull := rfl
@[simp] theorem Core.setV_vfull (k : Core) (r : Reg) (x : VReg) : (k.setV r x).vfull = k.vfull := rfl
@[simp] theorem Core.setV_m (k : Core) (r : Reg) (x : VReg) : (k.setV r x).m = k.m := rfl
@[simp] theorem Core.setV_fcsr (k : Core) (r : Reg) (x : VReg) : (k.setV r x).fcsr = k.fcsr := rfl
@[simp] theorem Core.setV_jord (k : Core) (r : Reg) (x : VReg) : (k.setV r x).jord = k.jord := rfl
@[simp] theorem Core.setV_jfl (k : Core) (r : Reg) (x : VReg) : (k.setV r x).jfl = k.jfl := rfl
@[simp] theorem Core.setV_vstat (k : Core) (r : Reg) (x : VReg) : (k.setV r x).vstat = k.vstat := rfl
@[simp] theorem Core.setV_gidx (k : Core) (r : Reg) (x : VReg) : (k.setV r x).gidx = k.gidx := rfl
@[simp] theorem Core.setV_nroute (k : Core) (r : Reg) (x : VReg) : (k.setV r x).nroute = k.nroute := rfl
@[simp] theorem Core.setV_srkey (k : Core) (r : Reg) (x : VReg) : (k.setV r x).srkey = k.srkey := rfl
@[simp] theorem Core.setV_tcause (k : Core) (r : Reg) (x : VReg) : (k.setV r x).tcause = k.tcause := rfl
@[simp] theorem Core.setV_tval (k : Core) (r : Reg) (x : VReg) : (k.setV r x).tval = k.tval := rfl
@[simp] theorem Core.setV_tpc (k : Core) (r : Reg) (x : VReg) : (k.setV r x).tpc = k.tpc := rfl
@[simp] theorem Core.setV_usc (k : Core) (r : Reg) (x : VReg) : (k.setV r x).usc = k.usc := rfl
@[simp] theorem Core.setV_lstat (k : Core) (r : Reg) (x : VReg) : (k.setV r x).lstat = k.lstat := rfl
@[simp] theorem Core.setV_acc (k : Core) (r : Reg) (x : VReg) : (k.setV r x).acc = k.acc := rfl
@[simp] theorem Core.setV_queues (k : Core) (r : Reg) (x : VReg) : (k.setV r x).queues = k.queues := rfl
@[simp] theorem Core.setV_mqueue (k : Core) (r : Reg) (x : VReg) : (k.setV r x).mqueue = k.mqueue := rfl
@[simp] theorem Core.setV_qwaits (k : Core) (r : Reg) (x : VReg) : (k.setV r x).qwaits = k.qwaits := rfl
@[simp] theorem Core.setV_force (k : Core) (r : Reg) (x : VReg) : (k.setV r x).force = k.force := rfl
@[simp] theorem Core.setV_sparks (k : Core) (r : Reg) (x : VReg) : (k.setV r x).sparks = k.sparks := rfl
@[simp] theorem Core.setV_deque (k : Core) (r : Reg) (x : VReg) : (k.setV r x).deque = k.deque := rfl
@[simp] theorem Core.setV_lfsr (k : Core) (r : Reg) (x : VReg) : (k.setV r x).lfsr = k.lfsr := rfl
@[simp] theorem Core.setV_glean (k : Core) (r : Reg) (x : VReg) : (k.setV r x).glean = k.glean := rfl
@[simp] theorem Core.setV_ctop (k : Core) (r : Reg) (x : VReg) : (k.setV r x).ctop = k.ctop := rfl
@[simp] theorem Core.setV_sp (k : Core) (r : Reg) (x : VReg) : (k.setV r x).sp = k.sp := rfl
@[simp] theorem Core.setV_midway (k : Core) (r : Reg) (x : VReg) : (k.setV r x).midway = k.midway := rfl
@[simp] theorem Core.setV_groups (k : Core) (r : Reg) (x : VReg) : (k.setV r x).groups = k.groups := rfl
@[simp] theorem Core.setV_pending (k : Core) (r : Reg) (x : VReg) : (k.setV r x).pending = k.pending := rfl
@[simp] theorem Core.setV_haltReq (k : Core) (r : Reg) (x : VReg) : (k.setV r x).haltReq = k.haltReq := rfl
@[simp] theorem Core.setV_debugger (k : Core) (r : Reg) (x : VReg) : (k.setV r x).debugger = k.debugger := rfl
@[simp] theorem Core.setV_preemptReq (k : Core) (r : Reg) (x : VReg) : (k.setV r x).preemptReq = k.preemptReq := rfl
@[simp] theorem Core.setV_withdrawn (k : Core) (r : Reg) (x : VReg) : (k.setV r x).withdrawn = k.withdrawn := rfl
@[simp] theorem Core.setV_headerDue (k : Core) (r : Reg) (x : VReg) : (k.setV r x).headerDue = k.headerDue := rfl
@[simp] theorem Core.setV_gangWait (k : Core) (r : Reg) (x : VReg) : (k.setV r x).gangWait = k.gangWait := rfl
@[simp] theorem Core.setV_holdAtom (k : Core) (r : Reg) (x : VReg) : (k.setV r x).holdAtom = k.holdAtom := rfl
@[simp] theorem Core.setV_holdFence (k : Core) (r : Reg) (x : VReg) : (k.setV r x).holdFence = k.holdFence := rfl
@[simp] theorem Core.setV_svlPorts (k : Core) (r : Reg) (x : VReg) : (k.setV r x).svlPorts = k.svlPorts := rfl
@[simp] theorem Core.setV_tlb (k : Core) (r : Reg) (x : VReg) : (k.setV r x).tlb = k.tlb := rfl
@[simp] theorem Core.setV_ends (k : Core) (r : Reg) (x : VReg) : (k.setV r x).ends = k.ends := rfl
@[simp] theorem Core.setV_stall (k : Core) (r : Reg) (x : VReg) : (k.setV r x).stall = k.stall := rfl

@[simp] theorem Core.setM_run (k : Core) (r : MReg) (x : Word32) : (k.setM r x).run = k.run := by unfold Core.setM; split <;> rfl
@[simp] theorem Core.setM_launch (k : Core) (r : MReg) (x : Word32) : (k.setM r x).launch = k.launch := by unfold Core.setM; split <;> rfl
@[simp] theorem Core.setM_ctx (k : Core) (r : MReg) (x : Word32) : (k.setM r x).ctx = k.ctx := by unfold Core.setM; split <;> rfl
@[simp] theorem Core.setM_pc (k : Core) (r : MReg) (x : Word32) : (k.setM r x).pc = k.pc := by unfold Core.setM; split <;> rfl
@[simp] theorem Core.setM_g (k : Core) (r : MReg) (x : Word32) : (k.setM r x).g = k.g := by unfold Core.setM; split <;> rfl
@[simp] theorem Core.setM_gfull (k : Core) (r : MReg) (x : Word32) : (k.setM r x).gfull = k.gfull := by unfold Core.setM; split <;> rfl
@[simp] theorem Core.setM_v (k : Core) (r : MReg) (x : Word32) : (k.setM r x).v = k.v := by unfold Core.setM; split <;> rfl
@[simp] theorem Core.setM_vfull (k : Core) (r : MReg) (x : Word32) : (k.setM r x).vfull = k.vfull := by unfold Core.setM; split <;> rfl
@[simp] theorem Core.setM_fcsr (k : Core) (r : MReg) (x : Word32) : (k.setM r x).fcsr = k.fcsr := by unfold Core.setM; split <;> rfl
@[simp] theorem Core.setM_jord (k : Core) (r : MReg) (x : Word32) : (k.setM r x).jord = k.jord := by unfold Core.setM; split <;> rfl
@[simp] theorem Core.setM_jfl (k : Core) (r : MReg) (x : Word32) : (k.setM r x).jfl = k.jfl := by unfold Core.setM; split <;> rfl
@[simp] theorem Core.setM_vstat (k : Core) (r : MReg) (x : Word32) : (k.setM r x).vstat = k.vstat := by unfold Core.setM; split <;> rfl
@[simp] theorem Core.setM_gidx (k : Core) (r : MReg) (x : Word32) : (k.setM r x).gidx = k.gidx := by unfold Core.setM; split <;> rfl
@[simp] theorem Core.setM_nroute (k : Core) (r : MReg) (x : Word32) : (k.setM r x).nroute = k.nroute := by unfold Core.setM; split <;> rfl
@[simp] theorem Core.setM_srkey (k : Core) (r : MReg) (x : Word32) : (k.setM r x).srkey = k.srkey := by unfold Core.setM; split <;> rfl
@[simp] theorem Core.setM_tcause (k : Core) (r : MReg) (x : Word32) : (k.setM r x).tcause = k.tcause := by unfold Core.setM; split <;> rfl
@[simp] theorem Core.setM_tval (k : Core) (r : MReg) (x : Word32) : (k.setM r x).tval = k.tval := by unfold Core.setM; split <;> rfl
@[simp] theorem Core.setM_tpc (k : Core) (r : MReg) (x : Word32) : (k.setM r x).tpc = k.tpc := by unfold Core.setM; split <;> rfl
@[simp] theorem Core.setM_usc (k : Core) (r : MReg) (x : Word32) : (k.setM r x).usc = k.usc := by unfold Core.setM; split <;> rfl
@[simp] theorem Core.setM_lstat (k : Core) (r : MReg) (x : Word32) : (k.setM r x).lstat = k.lstat := by unfold Core.setM; split <;> rfl
@[simp] theorem Core.setM_acc (k : Core) (r : MReg) (x : Word32) : (k.setM r x).acc = k.acc := by unfold Core.setM; split <;> rfl
@[simp] theorem Core.setM_queues (k : Core) (r : MReg) (x : Word32) : (k.setM r x).queues = k.queues := by unfold Core.setM; split <;> rfl
@[simp] theorem Core.setM_mqueue (k : Core) (r : MReg) (x : Word32) : (k.setM r x).mqueue = k.mqueue := by unfold Core.setM; split <;> rfl
@[simp] theorem Core.setM_qwaits (k : Core) (r : MReg) (x : Word32) : (k.setM r x).qwaits = k.qwaits := by unfold Core.setM; split <;> rfl
@[simp] theorem Core.setM_force (k : Core) (r : MReg) (x : Word32) : (k.setM r x).force = k.force := by unfold Core.setM; split <;> rfl
@[simp] theorem Core.setM_sparks (k : Core) (r : MReg) (x : Word32) : (k.setM r x).sparks = k.sparks := by unfold Core.setM; split <;> rfl
@[simp] theorem Core.setM_deque (k : Core) (r : MReg) (x : Word32) : (k.setM r x).deque = k.deque := by unfold Core.setM; split <;> rfl
@[simp] theorem Core.setM_lfsr (k : Core) (r : MReg) (x : Word32) : (k.setM r x).lfsr = k.lfsr := by unfold Core.setM; split <;> rfl
@[simp] theorem Core.setM_glean (k : Core) (r : MReg) (x : Word32) : (k.setM r x).glean = k.glean := by unfold Core.setM; split <;> rfl
@[simp] theorem Core.setM_ctop (k : Core) (r : MReg) (x : Word32) : (k.setM r x).ctop = k.ctop := by unfold Core.setM; split <;> rfl
@[simp] theorem Core.setM_sp (k : Core) (r : MReg) (x : Word32) : (k.setM r x).sp = k.sp := by unfold Core.setM; split <;> rfl
@[simp] theorem Core.setM_midway (k : Core) (r : MReg) (x : Word32) : (k.setM r x).midway = k.midway := by unfold Core.setM; split <;> rfl
@[simp] theorem Core.setM_groups (k : Core) (r : MReg) (x : Word32) : (k.setM r x).groups = k.groups := by unfold Core.setM; split <;> rfl
@[simp] theorem Core.setM_pending (k : Core) (r : MReg) (x : Word32) : (k.setM r x).pending = k.pending := by unfold Core.setM; split <;> rfl
@[simp] theorem Core.setM_haltReq (k : Core) (r : MReg) (x : Word32) : (k.setM r x).haltReq = k.haltReq := by unfold Core.setM; split <;> rfl
@[simp] theorem Core.setM_debugger (k : Core) (r : MReg) (x : Word32) : (k.setM r x).debugger = k.debugger := by unfold Core.setM; split <;> rfl
@[simp] theorem Core.setM_preemptReq (k : Core) (r : MReg) (x : Word32) : (k.setM r x).preemptReq = k.preemptReq := by unfold Core.setM; split <;> rfl
@[simp] theorem Core.setM_withdrawn (k : Core) (r : MReg) (x : Word32) : (k.setM r x).withdrawn = k.withdrawn := by unfold Core.setM; split <;> rfl
@[simp] theorem Core.setM_headerDue (k : Core) (r : MReg) (x : Word32) : (k.setM r x).headerDue = k.headerDue := by unfold Core.setM; split <;> rfl
@[simp] theorem Core.setM_gangWait (k : Core) (r : MReg) (x : Word32) : (k.setM r x).gangWait = k.gangWait := by unfold Core.setM; split <;> rfl
@[simp] theorem Core.setM_holdAtom (k : Core) (r : MReg) (x : Word32) : (k.setM r x).holdAtom = k.holdAtom := by unfold Core.setM; split <;> rfl
@[simp] theorem Core.setM_holdFence (k : Core) (r : MReg) (x : Word32) : (k.setM r x).holdFence = k.holdFence := by unfold Core.setM; split <;> rfl
@[simp] theorem Core.setM_svlPorts (k : Core) (r : MReg) (x : Word32) : (k.setM r x).svlPorts = k.svlPorts := by unfold Core.setM; split <;> rfl
@[simp] theorem Core.setM_tlb (k : Core) (r : MReg) (x : Word32) : (k.setM r x).tlb = k.tlb := by unfold Core.setM; split <;> rfl
@[simp] theorem Core.setM_ends (k : Core) (r : MReg) (x : Word32) : (k.setM r x).ends = k.ends := by unfold Core.setM; split <;> rfl
@[simp] theorem Core.setM_stall (k : Core) (r : MReg) (x : Word32) : (k.setM r x).stall = k.stall := by unfold Core.setM; split <;> rfl

@[simp] theorem Core.armG_run (k : Core) (r : Reg) : (k.armG r).run = k.run := by unfold Core.armG; split <;> rfl
@[simp] theorem Core.armG_launch (k : Core) (r : Reg) : (k.armG r).launch = k.launch := by unfold Core.armG; split <;> rfl
@[simp] theorem Core.armG_ctx (k : Core) (r : Reg) : (k.armG r).ctx = k.ctx := by unfold Core.armG; split <;> rfl
@[simp] theorem Core.armG_pc (k : Core) (r : Reg) : (k.armG r).pc = k.pc := by unfold Core.armG; split <;> rfl
@[simp] theorem Core.armG_g (k : Core) (r : Reg) : (k.armG r).g = k.g := by unfold Core.armG; split <;> rfl
@[simp] theorem Core.armG_v (k : Core) (r : Reg) : (k.armG r).v = k.v := by unfold Core.armG; split <;> rfl
@[simp] theorem Core.armG_vfull (k : Core) (r : Reg) : (k.armG r).vfull = k.vfull := by unfold Core.armG; split <;> rfl
@[simp] theorem Core.armG_m (k : Core) (r : Reg) : (k.armG r).m = k.m := by unfold Core.armG; split <;> rfl
@[simp] theorem Core.armG_fcsr (k : Core) (r : Reg) : (k.armG r).fcsr = k.fcsr := by unfold Core.armG; split <;> rfl
@[simp] theorem Core.armG_jord (k : Core) (r : Reg) : (k.armG r).jord = k.jord := by unfold Core.armG; split <;> rfl
@[simp] theorem Core.armG_jfl (k : Core) (r : Reg) : (k.armG r).jfl = k.jfl := by unfold Core.armG; split <;> rfl
@[simp] theorem Core.armG_vstat (k : Core) (r : Reg) : (k.armG r).vstat = k.vstat := by unfold Core.armG; split <;> rfl
@[simp] theorem Core.armG_gidx (k : Core) (r : Reg) : (k.armG r).gidx = k.gidx := by unfold Core.armG; split <;> rfl
@[simp] theorem Core.armG_nroute (k : Core) (r : Reg) : (k.armG r).nroute = k.nroute := by unfold Core.armG; split <;> rfl
@[simp] theorem Core.armG_srkey (k : Core) (r : Reg) : (k.armG r).srkey = k.srkey := by unfold Core.armG; split <;> rfl
@[simp] theorem Core.armG_tcause (k : Core) (r : Reg) : (k.armG r).tcause = k.tcause := by unfold Core.armG; split <;> rfl
@[simp] theorem Core.armG_tval (k : Core) (r : Reg) : (k.armG r).tval = k.tval := by unfold Core.armG; split <;> rfl
@[simp] theorem Core.armG_tpc (k : Core) (r : Reg) : (k.armG r).tpc = k.tpc := by unfold Core.armG; split <;> rfl
@[simp] theorem Core.armG_usc (k : Core) (r : Reg) : (k.armG r).usc = k.usc := by unfold Core.armG; split <;> rfl
@[simp] theorem Core.armG_lstat (k : Core) (r : Reg) : (k.armG r).lstat = k.lstat := by unfold Core.armG; split <;> rfl
@[simp] theorem Core.armG_acc (k : Core) (r : Reg) : (k.armG r).acc = k.acc := by unfold Core.armG; split <;> rfl
@[simp] theorem Core.armG_queues (k : Core) (r : Reg) : (k.armG r).queues = k.queues := by unfold Core.armG; split <;> rfl
@[simp] theorem Core.armG_mqueue (k : Core) (r : Reg) : (k.armG r).mqueue = k.mqueue := by unfold Core.armG; split <;> rfl
@[simp] theorem Core.armG_qwaits (k : Core) (r : Reg) : (k.armG r).qwaits = k.qwaits := by unfold Core.armG; split <;> rfl
@[simp] theorem Core.armG_force (k : Core) (r : Reg) : (k.armG r).force = k.force := by unfold Core.armG; split <;> rfl
@[simp] theorem Core.armG_sparks (k : Core) (r : Reg) : (k.armG r).sparks = k.sparks := by unfold Core.armG; split <;> rfl
@[simp] theorem Core.armG_deque (k : Core) (r : Reg) : (k.armG r).deque = k.deque := by unfold Core.armG; split <;> rfl
@[simp] theorem Core.armG_lfsr (k : Core) (r : Reg) : (k.armG r).lfsr = k.lfsr := by unfold Core.armG; split <;> rfl
@[simp] theorem Core.armG_glean (k : Core) (r : Reg) : (k.armG r).glean = k.glean := by unfold Core.armG; split <;> rfl
@[simp] theorem Core.armG_ctop (k : Core) (r : Reg) : (k.armG r).ctop = k.ctop := by unfold Core.armG; split <;> rfl
@[simp] theorem Core.armG_sp (k : Core) (r : Reg) : (k.armG r).sp = k.sp := by unfold Core.armG; split <;> rfl
@[simp] theorem Core.armG_midway (k : Core) (r : Reg) : (k.armG r).midway = k.midway := by unfold Core.armG; split <;> rfl
@[simp] theorem Core.armG_groups (k : Core) (r : Reg) : (k.armG r).groups = k.groups := by unfold Core.armG; split <;> rfl
@[simp] theorem Core.armG_pending (k : Core) (r : Reg) : (k.armG r).pending = k.pending := by unfold Core.armG; split <;> rfl
@[simp] theorem Core.armG_haltReq (k : Core) (r : Reg) : (k.armG r).haltReq = k.haltReq := by unfold Core.armG; split <;> rfl
@[simp] theorem Core.armG_debugger (k : Core) (r : Reg) : (k.armG r).debugger = k.debugger := by unfold Core.armG; split <;> rfl
@[simp] theorem Core.armG_preemptReq (k : Core) (r : Reg) : (k.armG r).preemptReq = k.preemptReq := by unfold Core.armG; split <;> rfl
@[simp] theorem Core.armG_withdrawn (k : Core) (r : Reg) : (k.armG r).withdrawn = k.withdrawn := by unfold Core.armG; split <;> rfl
@[simp] theorem Core.armG_headerDue (k : Core) (r : Reg) : (k.armG r).headerDue = k.headerDue := by unfold Core.armG; split <;> rfl
@[simp] theorem Core.armG_gangWait (k : Core) (r : Reg) : (k.armG r).gangWait = k.gangWait := by unfold Core.armG; split <;> rfl
@[simp] theorem Core.armG_holdAtom (k : Core) (r : Reg) : (k.armG r).holdAtom = k.holdAtom := by unfold Core.armG; split <;> rfl
@[simp] theorem Core.armG_holdFence (k : Core) (r : Reg) : (k.armG r).holdFence = k.holdFence := by unfold Core.armG; split <;> rfl
@[simp] theorem Core.armG_svlPorts (k : Core) (r : Reg) : (k.armG r).svlPorts = k.svlPorts := by unfold Core.armG; split <;> rfl
@[simp] theorem Core.armG_tlb (k : Core) (r : Reg) : (k.armG r).tlb = k.tlb := by unfold Core.armG; split <;> rfl
@[simp] theorem Core.armG_ends (k : Core) (r : Reg) : (k.armG r).ends = k.ends := by unfold Core.armG; split <;> rfl
@[simp] theorem Core.armG_stall (k : Core) (r : Reg) : (k.armG r).stall = k.stall := by unfold Core.armG; split <;> rfl

@[simp] theorem Core.armV_run (k : Core) (r : Reg) : (k.armV r).run = k.run := rfl
@[simp] theorem Core.armV_launch (k : Core) (r : Reg) : (k.armV r).launch = k.launch := rfl
@[simp] theorem Core.armV_ctx (k : Core) (r : Reg) : (k.armV r).ctx = k.ctx := rfl
@[simp] theorem Core.armV_pc (k : Core) (r : Reg) : (k.armV r).pc = k.pc := rfl
@[simp] theorem Core.armV_g (k : Core) (r : Reg) : (k.armV r).g = k.g := rfl
@[simp] theorem Core.armV_gfull (k : Core) (r : Reg) : (k.armV r).gfull = k.gfull := rfl
@[simp] theorem Core.armV_v (k : Core) (r : Reg) : (k.armV r).v = k.v := rfl
@[simp] theorem Core.armV_m (k : Core) (r : Reg) : (k.armV r).m = k.m := rfl
@[simp] theorem Core.armV_fcsr (k : Core) (r : Reg) : (k.armV r).fcsr = k.fcsr := rfl
@[simp] theorem Core.armV_jord (k : Core) (r : Reg) : (k.armV r).jord = k.jord := rfl
@[simp] theorem Core.armV_jfl (k : Core) (r : Reg) : (k.armV r).jfl = k.jfl := rfl
@[simp] theorem Core.armV_vstat (k : Core) (r : Reg) : (k.armV r).vstat = k.vstat := rfl
@[simp] theorem Core.armV_gidx (k : Core) (r : Reg) : (k.armV r).gidx = k.gidx := rfl
@[simp] theorem Core.armV_nroute (k : Core) (r : Reg) : (k.armV r).nroute = k.nroute := rfl
@[simp] theorem Core.armV_srkey (k : Core) (r : Reg) : (k.armV r).srkey = k.srkey := rfl
@[simp] theorem Core.armV_tcause (k : Core) (r : Reg) : (k.armV r).tcause = k.tcause := rfl
@[simp] theorem Core.armV_tval (k : Core) (r : Reg) : (k.armV r).tval = k.tval := rfl
@[simp] theorem Core.armV_tpc (k : Core) (r : Reg) : (k.armV r).tpc = k.tpc := rfl
@[simp] theorem Core.armV_usc (k : Core) (r : Reg) : (k.armV r).usc = k.usc := rfl
@[simp] theorem Core.armV_lstat (k : Core) (r : Reg) : (k.armV r).lstat = k.lstat := rfl
@[simp] theorem Core.armV_acc (k : Core) (r : Reg) : (k.armV r).acc = k.acc := rfl
@[simp] theorem Core.armV_queues (k : Core) (r : Reg) : (k.armV r).queues = k.queues := rfl
@[simp] theorem Core.armV_mqueue (k : Core) (r : Reg) : (k.armV r).mqueue = k.mqueue := rfl
@[simp] theorem Core.armV_qwaits (k : Core) (r : Reg) : (k.armV r).qwaits = k.qwaits := rfl
@[simp] theorem Core.armV_force (k : Core) (r : Reg) : (k.armV r).force = k.force := rfl
@[simp] theorem Core.armV_sparks (k : Core) (r : Reg) : (k.armV r).sparks = k.sparks := rfl
@[simp] theorem Core.armV_deque (k : Core) (r : Reg) : (k.armV r).deque = k.deque := rfl
@[simp] theorem Core.armV_lfsr (k : Core) (r : Reg) : (k.armV r).lfsr = k.lfsr := rfl
@[simp] theorem Core.armV_glean (k : Core) (r : Reg) : (k.armV r).glean = k.glean := rfl
@[simp] theorem Core.armV_ctop (k : Core) (r : Reg) : (k.armV r).ctop = k.ctop := rfl
@[simp] theorem Core.armV_sp (k : Core) (r : Reg) : (k.armV r).sp = k.sp := rfl
@[simp] theorem Core.armV_midway (k : Core) (r : Reg) : (k.armV r).midway = k.midway := rfl
@[simp] theorem Core.armV_groups (k : Core) (r : Reg) : (k.armV r).groups = k.groups := rfl
@[simp] theorem Core.armV_pending (k : Core) (r : Reg) : (k.armV r).pending = k.pending := rfl
@[simp] theorem Core.armV_haltReq (k : Core) (r : Reg) : (k.armV r).haltReq = k.haltReq := rfl
@[simp] theorem Core.armV_debugger (k : Core) (r : Reg) : (k.armV r).debugger = k.debugger := rfl
@[simp] theorem Core.armV_preemptReq (k : Core) (r : Reg) : (k.armV r).preemptReq = k.preemptReq := rfl
@[simp] theorem Core.armV_withdrawn (k : Core) (r : Reg) : (k.armV r).withdrawn = k.withdrawn := rfl
@[simp] theorem Core.armV_headerDue (k : Core) (r : Reg) : (k.armV r).headerDue = k.headerDue := rfl
@[simp] theorem Core.armV_gangWait (k : Core) (r : Reg) : (k.armV r).gangWait = k.gangWait := rfl
@[simp] theorem Core.armV_holdAtom (k : Core) (r : Reg) : (k.armV r).holdAtom = k.holdAtom := rfl
@[simp] theorem Core.armV_holdFence (k : Core) (r : Reg) : (k.armV r).holdFence = k.holdFence := rfl
@[simp] theorem Core.armV_svlPorts (k : Core) (r : Reg) : (k.armV r).svlPorts = k.svlPorts := rfl
@[simp] theorem Core.armV_tlb (k : Core) (r : Reg) : (k.armV r).tlb = k.tlb := rfl
@[simp] theorem Core.armV_ends (k : Core) (r : Reg) : (k.armV r).ends = k.ends := rfl
@[simp] theorem Core.armV_stall (k : Core) (r : Reg) : (k.armV r).stall = k.stall := rfl

@[simp] theorem Core.advance_run (k : Core) (n : Nat) : (k.advance n).run = k.run := rfl
@[simp] theorem Core.advance_launch (k : Core) (n : Nat) : (k.advance n).launch = k.launch := rfl
@[simp] theorem Core.advance_ctx (k : Core) (n : Nat) : (k.advance n).ctx = k.ctx := rfl
@[simp] theorem Core.advance_g (k : Core) (n : Nat) : (k.advance n).g = k.g := rfl
@[simp] theorem Core.advance_gfull (k : Core) (n : Nat) : (k.advance n).gfull = k.gfull := rfl
@[simp] theorem Core.advance_v (k : Core) (n : Nat) : (k.advance n).v = k.v := rfl
@[simp] theorem Core.advance_vfull (k : Core) (n : Nat) : (k.advance n).vfull = k.vfull := rfl
@[simp] theorem Core.advance_m (k : Core) (n : Nat) : (k.advance n).m = k.m := rfl
@[simp] theorem Core.advance_fcsr (k : Core) (n : Nat) : (k.advance n).fcsr = k.fcsr := rfl
@[simp] theorem Core.advance_jord (k : Core) (n : Nat) : (k.advance n).jord = k.jord := rfl
@[simp] theorem Core.advance_jfl (k : Core) (n : Nat) : (k.advance n).jfl = k.jfl := rfl
@[simp] theorem Core.advance_vstat (k : Core) (n : Nat) : (k.advance n).vstat = k.vstat := rfl
@[simp] theorem Core.advance_gidx (k : Core) (n : Nat) : (k.advance n).gidx = k.gidx := rfl
@[simp] theorem Core.advance_nroute (k : Core) (n : Nat) : (k.advance n).nroute = k.nroute := rfl
@[simp] theorem Core.advance_srkey (k : Core) (n : Nat) : (k.advance n).srkey = k.srkey := rfl
@[simp] theorem Core.advance_tcause (k : Core) (n : Nat) : (k.advance n).tcause = k.tcause := rfl
@[simp] theorem Core.advance_tval (k : Core) (n : Nat) : (k.advance n).tval = k.tval := rfl
@[simp] theorem Core.advance_tpc (k : Core) (n : Nat) : (k.advance n).tpc = k.tpc := rfl
@[simp] theorem Core.advance_usc (k : Core) (n : Nat) : (k.advance n).usc = k.usc := rfl
@[simp] theorem Core.advance_lstat (k : Core) (n : Nat) : (k.advance n).lstat = k.lstat := rfl
@[simp] theorem Core.advance_acc (k : Core) (n : Nat) : (k.advance n).acc = k.acc := rfl
@[simp] theorem Core.advance_queues (k : Core) (n : Nat) : (k.advance n).queues = k.queues := rfl
@[simp] theorem Core.advance_mqueue (k : Core) (n : Nat) : (k.advance n).mqueue = k.mqueue := rfl
@[simp] theorem Core.advance_qwaits (k : Core) (n : Nat) : (k.advance n).qwaits = k.qwaits := rfl
@[simp] theorem Core.advance_force (k : Core) (n : Nat) : (k.advance n).force = k.force := rfl
@[simp] theorem Core.advance_sparks (k : Core) (n : Nat) : (k.advance n).sparks = k.sparks := rfl
@[simp] theorem Core.advance_deque (k : Core) (n : Nat) : (k.advance n).deque = k.deque := rfl
@[simp] theorem Core.advance_lfsr (k : Core) (n : Nat) : (k.advance n).lfsr = k.lfsr := rfl
@[simp] theorem Core.advance_glean (k : Core) (n : Nat) : (k.advance n).glean = k.glean := rfl
@[simp] theorem Core.advance_ctop (k : Core) (n : Nat) : (k.advance n).ctop = k.ctop := rfl
@[simp] theorem Core.advance_sp (k : Core) (n : Nat) : (k.advance n).sp = k.sp := rfl
@[simp] theorem Core.advance_midway (k : Core) (n : Nat) : (k.advance n).midway = k.midway := rfl
@[simp] theorem Core.advance_groups (k : Core) (n : Nat) : (k.advance n).groups = k.groups := rfl
@[simp] theorem Core.advance_pending (k : Core) (n : Nat) : (k.advance n).pending = k.pending := rfl
@[simp] theorem Core.advance_haltReq (k : Core) (n : Nat) : (k.advance n).haltReq = k.haltReq := rfl
@[simp] theorem Core.advance_debugger (k : Core) (n : Nat) : (k.advance n).debugger = k.debugger := rfl
@[simp] theorem Core.advance_preemptReq (k : Core) (n : Nat) : (k.advance n).preemptReq = k.preemptReq := rfl
@[simp] theorem Core.advance_withdrawn (k : Core) (n : Nat) : (k.advance n).withdrawn = k.withdrawn := rfl
@[simp] theorem Core.advance_headerDue (k : Core) (n : Nat) : (k.advance n).headerDue = k.headerDue := rfl
@[simp] theorem Core.advance_gangWait (k : Core) (n : Nat) : (k.advance n).gangWait = k.gangWait := rfl
@[simp] theorem Core.advance_holdAtom (k : Core) (n : Nat) : (k.advance n).holdAtom = k.holdAtom := rfl
@[simp] theorem Core.advance_holdFence (k : Core) (n : Nat) : (k.advance n).holdFence = k.holdFence := rfl
@[simp] theorem Core.advance_svlPorts (k : Core) (n : Nat) : (k.advance n).svlPorts = k.svlPorts := rfl
@[simp] theorem Core.advance_tlb (k : Core) (n : Nat) : (k.advance n).tlb = k.tlb := rfl
@[simp] theorem Core.advance_ends (k : Core) (n : Nat) : (k.advance n).ends = k.ends := rfl

@[simp] theorem Core.goto_run (k : Core) (t : Word) : (k.goto t).run = k.run := rfl
@[simp] theorem Core.goto_launch (k : Core) (t : Word) : (k.goto t).launch = k.launch := rfl
@[simp] theorem Core.goto_ctx (k : Core) (t : Word) : (k.goto t).ctx = k.ctx := rfl
@[simp] theorem Core.goto_g (k : Core) (t : Word) : (k.goto t).g = k.g := rfl
@[simp] theorem Core.goto_gfull (k : Core) (t : Word) : (k.goto t).gfull = k.gfull := rfl
@[simp] theorem Core.goto_v (k : Core) (t : Word) : (k.goto t).v = k.v := rfl
@[simp] theorem Core.goto_vfull (k : Core) (t : Word) : (k.goto t).vfull = k.vfull := rfl
@[simp] theorem Core.goto_m (k : Core) (t : Word) : (k.goto t).m = k.m := rfl
@[simp] theorem Core.goto_fcsr (k : Core) (t : Word) : (k.goto t).fcsr = k.fcsr := rfl
@[simp] theorem Core.goto_jord (k : Core) (t : Word) : (k.goto t).jord = k.jord := rfl
@[simp] theorem Core.goto_jfl (k : Core) (t : Word) : (k.goto t).jfl = k.jfl := rfl
@[simp] theorem Core.goto_vstat (k : Core) (t : Word) : (k.goto t).vstat = k.vstat := rfl
@[simp] theorem Core.goto_gidx (k : Core) (t : Word) : (k.goto t).gidx = k.gidx := rfl
@[simp] theorem Core.goto_nroute (k : Core) (t : Word) : (k.goto t).nroute = k.nroute := rfl
@[simp] theorem Core.goto_srkey (k : Core) (t : Word) : (k.goto t).srkey = k.srkey := rfl
@[simp] theorem Core.goto_tcause (k : Core) (t : Word) : (k.goto t).tcause = k.tcause := rfl
@[simp] theorem Core.goto_tval (k : Core) (t : Word) : (k.goto t).tval = k.tval := rfl
@[simp] theorem Core.goto_tpc (k : Core) (t : Word) : (k.goto t).tpc = k.tpc := rfl
@[simp] theorem Core.goto_usc (k : Core) (t : Word) : (k.goto t).usc = k.usc := rfl
@[simp] theorem Core.goto_lstat (k : Core) (t : Word) : (k.goto t).lstat = k.lstat := rfl
@[simp] theorem Core.goto_acc (k : Core) (t : Word) : (k.goto t).acc = k.acc := rfl
@[simp] theorem Core.goto_queues (k : Core) (t : Word) : (k.goto t).queues = k.queues := rfl
@[simp] theorem Core.goto_mqueue (k : Core) (t : Word) : (k.goto t).mqueue = k.mqueue := rfl
@[simp] theorem Core.goto_qwaits (k : Core) (t : Word) : (k.goto t).qwaits = k.qwaits := rfl
@[simp] theorem Core.goto_force (k : Core) (t : Word) : (k.goto t).force = k.force := rfl
@[simp] theorem Core.goto_sparks (k : Core) (t : Word) : (k.goto t).sparks = k.sparks := rfl
@[simp] theorem Core.goto_deque (k : Core) (t : Word) : (k.goto t).deque = k.deque := rfl
@[simp] theorem Core.goto_lfsr (k : Core) (t : Word) : (k.goto t).lfsr = k.lfsr := rfl
@[simp] theorem Core.goto_glean (k : Core) (t : Word) : (k.goto t).glean = k.glean := rfl
@[simp] theorem Core.goto_ctop (k : Core) (t : Word) : (k.goto t).ctop = k.ctop := rfl
@[simp] theorem Core.goto_sp (k : Core) (t : Word) : (k.goto t).sp = k.sp := rfl
@[simp] theorem Core.goto_midway (k : Core) (t : Word) : (k.goto t).midway = k.midway := rfl
@[simp] theorem Core.goto_groups (k : Core) (t : Word) : (k.goto t).groups = k.groups := rfl
@[simp] theorem Core.goto_pending (k : Core) (t : Word) : (k.goto t).pending = k.pending := rfl
@[simp] theorem Core.goto_haltReq (k : Core) (t : Word) : (k.goto t).haltReq = k.haltReq := rfl
@[simp] theorem Core.goto_debugger (k : Core) (t : Word) : (k.goto t).debugger = k.debugger := rfl
@[simp] theorem Core.goto_preemptReq (k : Core) (t : Word) : (k.goto t).preemptReq = k.preemptReq := rfl
@[simp] theorem Core.goto_withdrawn (k : Core) (t : Word) : (k.goto t).withdrawn = k.withdrawn := rfl
@[simp] theorem Core.goto_headerDue (k : Core) (t : Word) : (k.goto t).headerDue = k.headerDue := rfl
@[simp] theorem Core.goto_gangWait (k : Core) (t : Word) : (k.goto t).gangWait = k.gangWait := rfl
@[simp] theorem Core.goto_holdAtom (k : Core) (t : Word) : (k.goto t).holdAtom = k.holdAtom := rfl
@[simp] theorem Core.goto_holdFence (k : Core) (t : Word) : (k.goto t).holdFence = k.holdFence := rfl
@[simp] theorem Core.goto_svlPorts (k : Core) (t : Word) : (k.goto t).svlPorts = k.svlPorts := rfl
@[simp] theorem Core.goto_tlb (k : Core) (t : Word) : (k.goto t).tlb = k.tlb := rfl
@[simp] theorem Core.goto_ends (k : Core) (t : Word) : (k.goto t).ends = k.ends := rfl

@[simp] theorem Core.raise_run (k : Core) (f : FlagBits) : (k.raise f).run = k.run := rfl
@[simp] theorem Core.raise_launch (k : Core) (f : FlagBits) : (k.raise f).launch = k.launch := rfl
@[simp] theorem Core.raise_ctx (k : Core) (f : FlagBits) : (k.raise f).ctx = k.ctx := rfl
@[simp] theorem Core.raise_pc (k : Core) (f : FlagBits) : (k.raise f).pc = k.pc := rfl
@[simp] theorem Core.raise_g (k : Core) (f : FlagBits) : (k.raise f).g = k.g := rfl
@[simp] theorem Core.raise_gfull (k : Core) (f : FlagBits) : (k.raise f).gfull = k.gfull := rfl
@[simp] theorem Core.raise_v (k : Core) (f : FlagBits) : (k.raise f).v = k.v := rfl
@[simp] theorem Core.raise_vfull (k : Core) (f : FlagBits) : (k.raise f).vfull = k.vfull := rfl
@[simp] theorem Core.raise_m (k : Core) (f : FlagBits) : (k.raise f).m = k.m := rfl
@[simp] theorem Core.raise_jord (k : Core) (f : FlagBits) : (k.raise f).jord = k.jord := rfl
@[simp] theorem Core.raise_jfl (k : Core) (f : FlagBits) : (k.raise f).jfl = k.jfl := rfl
@[simp] theorem Core.raise_vstat (k : Core) (f : FlagBits) : (k.raise f).vstat = k.vstat := rfl
@[simp] theorem Core.raise_gidx (k : Core) (f : FlagBits) : (k.raise f).gidx = k.gidx := rfl
@[simp] theorem Core.raise_nroute (k : Core) (f : FlagBits) : (k.raise f).nroute = k.nroute := rfl
@[simp] theorem Core.raise_srkey (k : Core) (f : FlagBits) : (k.raise f).srkey = k.srkey := rfl
@[simp] theorem Core.raise_tcause (k : Core) (f : FlagBits) : (k.raise f).tcause = k.tcause := rfl
@[simp] theorem Core.raise_tval (k : Core) (f : FlagBits) : (k.raise f).tval = k.tval := rfl
@[simp] theorem Core.raise_tpc (k : Core) (f : FlagBits) : (k.raise f).tpc = k.tpc := rfl
@[simp] theorem Core.raise_usc (k : Core) (f : FlagBits) : (k.raise f).usc = k.usc := rfl
@[simp] theorem Core.raise_lstat (k : Core) (f : FlagBits) : (k.raise f).lstat = k.lstat := rfl
@[simp] theorem Core.raise_acc (k : Core) (f : FlagBits) : (k.raise f).acc = k.acc := rfl
@[simp] theorem Core.raise_queues (k : Core) (f : FlagBits) : (k.raise f).queues = k.queues := rfl
@[simp] theorem Core.raise_mqueue (k : Core) (f : FlagBits) : (k.raise f).mqueue = k.mqueue := rfl
@[simp] theorem Core.raise_qwaits (k : Core) (f : FlagBits) : (k.raise f).qwaits = k.qwaits := rfl
@[simp] theorem Core.raise_force (k : Core) (f : FlagBits) : (k.raise f).force = k.force := rfl
@[simp] theorem Core.raise_sparks (k : Core) (f : FlagBits) : (k.raise f).sparks = k.sparks := rfl
@[simp] theorem Core.raise_deque (k : Core) (f : FlagBits) : (k.raise f).deque = k.deque := rfl
@[simp] theorem Core.raise_lfsr (k : Core) (f : FlagBits) : (k.raise f).lfsr = k.lfsr := rfl
@[simp] theorem Core.raise_glean (k : Core) (f : FlagBits) : (k.raise f).glean = k.glean := rfl
@[simp] theorem Core.raise_ctop (k : Core) (f : FlagBits) : (k.raise f).ctop = k.ctop := rfl
@[simp] theorem Core.raise_sp (k : Core) (f : FlagBits) : (k.raise f).sp = k.sp := rfl
@[simp] theorem Core.raise_midway (k : Core) (f : FlagBits) : (k.raise f).midway = k.midway := rfl
@[simp] theorem Core.raise_groups (k : Core) (f : FlagBits) : (k.raise f).groups = k.groups := rfl
@[simp] theorem Core.raise_pending (k : Core) (f : FlagBits) : (k.raise f).pending = k.pending := rfl
@[simp] theorem Core.raise_haltReq (k : Core) (f : FlagBits) : (k.raise f).haltReq = k.haltReq := rfl
@[simp] theorem Core.raise_debugger (k : Core) (f : FlagBits) : (k.raise f).debugger = k.debugger := rfl
@[simp] theorem Core.raise_preemptReq (k : Core) (f : FlagBits) : (k.raise f).preemptReq = k.preemptReq := rfl
@[simp] theorem Core.raise_withdrawn (k : Core) (f : FlagBits) : (k.raise f).withdrawn = k.withdrawn := rfl
@[simp] theorem Core.raise_headerDue (k : Core) (f : FlagBits) : (k.raise f).headerDue = k.headerDue := rfl
@[simp] theorem Core.raise_gangWait (k : Core) (f : FlagBits) : (k.raise f).gangWait = k.gangWait := rfl
@[simp] theorem Core.raise_holdAtom (k : Core) (f : FlagBits) : (k.raise f).holdAtom = k.holdAtom := rfl
@[simp] theorem Core.raise_holdFence (k : Core) (f : FlagBits) : (k.raise f).holdFence = k.holdFence := rfl
@[simp] theorem Core.raise_svlPorts (k : Core) (f : FlagBits) : (k.raise f).svlPorts = k.svlPorts := rfl
@[simp] theorem Core.raise_tlb (k : Core) (f : FlagBits) : (k.raise f).tlb = k.tlb := rfl
@[simp] theorem Core.raise_ends (k : Core) (f : FlagBits) : (k.raise f).ends = k.ends := rfl
@[simp] theorem Core.raise_stall (k : Core) (f : FlagBits) : (k.raise f).stall = k.stall := rfl

/-! ## Reads after updates of a core -/

/-- An element of a register file read after one was replaced. -/
theorem vectorGet_set {α : Type} {n : Nat} (v : Vector α n) (r q : Fin n) (x : α) :
    (v.set r.val x r.isLt).get q = if r = q then x else v.get q := by
  show (v.set r.val x r.isLt)[q.val] = if r = q then x else v[q.val]
  rw [Vector.getElem_set]
  by_cases h : r = q
  · subst h; simp
  · rw [if_neg (fun e => h (Fin.ext e)), if_neg h]

/-- g0 reads as 0 (R55). -/
@[simp] theorem Core.gr_zero (k : Core) : k.gr 0 = 0 := rfl

/-- A g register read after a write; g0 stays 0 (R55). -/
theorem Core.gr_setG (k : Core) (r q : Reg) (w : Word) : (k.setG r w).gr q = if r = q ∧ r ≠ 0 then w else k.gr q := by
  unfold Core.setG Core.gr
  by_cases hr : r = 0
  · simp [hr]
  · simp only [hr, if_false, ne_eq, not_false_eq_true, and_true]
    by_cases hq : q = 0
    · subst hq; simp [hr]
    · simp only [hq, if_false, vectorGet_set]

@[simp] theorem Core.gr_armG (k : Core) (r q : Reg) : (k.armG r).gr q = k.gr q := by
  simp [Core.gr]
@[simp] theorem Core.gr_advance (k : Core) (n : Nat) (q : Reg) : (k.advance n).gr q = k.gr q := rfl
@[simp] theorem Core.gr_goto (k : Core) (t : Word) (q : Reg) : (k.goto t).gr q = k.gr q := rfl

/-- A v register read after a write. -/
theorem Core.vr_setV (k : Core) (r q : Reg) (x : VReg) : (k.setV r x).vr q = if r = q then x else k.vr q :=
  vectorGet_set _ _ _ _

/-- m0 reads as all ones; a mask register read after a write (R55). -/
theorem Core.mr_setM (k : Core) (r q : MReg) (x : Word32) : (k.setM r x).mr q = if r = q ∧ r ≠ 0 then x else k.mr q := by
  unfold Core.setM Core.mr
  by_cases hr : r = 0
  · simp [hr]
  · simp only [hr, if_false, ne_eq, not_false_eq_true, and_true]
    by_cases hq : q = 0
    · subst hq; simp [hr]
    · simp only [hq, if_false, vectorGet_set]

@[simp] theorem Core.gIsFull_zero (k : Core) : k.gIsFull 0 = true := rfl
@[simp] theorem Core.advance_pc (k : Core) (n : Nat) : (k.advance n).pc = k.pc + BitVec.ofNat 64 n := rfl
@[simp] theorem Core.goto_pc (k : Core) (t : Word) : (k.goto t).pc = t := rfl

end Sys2Proof.Machine
end

