-- ==== Sys2Proof/Laws/Issue.lean ====
section
/-! SUPPORT. What the checks at issue can do: perform the instruction, wait, or raise a trap; and when each happens. -/
namespace Sys2Proof.Machine

/-- Everything that the checks at issue can come to (R63, R77). -/
theorem State.issue_cases (s : State) (u : Uses) (body : State → State) :
    s.issue u body = body s ∨ s.issue u body = s.wait ∨ ∃ r, s.issue u body = s.trap .emptyRead (RegRef.tval r) := by
  unfold State.issue
  split
  · rename_i r _; exact .inr (.inr ⟨r, rfl⟩)
  · split
    · exact .inl rfl
    · exact .inr (.inl rfl)

/-- With every register full the instruction is performed. -/
theorem State.issue_of_full (s : State) (u : Uses) (body : State → State) (ht : u.traps ⊆ u.waits)
    (h : ∀ r ∈ u.waits, s.me.isFull r = true) : s.issue u body = body s := by
  have hn : u.traps.find? (fun r => !s.me.isFull r) = none := by
    rw [List.find?_eq_none]
    intro r hr
    simp [h r (ht hr)]
  unfold State.issue
  rw [hn]
  simp only [if_pos (List.all_eq_true.2 h)]

/-- The first empty register that a trapping read names raises EMPTY_READ. -/
theorem State.issue_of_trap (s : State) (u : Uses) (body : State → State) (r : RegRef)
    (h : u.traps.find? (fun r => !s.me.isFull r) = some r) : s.issue u body = s.trap .emptyRead r.tval := by
  unfold State.issue
  rw [h]

/-- With no empty trapping read and an empty register to wait for, the instruction waits. -/
theorem State.issue_of_empty (s : State) (u : Uses) (body : State → State) (ht : ∀ r ∈ u.traps, s.me.isFull r = true)
    (r : RegRef) (hr : r ∈ u.waits) (he : s.me.isFull r = false) : s.issue u body = s.wait := by
  have hn : u.traps.find? (fun r => !s.me.isFull r) = none := by
    rw [List.find?_eq_none]
    intro r hr
    simp [ht r hr]
  unfold State.issue
  rw [hn]
  simp only
  rw [if_neg]
  intro h
  rw [List.all_eq_true.1 h r hr] at he
  cases he

/-- The checks of an instruction that CSRs may make illegal. -/
theorem State.issueLegal_of_full (s : State) (i : Instr) (u : Uses) (body : State → State) (ht : u.traps ⊆ u.waits)
    (h : ∀ r ∈ u.waits, s.me.isFull r = true) : s.issueLegal i true u body = body s := by
  unfold State.issueLegal
  rw [if_pos rfl, State.issue_of_full s u body ht h]

theorem State.issueLegal_cases (s : State) (i : Instr) (legal : Bool) (u : Uses) (body : State → State) :
    s.issueLegal i legal u body = body s ∨ s.issueLegal i legal u body = s.wait ∨
      ∃ c v, s.issueLegal i legal u body = s.trap c v := by
  unfold State.issueLegal
  split
  · rcases State.issue_cases s u body with h | h | ⟨r, h⟩
    · exact .inl h
    · exact .inr (.inl h)
    · exact .inr (.inr ⟨_, _, h⟩)
  · exact .inr (.inr ⟨_, _, rfl⟩)

/-- An access goes to its body where no acquire holds it. -/
theorem State.issueAccess_of_full (s : State) (u : Uses) (body : State → State) (ht : u.traps ⊆ u.waits)
    (h : ∀ r ∈ u.waits, s.me.isFull r = true) (hh : s.me.held = false) : s.issueAccess u body = body s := by
  unfold State.issueAccess
  rw [State.issue_of_full s u _ ht h]
  simp only [hh, Bool.false_eq_true, if_false]

theorem State.issueFenced_of_full (s : State) (u : Uses) (body : State → State) (ht : u.traps ⊆ u.waits)
    (h : ∀ r ∈ u.waits, s.me.isFull r = true) (hh : s.me.heldByFence = false) : s.issueFenced u body = body s := by
  unfold State.issueFenced
  rw [State.issue_of_full s u _ ht h]
  simp only [hh, Bool.false_eq_true, if_false]

/-! ## The registers of each operand form -/

theorem policy_subset (p : Bool) (rs : List RegRef) : policy p rs ⊆ rs := by
  cases p <;> simp [policy]

theorem uses3_traps (r : R3) : (uses3 r).traps ⊆ (uses3 r).waits := by
  intro x hx
  simp only [uses3, policy, List.mem_append] at *
  rcases hx with hx | hx <;> split at hx <;> simp at hx <;> simp [hx]

theorem uses2_traps (r : R2) : (uses2 r).traps ⊆ (uses2 r).waits := by
  intro x hx
  simp only [uses2, policy] at *
  split at hx <;> simp at hx <;> simp [hx]

theorem gUses_traps (rs : List Reg) : (gUses rs).traps ⊆ (gUses rs).waits := by simp [gUses]

/-! ## The shapes of the scalar instructions -/

theorem scalar3_of_full (f : Word → Word → Word) (r : R3) (s : State)
    (h : ∀ x ∈ [RegRef.g r.a, .g r.b, .g r.d], s.me.isFull x = true) :
    scalar3 f r s = s.modMe fun k => (k.setG r.d (f (s.me.gr r.a) (s.me.gr r.b))).advance 4 := by
  unfold scalar3
  rw [State.issue_of_full _ _ _ (uses3_traps r) h]
  rfl

theorem scalar2_of_full (f : Word → Word) (r : R2) (s : State)
    (h : ∀ x ∈ [RegRef.g r.a, .g r.d], s.me.isFull x = true) :
    scalar2 f r s = s.modMe fun k => (k.setG r.d (f (s.me.gr r.a))).advance 4 := by
  unfold scalar2
  rw [State.issue_of_full _ _ _ (uses2_traps r) h]
  rfl

theorem scalarImm_of_full (f : Word → Word → Word) (d a : Reg) (y : Word) (s : State)
    (h : ∀ x ∈ [RegRef.g a, .g d], s.me.isFull x = true) :
    scalarImm f d a y s = s.modMe fun k => (k.setG d (f (s.me.gr a) y)).advance 4 := by
  unfold scalarImm
  rw [State.issue_of_full _ _ _ (gUses_traps [a, d]) h]
  rfl

end Sys2Proof.Machine
end

