-- ==== Sys2Proof/Laws/Memory.lean ====
section
/-! SUPPORT. Laws of memory: what a byte reads as after each write, and that every operation keeps the canonical form. -/
namespace Sys2Proof.Machine

/-! ## The canonical form as two facts of a list -/

/-- Addresses strictly rising, and no byte listed as what an unlisted address reads as. -/
theorem Memory.wf_iff (m : Memory) :
    m.wf = true ↔ m.Pairwise (fun x y => x.1 < y.1) ∧ ∀ e ∈ m, e.2 ≠ Memory.unlisted := by
  induction m with
  | nil => simp [Memory.wf]
  | cons e r ih =>
    obtain ⟨a, v⟩ := e
    cases r with
    | nil => simp [Memory.wf]
    | cons f r =>
      obtain ⟨b, w⟩ := f
      simp only [Memory.wf, Bool.and_eq_true, bne_iff_ne, decide_eq_true_eq, ih]
      constructor
      · rintro ⟨⟨hv, hab⟩, hp, hall⟩
        refine ⟨List.pairwise_cons.2 ⟨?_, hp⟩, ?_⟩
        · intro y hy
          rcases List.mem_cons.1 hy with rfl | hy
          · exact hab
          · exact Nat.lt_trans hab ((List.pairwise_cons.1 hp).1 y hy)
        · intro e he
          rcases List.mem_cons.1 he with rfl | he
          · exact hv
          · exact hall e he
      · rintro ⟨hp, hall⟩
        have h := List.pairwise_cons.1 hp
        exact ⟨⟨hall (a, v) (by simp), h.1 (b, w) (by simp)⟩, h.2, fun e he => hall e (List.mem_cons_of_mem _ he)⟩

theorem Memory.wf_nil : Memory.wf [] = true := rfl

theorem Memory.wf_filter (m : Memory) (p : Host.Cell → Bool) (h : m.wf = true) : Memory.wf (m.filter p) = true := by
  rw [Memory.wf_iff] at *
  exact ⟨h.1.filter p, fun e he => h.2 e (List.mem_filter.1 he).1⟩

/-! ## One byte -/

theorem Memory.read_of_lt (m : Memory) (a : Nat) (h : ∀ e ∈ m, a < e.1) : m.read a = Memory.unlisted := by
  induction m with
  | nil => rfl
  | cons e r ih =>
    obtain ⟨k, v⟩ := e
    have hk := h (k, v) (by simp)
    simp only [Memory.read]
    rw [if_neg (by simp only at hk; omega), ih fun e he => h e (List.mem_cons_of_mem _ he)]

theorem Memory.wf_cons {e : Host.Cell} {r : Memory} (h : Memory.wf (e :: r) = true) :
    (∀ x ∈ r, e.1 < x.1) ∧ e.2 ≠ Memory.unlisted ∧ Memory.wf r = true := by
  rw [Memory.wf_iff] at h
  have hp := List.pairwise_cons.1 h.1
  exact ⟨fun x hx => hp.1 x hx, h.2 e (by simp), (Memory.wf_iff r).2 ⟨hp.2, fun x hx => h.2 x (List.mem_cons_of_mem _ hx)⟩⟩

/-- A read after a write gives the byte written; a write leaves every other byte. -/
theorem Memory.read_write (m : Memory) (a b : Nat) (v : Byte) (h : m.wf = true) :
    (m.write a v).read b = if a = b then v else m.read b := by
  induction m with
  | nil =>
    simp only [Memory.write]
    by_cases hv : v = Memory.unlisted
    · subst hv; simp [Memory.read]
    · simp [hv, Memory.read]
  | cons e r ih =>
    obtain ⟨k, w⟩ := e
    obtain ⟨hlt, hw, hr⟩ := Memory.wf_cons h
    simp only [Memory.write]
    split
    · rename_i hak
      split
      · rename_i hv
        subst hv
        split
        · rename_i hab
          subst hab
          exact Memory.read_of_lt _ _ fun e he => by
            rcases List.mem_cons.1 he with rfl | he
            · exact hak
            · exact Nat.lt_trans hak (hlt e he)
        · rfl
      · simp only [Memory.read]
    · split
      · rename_i hka
        subst hka
        split
        · rename_i hv
          subst hv
          split
          · rename_i hab; subst hab; exact Memory.read_of_lt _ _ hlt
          · rename_i hab; simp [Memory.read, hab]
        · simp only [Memory.read]; split <;> simp_all
      · rename_i hak hka
        simp only [Memory.read, ih hr]
        split
        · rename_i hkb; subst hkb; rw [if_neg (Ne.symm hka)]
        · rfl

theorem Memory.write_keys (m : Memory) (a : Nat) (v : Byte) (lo : Nat) (h : ∀ e ∈ m, lo < e.1) (ha : lo < a) :
    ∀ e ∈ m.write a v, lo < e.1 := by
  induction m with
  | nil =>
    intro e he
    simp only [Memory.write] at he
    split at he
    · simp at he
    · simp only [List.mem_singleton] at he; subst he; exact ha
  | cons x r ih =>
    obtain ⟨k, w⟩ := x
    intro e he
    simp only [Memory.write] at he
    split at he
    · split at he
      · exact h e he
      · rcases List.mem_cons.1 he with rfl | he
        · exact ha
        · exact h e he
    · split at he
      · split at he
        · exact h e (List.mem_cons_of_mem _ he)
        · rcases List.mem_cons.1 he with rfl | he
          · exact ha
          · exact h e (List.mem_cons_of_mem _ he)
      · rcases List.mem_cons.1 he with rfl | he
        · exact h (k, w) (by simp)
        · exact ih (fun e he => h e (List.mem_cons_of_mem _ he)) e he

theorem Memory.wf_cons_of {a : Nat} {v : Byte} {r : Memory} (hlt : ∀ x ∈ r, a < x.1) (hv : v ≠ Memory.unlisted)
    (hr : Memory.wf r = true) : Memory.wf ((a, v) :: r) = true := by
  rw [Memory.wf_iff] at *
  refine ⟨List.pairwise_cons.2 ⟨fun x hx => hlt x hx, hr.1⟩, ?_⟩
  intro e he
  rcases List.mem_cons.1 he with rfl | he
  · exact hv
  · exact hr.2 e he

theorem Memory.wf_write (m : Memory) (a : Nat) (v : Byte) (h : m.wf = true) : (m.write a v).wf = true := by
  induction m with
  | nil =>
    simp only [Memory.write]
    split
    · rfl
    · rename_i hv; exact Memory.wf_cons_of (by simp) hv rfl
  | cons e r ih =>
    obtain ⟨k, w⟩ := e
    obtain ⟨hlt, hw, hr⟩ := Memory.wf_cons h
    simp only [Memory.write]
    split
    · rename_i hak
      split
      · exact h
      · rename_i hv
        exact Memory.wf_cons_of (fun e he => by
          rcases List.mem_cons.1 he with rfl | he
          · exact hak
          · exact Nat.lt_trans hak (hlt e he)) hv h
    · split
      · rename_i hka
        subst hka
        split
        · exact hr
        · rename_i hv; exact Memory.wf_cons_of hlt hv hr
      · rename_i hak hka
        exact Memory.wf_cons_of (Memory.write_keys r a v k hlt (by omega)) hw (ih hr)

/-! ## Runs of bytes -/

theorem Memory.wf_writeBytes (bs : List Byte) : ∀ (m : Memory) (a : Nat), m.wf = true → (m.writeBytes a bs).wf = true := by
  induction bs with
  | nil => intro m a h; exact h
  | cons b r ih => intro m a h; exact ih _ _ (Memory.wf_write m a b h)

/-- After a run of bytes is written, each byte of the run reads as written, and every other byte as before. -/
theorem Memory.read_writeBytes (bs : List Byte) : ∀ (m : Memory) (a b : Nat), m.wf = true →
    (m.writeBytes a bs).read b = if a ≤ b ∧ b < a + bs.length then bs.getD (b - a) 0 else m.read b := by
  induction bs with
  | nil => intro m a b _; rw [if_neg (by simp only [List.length_nil]; omega)]; rfl
  | cons x r ih =>
    intro m a b h
    simp only [Memory.writeBytes, ih _ _ _ (Memory.wf_write m a x h), Memory.read_write m a b x h, List.length_cons]
    by_cases hab : a = b
    · subst hab
      rw [if_neg (by omega), if_pos rfl, if_pos (by omega)]
      simp
    · by_cases hin : a + 1 ≤ b ∧ b < a + 1 + r.length
      · rw [if_pos hin, if_pos (by omega)]
        have : b - a = (b - (a + 1)) + 1 := by omega
        rw [this]; simp
      · rw [if_neg hin, if_neg hab, if_neg (by omega)]

theorem Memory.wf_writeWord (m : Memory) (a : Nat) (w : Word) (h : m.wf = true) : (m.writeWord a w).wf = true :=
  Memory.wf_writeBytes _ m a h

theorem Memory.wf_writeMasked (m : Memory) (a : Nat) (x d : Word) (h : m.wf = true) : (m.writeMasked a x d).wf = true :=
  Memory.wf_writeWord m a _ h

theorem Memory.wf_clearRange (m : Memory) (a n : Nat) (h : m.wf = true) : (m.clearRange a n).wf = true :=
  Memory.wf_filter m _ h

@[simp] theorem bytesOfWord_length (w : Word) : (bytesOfWord w).length = 8 := by simp [bytesOfWord]

/-- Each byte of a word that was written reads as that byte of the word; every other byte as before. -/
theorem Memory.read_writeWord (m : Memory) (a b : Nat) (w : Word) (h : m.wf = true) :
    (m.writeWord a w).read b = if a ≤ b ∧ b < a + 8 then byteOf w (b - a) else m.read b := by
  rw [Memory.writeWord, Memory.read_writeBytes _ m a b h]
  simp only [bytesOfWord_length]
  split
  · rename_i hb
    have : b - a < 8 := by omega
    simp [bytesOfWord, List.getD, this]
  · rfl

theorem Memory.read_writeMasked_other (m : Memory) (a b : Nat) (x d : Word) (h : m.wf = true) (hb : b < a ∨ a + 8 ≤ b) :
    (m.writeMasked a x d).read b = m.read b := by
  rw [Memory.writeMasked, Memory.read_writeWord m a b _ h, if_neg (by omega)]

theorem Memory.wf_copyRange (m : Memory) (dst src n : Nat) (h : m.wf = true) : (m.copyRange dst src n).wf = true := by
  rw [Memory.wf_iff] at *
  obtain ⟨hp, hv⟩ := h
  simp only [Memory.copyRange]
  constructor
  · refine List.pairwise_append.2 ⟨List.pairwise_append.2 ⟨hp.filter _, ?_, ?_⟩, hp.filter _, ?_⟩
    · rw [List.pairwise_map]
      refine (hp.filter _).imp_of_mem ?_
      intro x y hx hy hxy
      have := (List.mem_filter.1 hx).2
      have := (List.mem_filter.1 hy).2
      simp only [Bool.and_eq_true, decide_eq_true_eq] at *
      omega
    · intro x hx y hy
      have hx := (List.mem_filter.1 hx).2
      obtain ⟨z, hz, rfl⟩ := List.mem_map.1 hy
      simp only [decide_eq_true_eq] at hx
      simp only
      omega
    · intro x hx y hy
      have hy := (List.mem_filter.1 hy).2
      simp only [decide_eq_true_eq] at hy
      rcases List.mem_append.1 hx with hx | hx
      · have hx := (List.mem_filter.1 hx).2
        simp only [decide_eq_true_eq] at hx
        omega
      · obtain ⟨z, hz, rfl⟩ := List.mem_map.1 hx
        have hz := (List.mem_filter.1 hz).2
        simp only [Bool.and_eq_true, decide_eq_true_eq] at hz
        simp only
        omega
  · intro e he
    rcases List.mem_append.1 he with he | he
    · rcases List.mem_append.1 he with he | he
      · exact hv e (List.mem_filter.1 he).1
      · obtain ⟨z, hz, rfl⟩ := List.mem_map.1 he
        exact hv z (List.mem_filter.1 hz).1
    · exact hv e (List.mem_filter.1 he).1

end Sys2Proof.Machine
end

