-- ==== Sys2Proof/Laws/PerInstr.lean ====
section
/-! SUPPORT. The family F, one lemma for every constructor of `Instr`: the word of an encoded instruction has a major opcode of R59 and is
no prefix; a step of the package that no word encodes has the word 0 and no prefix. -/
namespace Sys2Proof.Laws.F

/-- The major opcode of an encoded instruction's word is one of R68 to R75; what is not encoded has the word 0 and no prefix. -/
def Statement (i : Instr) : Prop :=
  (i.isEncoded = true → 1 ≤ fieldOp i.word ∧ fieldOp i.word ≤ 0x20) ∧ (i.isEncoded = false → i.word = 0 ∧ i.pfx = none)


theorem of_major {i : Instr} {op : Nat} (h : fieldOp i.word = op) (ho : 1 ≤ op ∧ op ≤ 0x20) (he : i.isEncoded = true) : Statement i :=
  ⟨fun _ => h ▸ ho, fun hn => by rw [he] at hn; cases hn⟩

theorem add (r : R3) : Statement (.add r) :=
  of_major (fieldOp_encR3 r (by decide) (by decide)) (by decide) rfl
theorem sub (r : R3) : Statement (.sub r) :=
  of_major (fieldOp_encR3 r (by decide) (by decide)) (by decide) rfl
theorem and (r : R3) : Statement (.and r) :=
  of_major (fieldOp_encR3 r (by decide) (by decide)) (by decide) rfl
theorem or (r : R3) : Statement (.or r) :=
  of_major (fieldOp_encR3 r (by decide) (by decide)) (by decide) rfl
theorem xor (r : R3) : Statement (.xor r) :=
  of_major (fieldOp_encR3 r (by decide) (by decide)) (by decide) rfl
theorem sll (r : R3) : Statement (.sll r) :=
  of_major (fieldOp_encR3 r (by decide) (by decide)) (by decide) rfl
theorem srl (r : R3) : Statement (.srl r) :=
  of_major (fieldOp_encR3 r (by decide) (by decide)) (by decide) rfl
theorem sra (r : R3) : Statement (.sra r) :=
  of_major (fieldOp_encR3 r (by decide) (by decide)) (by decide) rfl
theorem ror (r : R3) : Statement (.ror r) :=
  of_major (fieldOp_encR3 r (by decide) (by decide)) (by decide) rfl
theorem mul (r : R3) : Statement (.mul r) :=
  of_major (fieldOp_encR3 r (by decide) (by decide)) (by decide) rfl
theorem mulh (r : R3) : Statement (.mulh r) :=
  of_major (fieldOp_encR3 r (by decide) (by decide)) (by decide) rfl
theorem mulhu (r : R3) : Statement (.mulhu r) :=
  of_major (fieldOp_encR3 r (by decide) (by decide)) (by decide) rfl
theorem div (r : R3) : Statement (.div r) :=
  of_major (fieldOp_encR3 r (by decide) (by decide)) (by decide) rfl
theorem divu (r : R3) : Statement (.divu r) :=
  of_major (fieldOp_encR3 r (by decide) (by decide)) (by decide) rfl
theorem rem (r : R3) : Statement (.rem r) :=
  of_major (fieldOp_encR3 r (by decide) (by decide)) (by decide) rfl
theorem remu (r : R3) : Statement (.remu r) :=
  of_major (fieldOp_encR3 r (by decide) (by decide)) (by decide) rfl
theorem slt (r : R3) : Statement (.slt r) :=
  of_major (fieldOp_encR3 r (by decide) (by decide)) (by decide) rfl
theorem sltu (r : R3) : Statement (.sltu r) :=
  of_major (fieldOp_encR3 r (by decide) (by decide)) (by decide) rfl
theorem seq (r : R3) : Statement (.seq r) :=
  of_major (fieldOp_encR3 r (by decide) (by decide)) (by decide) rfl
theorem min (r : R3) : Statement (.min r) :=
  of_major (fieldOp_encR3 r (by decide) (by decide)) (by decide) rfl
theorem max (r : R3) : Statement (.max r) :=
  of_major (fieldOp_encR3 r (by decide) (by decide)) (by decide) rfl
theorem minu (r : R3) : Statement (.minu r) :=
  of_major (fieldOp_encR3 r (by decide) (by decide)) (by decide) rfl
theorem maxu (r : R3) : Statement (.maxu r) :=
  of_major (fieldOp_encR3 r (by decide) (by decide)) (by decide) rfl
theorem clz (r : R2) : Statement (.clz r) :=
  of_major (fieldOp_encR2 r (by decide) (by decide)) (by decide) rfl
theorem ctz (r : R2) : Statement (.ctz r) :=
  of_major (fieldOp_encR2 r (by decide) (by decide)) (by decide) rfl
theorem popc (r : R2) : Statement (.popc r) :=
  of_major (fieldOp_encR2 r (by decide) (by decide)) (by decide) rfl
theorem addi (d : Reg) (a : Reg) (i : BitVec 14) : Statement (.addi d a i) :=
  of_major (fieldOp_encI (by decide) d.isLt a.isLt i.isLt) (by decide) rfl
theorem andi (d : Reg) (a : Reg) (i : BitVec 14) : Statement (.andi d a i) :=
  of_major (fieldOp_encI (by decide) d.isLt a.isLt i.isLt) (by decide) rfl
theorem ori (d : Reg) (a : Reg) (i : BitVec 14) : Statement (.ori d a i) :=
  of_major (fieldOp_encI (by decide) d.isLt a.isLt i.isLt) (by decide) rfl
theorem xori (d : Reg) (a : Reg) (i : BitVec 14) : Statement (.xori d a i) :=
  of_major (fieldOp_encI (by decide) d.isLt a.isLt i.isLt) (by decide) rfl
theorem slli (d : Reg) (a : Reg) (n : BitVec 6) : Statement (.slli d a n) :=
  of_major (fieldOp_encI (by decide) d.isLt a.isLt (by have := n.isLt; omega)) (by decide) rfl
theorem srli (d : Reg) (a : Reg) (n : BitVec 6) : Statement (.srli d a n) :=
  of_major (fieldOp_encI (by decide) d.isLt a.isLt (by have := n.isLt; omega)) (by decide) rfl
theorem srai (d : Reg) (a : Reg) (n : BitVec 6) : Statement (.srai d a n) :=
  of_major (fieldOp_encI (by decide) d.isLt a.isLt (by have := n.isLt; omega)) (by decide) rfl
theorem rori (d : Reg) (a : Reg) (n : BitVec 6) : Statement (.rori d a n) :=
  of_major (fieldOp_encI (by decide) d.isLt a.isLt (by have := n.isLt; omega)) (by decide) rfl
theorem ldi (d : Reg) (i : BitVec 19) : Statement (.ldi d i) :=
  of_major (fieldOp_encL (by decide) d.isLt (by have := i.isLt; omega)) (by decide) rfl
theorem ldih (d : Reg) (i : BitVec 19) : Statement (.ldih d i) :=
  of_major (fieldOp_encL (by decide) d.isLt (by have := i.isLt; omega)) (by decide) rfl
theorem ldZ8 (d : Reg) (a : Reg) (i : BitVec 11) : Statement (.ldZ8 d a i) :=
  of_major (fieldOp_encI (by decide) d.isLt a.isLt (by have := i.isLt; omega)) (by decide) rfl
theorem ldZ16 (d : Reg) (a : Reg) (i : BitVec 11) : Statement (.ldZ16 d a i) :=
  of_major (fieldOp_encI (by decide) d.isLt a.isLt (by have := i.isLt; omega)) (by decide) rfl
theorem ldZ32 (d : Reg) (a : Reg) (i : BitVec 11) : Statement (.ldZ32 d a i) :=
  of_major (fieldOp_encI (by decide) d.isLt a.isLt (by have := i.isLt; omega)) (by decide) rfl
theorem ldZ64 (d : Reg) (a : Reg) (i : BitVec 11) : Statement (.ldZ64 d a i) :=
  of_major (fieldOp_encI (by decide) d.isLt a.isLt (by have := i.isLt; omega)) (by decide) rfl
theorem ldS8 (d : Reg) (a : Reg) (i : BitVec 11) : Statement (.ldS8 d a i) :=
  of_major (fieldOp_encI (by decide) d.isLt a.isLt (by have := i.isLt; omega)) (by decide) rfl
theorem ldS16 (d : Reg) (a : Reg) (i : BitVec 11) : Statement (.ldS16 d a i) :=
  of_major (fieldOp_encI (by decide) d.isLt a.isLt (by have := i.isLt; omega)) (by decide) rfl
theorem ldS32 (d : Reg) (a : Reg) (i : BitVec 11) : Statement (.ldS32 d a i) :=
  of_major (fieldOp_encI (by decide) d.isLt a.isLt (by have := i.isLt; omega)) (by decide) rfl
theorem stZ8 (d : Reg) (a : Reg) (i : BitVec 11) : Statement (.stZ8 d a i) :=
  of_major (fieldOp_encI (by decide) d.isLt a.isLt (by have := i.isLt; omega)) (by decide) rfl
theorem stZ16 (d : Reg) (a : Reg) (i : BitVec 11) : Statement (.stZ16 d a i) :=
  of_major (fieldOp_encI (by decide) d.isLt a.isLt (by have := i.isLt; omega)) (by decide) rfl
theorem stZ32 (d : Reg) (a : Reg) (i : BitVec 11) : Statement (.stZ32 d a i) :=
  of_major (fieldOp_encI (by decide) d.isLt a.isLt (by have := i.isLt; omega)) (by decide) rfl
theorem stZ64 (d : Reg) (a : Reg) (i : BitVec 11) : Statement (.stZ64 d a i) :=
  of_major (fieldOp_encI (by decide) d.isLt a.isLt (by have := i.isLt; omega)) (by decide) rfl
theorem ldb (d : Reg) (a : Reg) (w : Fin 64) (p : Bool) : Statement (.ldb d a w p) :=
  of_major (fieldOp_encA (by decide) d.isLt a.isLt w.isLt (by decide)) (by decide) rfl
theorem stb (d : Reg) (a : Reg) (w : Fin 64) (p : Bool) : Statement (.stb d a w p) :=
  of_major (fieldOp_encA (by decide) d.isLt a.isLt w.isLt (by decide)) (by decide) rfl
theorem beq (a : Reg) (b : Reg) (s : BitVec 14) : Statement (.beq a b s) :=
  of_major (fieldOp_encI (by decide) a.isLt b.isLt s.isLt) (by decide) rfl
theorem bne (a : Reg) (b : Reg) (s : BitVec 14) : Statement (.bne a b s) :=
  of_major (fieldOp_encI (by decide) a.isLt b.isLt s.isLt) (by decide) rfl
theorem bra (a : Reg) (s : BitVec 14) : Statement (.bra a s) :=
  of_major (fieldOp_encI (by decide) a.isLt a.isLt s.isLt) (by decide) rfl
theorem jal (d : Reg) (s : BitVec 20) : Statement (.jal d s) :=
  of_major (fieldOp_encL (by decide) d.isLt s.isLt) (by decide) rfl
theorem jalr (r : R2) : Statement (.jalr r) :=
  of_major (fieldOp_encR2 r (by decide) (by decide)) (by decide) rfl
theorem jtab (r : R3) : Statement (.jtab r) :=
  of_major (fieldOp_encR3 r (by decide) (by decide)) (by decide) rfl
theorem dcb (a : Reg) (b : Reg) (s : BitVec 14) : Statement (.dcb a b s) :=
  of_major (fieldOp_encI (by decide) a.isLt b.isLt s.isLt) (by decide) rfl
theorem csrr (d : Reg) (c : Csr) : Statement (.csrr d c) :=
  of_major (fieldOp_encI (by decide) d.isLt (by decide) (by have := Csr.number_lt c; omega)) (by decide) rfl
theorem csrw (d : Reg) (a : Reg) (c : Csr) : Statement (.csrw d a c) :=
  of_major (fieldOp_encI (by decide) d.isLt a.isLt (by have := Csr.number_lt c; omega)) (by decide) rfl
theorem csrs (d : Reg) (a : Reg) (c : Csr) : Statement (.csrs d a c) :=
  of_major (fieldOp_encI (by decide) d.isLt a.isLt (by have := Csr.number_lt c; omega)) (by decide) rfl
theorem csrc (d : Reg) (a : Reg) (c : Csr) : Statement (.csrc d a c) :=
  of_major (fieldOp_encI (by decide) d.isLt a.isLt (by have := Csr.number_lt c; omega)) (by decide) rfl
theorem nop : Statement .nop :=
  of_major (fieldOp_encI (by decide) (by decide) (by decide) (by decide)) (by decide) rfl
theorem endLaunch : Statement .endLaunch :=
  of_major (fieldOp_encI (by decide) (by decide) (by decide) (by decide)) (by decide) rfl
theorem brk : Statement .brk :=
  of_major (fieldOp_encI (by decide) (by decide) (by decide) (by decide)) (by decide) rfl
theorem vadd (x : Option Pfx) (r : R3) : Statement (.vadd x r) :=
  of_major (fieldOp_encR3 r (by decide) (by decide)) (by decide) rfl
theorem vsub (x : Option Pfx) (r : R3) : Statement (.vsub x r) :=
  of_major (fieldOp_encR3 r (by decide) (by decide)) (by decide) rfl
theorem vmul (x : Option Pfx) (r : R3) : Statement (.vmul x r) :=
  of_major (fieldOp_encR3 r (by decide) (by decide)) (by decide) rfl
theorem vdiv (x : Option Pfx) (r : R3) : Statement (.vdiv x r) :=
  of_major (fieldOp_encR3 r (by decide) (by decide)) (by decide) rfl
theorem vfma (x : Option Pfx) (r : R3) : Statement (.vfma x r) :=
  of_major (fieldOp_encR3 r (by decide) (by decide)) (by decide) rfl
theorem vfms (x : Option Pfx) (r : R3) : Statement (.vfms x r) :=
  of_major (fieldOp_encR3 r (by decide) (by decide)) (by decide) rfl
theorem vfnma (x : Option Pfx) (r : R3) : Statement (.vfnma x r) :=
  of_major (fieldOp_encR3 r (by decide) (by decide)) (by decide) rfl
theorem vmin (x : Option Pfx) (r : R3) : Statement (.vmin x r) :=
  of_major (fieldOp_encR3 r (by decide) (by decide)) (by decide) rfl
theorem vmax (x : Option Pfx) (r : R3) : Statement (.vmax x r) :=
  of_major (fieldOp_encR3 r (by decide) (by decide)) (by decide) rfl
theorem vabs (x : Option Pfx) (r : R2) : Statement (.vabs x r) :=
  of_major (fieldOp_encR2 r (by decide) (by decide)) (by decide) rfl
theorem vneg (x : Option Pfx) (r : R2) : Statement (.vneg x r) :=
  of_major (fieldOp_encR2 r (by decide) (by decide)) (by decide) rfl
theorem vcpys (x : Option Pfx) (r : R3) : Statement (.vcpys x r) :=
  of_major (fieldOp_encR3 r (by decide) (by decide)) (by decide) rfl
theorem vexp2 (x : Option Pfx) (r : R2) : Statement (.vexp2 x r) :=
  of_major (fieldOp_encR2 r (by decide) (by decide)) (by decide) rfl
theorem vlog2 (x : Option Pfx) (r : R2) : Statement (.vlog2 x r) :=
  of_major (fieldOp_encR2 r (by decide) (by decide)) (by decide) rfl
theorem vsinpi (x : Option Pfx) (r : R2) : Statement (.vsinpi x r) :=
  of_major (fieldOp_encR2 r (by decide) (by decide)) (by decide) rfl
theorem vcospi (x : Option Pfx) (r : R2) : Statement (.vcospi x r) :=
  of_major (fieldOp_encR2 r (by decide) (by decide)) (by decide) rfl
theorem vrcp (x : Option Pfx) (r : R2) : Statement (.vrcp x r) :=
  of_major (fieldOp_encR2 r (by decide) (by decide)) (by decide) rfl
theorem vrsqrt (x : Option Pfx) (r : R2) : Statement (.vrsqrt x r) :=
  of_major (fieldOp_encR2 r (by decide) (by decide)) (by decide) rfl
theorem vsqrt (x : Option Pfx) (r : R2) : Statement (.vsqrt x r) :=
  of_major (fieldOp_encR2 r (by decide) (by decide)) (by decide) rfl
theorem vtanh (x : Option Pfx) (r : R2) : Statement (.vtanh x r) :=
  of_major (fieldOp_encR2 r (by decide) (by decide)) (by decide) rfl
theorem viadd (x : Option Pfx) (r : R3) : Statement (.viadd x r) :=
  of_major (fieldOp_encR3 r (by decide) (by decide)) (by decide) rfl
theorem visub (x : Option Pfx) (r : R3) : Statement (.visub x r) :=
  of_major (fieldOp_encR3 r (by decide) (by decide)) (by decide) rfl
theorem vimul (x : Option Pfx) (r : R3) : Statement (.vimul x r) :=
  of_major (fieldOp_encR3 r (by decide) (by decide)) (by decide) rfl
theorem vimin (x : Option Pfx) (r : R3) : Statement (.vimin x r) :=
  of_major (fieldOp_encR3 r (by decide) (by decide)) (by decide) rfl
theorem vimax (x : Option Pfx) (r : R3) : Statement (.vimax x r) :=
  of_major (fieldOp_encR3 r (by decide) (by decide)) (by decide) rfl
theorem vand (x : Option Pfx) (r : R3) : Statement (.vand x r) :=
  of_major (fieldOp_encR3 r (by decide) (by decide)) (by decide) rfl
theorem vor (x : Option Pfx) (r : R3) : Statement (.vor x r) :=
  of_major (fieldOp_encR3 r (by decide) (by decide)) (by decide) rfl
theorem vxor (x : Option Pfx) (r : R3) : Statement (.vxor x r) :=
  of_major (fieldOp_encR3 r (by decide) (by decide)) (by decide) rfl
theorem vsll (x : Option Pfx) (r : R3) : Statement (.vsll x r) :=
  of_major (fieldOp_encR3 r (by decide) (by decide)) (by decide) rfl
theorem vsrl (x : Option Pfx) (r : R3) : Statement (.vsrl x r) :=
  of_major (fieldOp_encR3 r (by decide) (by decide)) (by decide) rfl
theorem vsra (x : Option Pfx) (r : R3) : Statement (.vsra x r) :=
  of_major (fieldOp_encR3 r (by decide) (by decide)) (by decide) rfl
theorem viadds (x : Option Pfx) (r : R3) : Statement (.viadds x r) :=
  of_major (fieldOp_encR3 r (by decide) (by decide)) (by decide) rfl
theorem vceq (x : Option Pfx) (r : CmpOps) : Statement (.vceq x r) :=
  of_major (fieldOp_encCmp r (by decide) (by decide)) (by decide) rfl
theorem vclt (x : Option Pfx) (r : CmpOps) : Statement (.vclt x r) :=
  of_major (fieldOp_encCmp r (by decide) (by decide)) (by decide) rfl
theorem vcle (x : Option Pfx) (r : CmpOps) : Statement (.vcle x r) :=
  of_major (fieldOp_encCmp r (by decide) (by decide)) (by decide) rfl
theorem viceq (x : Option Pfx) (r : CmpOps) : Statement (.viceq x r) :=
  of_major (fieldOp_encCmp r (by decide) (by decide)) (by decide) rfl
theorem viclt (x : Option Pfx) (r : CmpOps) : Statement (.viclt x r) :=
  of_major (fieldOp_encCmp r (by decide) (by decide)) (by decide) rfl
theorem vicltu (x : Option Pfx) (r : CmpOps) : Statement (.vicltu x r) :=
  of_major (fieldOp_encCmp r (by decide) (by decide)) (by decide) rfl
theorem vsel (x : Option Pfx) (r : R3) : Statement (.vsel x r) :=
  of_major (fieldOp_encR3 r (by decide) (by decide)) (by decide) rfl
theorem mand (x : Option Pfx) (d : MReg) (a : MReg) (b : MReg) : Statement (.mand x d a b) :=
  of_major (fieldOp_encA (by decide) (by have := d.isLt; omega) (by have := a.isLt; omega) (by have := b.isLt; omega) (by decide)) (by decide) rfl
theorem mor (x : Option Pfx) (d : MReg) (a : MReg) (b : MReg) : Statement (.mor x d a b) :=
  of_major (fieldOp_encA (by decide) (by have := d.isLt; omega) (by have := a.isLt; omega) (by have := b.isLt; omega) (by decide)) (by decide) rfl
theorem mxor (x : Option Pfx) (d : MReg) (a : MReg) (b : MReg) : Statement (.mxor x d a b) :=
  of_major (fieldOp_encA (by decide) (by have := d.isLt; omega) (by have := a.isLt; omega) (by have := b.isLt; omega) (by decide)) (by decide) rfl
theorem mnot (x : Option Pfx) (d : MReg) (a : MReg) : Statement (.mnot x d a) :=
  of_major (fieldOp_encA (by decide) (by have := d.isLt; omega) (by have := a.isLt; omega) (by decide) (by decide)) (by decide) rfl
theorem mtog (x : Option Pfx) (d : Reg) (a : MReg) : Statement (.mtog x d a) :=
  of_major (fieldOp_encA (by decide) d.isLt (by have := a.isLt; omega) (by decide) (by decide)) (by decide) rfl
theorem gtom (x : Option Pfx) (d : MReg) (a : Reg) (p : Bool) : Statement (.gtom x d a p) :=
  of_major (fieldOp_encA (by decide) (by have := d.isLt; omega) a.isLt (by decide) (by decide)) (by decide) rfl
theorem vcvtfi (x : Option Pfx) (r : R2) : Statement (.vcvtfi x r) :=
  of_major (fieldOp_encR2 r (by decide) (by decide)) (by decide) rfl
theorem vcvtfu (x : Option Pfx) (r : R2) : Statement (.vcvtfu x r) :=
  of_major (fieldOp_encR2 r (by decide) (by decide)) (by decide) rfl
theorem vcvtif (x : Option Pfx) (r : R2) : Statement (.vcvtif x r) :=
  of_major (fieldOp_encR2 r (by decide) (by decide)) (by decide) rfl
theorem vcvtuf (x : Option Pfx) (r : R2) : Statement (.vcvtuf x r) :=
  of_major (fieldOp_encR2 r (by decide) (by decide)) (by decide) rfl
theorem vcvth (x : Option Pfx) (r : R2) : Statement (.vcvth x r) :=
  of_major (fieldOp_encR2 r (by decide) (by decide)) (by decide) rfl
theorem vcvtb (x : Option Pfx) (r : R2) : Statement (.vcvtb x r) :=
  of_major (fieldOp_encR2 r (by decide) (by decide)) (by decide) rfl
theorem vcvte4 (x : Option Pfx) (r : R2) : Statement (.vcvte4 x r) :=
  of_major (fieldOp_encR2 r (by decide) (by decide)) (by decide) rfl
theorem vcvte5 (x : Option Pfx) (r : R2) : Statement (.vcvte5 x r) :=
  of_major (fieldOp_encR2 r (by decide) (by decide)) (by decide) rfl
theorem vwidh (x : Option Pfx) (r : R2) : Statement (.vwidh x r) :=
  of_major (fieldOp_encR2 r (by decide) (by decide)) (by decide) rfl
theorem vwidb (x : Option Pfx) (r : R2) : Statement (.vwidb x r) :=
  of_major (fieldOp_encR2 r (by decide) (by decide)) (by decide) rfl
theorem vwide4 (x : Option Pfx) (r : R2) : Statement (.vwide4 x r) :=
  of_major (fieldOp_encR2 r (by decide) (by decide)) (by decide) rfl
theorem vwide5 (x : Option Pfx) (r : R2) : Statement (.vwide5 x r) :=
  of_major (fieldOp_encR2 r (by decide) (by decide)) (by decide) rfl
theorem vperm (x : Option Pfx) (r : R3) : Statement (.vperm x r) :=
  of_major (fieldOp_encR3 r (by decide) (by decide)) (by decide) rfl
theorem vbcast (x : Option Pfx) (d : Reg) (a : Reg) (n : Fin 32) (p : Bool) : Statement (.vbcast x d a n p) :=
  of_major (fieldOp_encA (by decide) d.isLt a.isLt (by have := n.isLt; omega) (by decide)) (by decide) rfl
theorem vslideup (x : Option Pfx) (d : Reg) (a : Reg) (n : Fin 32) (p : Bool) : Statement (.vslideup x d a n p) :=
  of_major (fieldOp_encA (by decide) d.isLt a.isLt (by have := n.isLt; omega) (by decide)) (by decide) rfl
theorem vslidedn (x : Option Pfx) (d : Reg) (a : Reg) (n : Fin 32) (p : Bool) : Statement (.vslidedn x d a n p) :=
  of_major (fieldOp_encA (by decide) d.isLt a.isLt (by have := n.isLt; omega) (by decide)) (by decide) rfl
theorem vzip (x : Option Pfx) (r : R3) : Statement (.vzip x r) :=
  of_major (fieldOp_encR3 r (by decide) (by decide)) (by decide) rfl
theorem vunzip (x : Option Pfx) (r : R3) : Statement (.vunzip x r) :=
  of_major (fieldOp_encR3 r (by decide) (by decide)) (by decide) rfl
theorem vrsum (x : Option Pfx) (r : R2) : Statement (.vrsum x r) :=
  of_major (fieldOp_encR2 r (by decide) (by decide)) (by decide) rfl
theorem vrmax (x : Option Pfx) (r : R2) : Statement (.vrmax x r) :=
  of_major (fieldOp_encR2 r (by decide) (by decide)) (by decide) rfl
theorem vrmin (x : Option Pfx) (r : R2) : Statement (.vrmin x r) :=
  of_major (fieldOp_encR2 r (by decide) (by decide)) (by decide) rfl
theorem virsum (x : Option Pfx) (r : R2) : Statement (.virsum x r) :=
  of_major (fieldOp_encR2 r (by decide) (by decide)) (by decide) rfl
theorem vldtRow (x : Option Pfx) (r : R3) : Statement (.vldtRow x r) :=
  of_major (fieldOp_encR3 r (by decide) (by decide)) (by decide) rfl
theorem vldtCol (x : Option Pfx) (r : R3) : Statement (.vldtCol x r) :=
  of_major (fieldOp_encR3 r (by decide) (by decide)) (by decide) rfl
theorem vsttRow (x : Option Pfx) (r : R3) : Statement (.vsttRow x r) :=
  of_major (fieldOp_encR3 r (by decide) (by decide)) (by decide) rfl
theorem vsttCol (x : Option Pfx) (r : R3) : Statement (.vsttCol x r) :=
  of_major (fieldOp_encR3 r (by decide) (by decide)) (by decide) rfl
theorem jseed (x : Option Pfx) (r : R2) : Statement (.jseed x r) :=
  of_major (fieldOp_encR2 r (by decide) (by decide)) (by decide) rfl
theorem jconst (x : Option Pfx) (r : R2) : Statement (.jconst x r) :=
  of_major (fieldOp_encR2 r (by decide) (by decide)) (by decide) rfl
theorem jext (x : Option Pfx) (d : Reg) (a : Reg) (c : Fin 8) (p : Bool) : Statement (.jext x d a c p) :=
  of_major (fieldOp_encA (by decide) d.isLt a.isLt (by have := c.isLt; omega) (by decide)) (by decide) rfl
theorem jextD (x : Option Pfx) (d : Reg) (a : Reg) (c : Fin 8) (p : Bool) : Statement (.jextD x d a c p) :=
  of_major (fieldOp_encA (by decide) d.isLt a.isLt (by have := c.isLt; omega) (by decide)) (by decide) rfl
theorem jins (x : Option Pfx) (d : Reg) (a : Reg) (c : Fin 8) (p : Bool) : Statement (.jins x d a c p) :=
  of_major (fieldOp_encA (by decide) d.isLt a.isLt (by have := c.isLt; omega) (by decide)) (by decide) rfl
theorem mcfg (a : Reg) (p : Bool) (k : KField) : Statement (.mcfg a p k) :=
  of_major (fieldOp_encA (by decide) (by decide) a.isLt (by decide) (by have := k.isLt; omega)) (by decide) rfl
theorem mma (r : R3) (k : KField) : Statement (.mma r k) :=
  of_major (fieldOp_encR3 r (by decide) (by have := k.isLt; omega)) (by decide) rfl
theorem mswap (k : KField) : Statement (.mswap k) :=
  of_major (fieldOp_encA (by decide) (by decide) (by decide) (by decide) (by have := k.isLt; omega)) (by decide) rfl
theorem mrowGet (r : R2) (k : KField) : Statement (.mrowGet r k) :=
  of_major (fieldOp_encR2 r (by decide) (by have := k.isLt; omega)) (by decide) rfl
theorem mrowPut (r : R2) (k : KField) : Statement (.mrowPut r k) :=
  of_major (fieldOp_encR2 r (by decide) (by have := k.isLt; omega)) (by decide) rfl
theorem mcolGet (r : R2) (k : KField) : Statement (.mcolGet r k) :=
  of_major (fieldOp_encR2 r (by decide) (by have := k.isLt; omega)) (by decide) rfl
theorem mcolPut (r : R2) (k : KField) : Statement (.mcolPut r k) :=
  of_major (fieldOp_encR2 r (by decide) (by have := k.isLt; omega)) (by decide) rfl
theorem mdrain (r : R3) (k : KField) : Statement (.mdrain r k) :=
  of_major (fieldOp_encR3 r (by decide) (by have := k.isLt; omega)) (by decide) rfl
theorem mzero (k : KField) : Statement (.mzero k) :=
  of_major (fieldOp_encA (by decide) (by decide) (by decide) (by decide) (by have := k.isLt; omega)) (by decide) rfl
theorem cpy (r : R3) (k : KField) : Statement (.cpy r k) :=
  of_major (fieldOp_encR3 r (by decide) (by have := k.isLt; omega)) (by decide) rfl
theorem cpyMma (r : R3) (k : KField) : Statement (.cpyMma r k) :=
  of_major (fieldOp_encR3 r (by decide) (by have := k.isLt; omega)) (by decide) rfl
theorem cpym (r : R3) (k : KField) : Statement (.cpym r k) :=
  of_major (fieldOp_encR3 r (by decide) (by have := k.isLt; omega)) (by decide) rfl
theorem cpymMma (r : R3) (k : KField) : Statement (.cpymMma r k) :=
  of_major (fieldOp_encR3 r (by decide) (by have := k.isLt; omega)) (by decide) rfl
theorem qfence (m : BitVec 5) : Statement (.qfence m) :=
  of_major (fieldOp_encA (by decide) (by decide) (by decide) (by have := m.isLt; omega) (by decide)) (by decide) rfl
theorem qwait (d : Reg) (m : BitVec 5) : Statement (.qwait d m) :=
  of_major (fieldOp_encA (by decide) d.isLt (by decide) (by have := m.isLt; omega) (by decide)) (by decide) rfl
theorem talloc (r : R3) : Statement (.talloc r) :=
  of_major (fieldOp_encR3 r (by decide) (by decide)) (by decide) rfl
theorem tfree (a : Reg) (p : Bool) : Statement (.tfree a p) :=
  of_major (fieldOp_encA (by decide) (by decide) a.isLt (by decide) (by decide)) (by decide) rfl
theorem tstat (r : R2) : Statement (.tstat r) :=
  of_major (fieldOp_encR2 r (by decide) (by decide)) (by decide) rfl
theorem tsusp (r : R3) : Statement (.tsusp r) :=
  of_major (fieldOp_encR3 r (by decide) (by decide)) (by decide) rfl
theorem force (a : Reg) (p : Bool) : Statement (.force a p) :=
  of_major (fieldOp_encA (by decide) (by decide) a.isLt (by decide) (by decide)) (by decide) rfl
theorem forceNb (r : R2) : Statement (.forceNb r) :=
  of_major (fieldOp_encR2 r (by decide) (by decide)) (by decide) rfl
theorem spark (a : Reg) (p : Bool) : Statement (.spark a p) :=
  of_major (fieldOp_encA (by decide) (by decide) a.isLt (by decide) (by decide)) (by decide) rfl
theorem tdone : Statement .tdone :=
  of_major (fieldOp_encA (by decide) (by decide) (by decide) (by decide) (by decide)) (by decide) rfl
theorem aaddZ32 (t : AtomOps) (n : Bool) : Statement (.aaddZ32 t n) :=
  of_major (fieldOp_encAtom t n (by decide)) (by decide) rfl
theorem aaddZ64 (t : AtomOps) (n : Bool) : Statement (.aaddZ64 t n) :=
  of_major (fieldOp_encAtom t n (by decide)) (by decide) rfl
theorem aminS32 (t : AtomOps) (n : Bool) : Statement (.aminS32 t n) :=
  of_major (fieldOp_encAtom t n (by decide)) (by decide) rfl
theorem aminS64 (t : AtomOps) (n : Bool) : Statement (.aminS64 t n) :=
  of_major (fieldOp_encAtom t n (by decide)) (by decide) rfl
theorem aminZ32 (t : AtomOps) (n : Bool) : Statement (.aminZ32 t n) :=
  of_major (fieldOp_encAtom t n (by decide)) (by decide) rfl
theorem aminZ64 (t : AtomOps) (n : Bool) : Statement (.aminZ64 t n) :=
  of_major (fieldOp_encAtom t n (by decide)) (by decide) rfl
theorem amaxS32 (t : AtomOps) (n : Bool) : Statement (.amaxS32 t n) :=
  of_major (fieldOp_encAtom t n (by decide)) (by decide) rfl
theorem amaxS64 (t : AtomOps) (n : Bool) : Statement (.amaxS64 t n) :=
  of_major (fieldOp_encAtom t n (by decide)) (by decide) rfl
theorem amaxZ32 (t : AtomOps) (n : Bool) : Statement (.amaxZ32 t n) :=
  of_major (fieldOp_encAtom t n (by decide)) (by decide) rfl
theorem amaxZ64 (t : AtomOps) (n : Bool) : Statement (.amaxZ64 t n) :=
  of_major (fieldOp_encAtom t n (by decide)) (by decide) rfl
theorem aandZ32 (t : AtomOps) (n : Bool) : Statement (.aandZ32 t n) :=
  of_major (fieldOp_encAtom t n (by decide)) (by decide) rfl
theorem aandZ64 (t : AtomOps) (n : Bool) : Statement (.aandZ64 t n) :=
  of_major (fieldOp_encAtom t n (by decide)) (by decide) rfl
theorem aorZ32 (t : AtomOps) (n : Bool) : Statement (.aorZ32 t n) :=
  of_major (fieldOp_encAtom t n (by decide)) (by decide) rfl
theorem aorZ64 (t : AtomOps) (n : Bool) : Statement (.aorZ64 t n) :=
  of_major (fieldOp_encAtom t n (by decide)) (by decide) rfl
theorem axorZ32 (t : AtomOps) (n : Bool) : Statement (.axorZ32 t n) :=
  of_major (fieldOp_encAtom t n (by decide)) (by decide) rfl
theorem axorZ64 (t : AtomOps) (n : Bool) : Statement (.axorZ64 t n) :=
  of_major (fieldOp_encAtom t n (by decide)) (by decide) rfl
theorem aswapZ32 (t : AtomOps) (n : Bool) : Statement (.aswapZ32 t n) :=
  of_major (fieldOp_encAtom t n (by decide)) (by decide) rfl
theorem aswapZ64 (t : AtomOps) (n : Bool) : Statement (.aswapZ64 t n) :=
  of_major (fieldOp_encAtom t n (by decide)) (by decide) rfl
theorem acasZ32 (t : AtomOps) : Statement (.acasZ32 t) :=
  of_major (fieldOp_encAtom t false (by decide)) (by decide) rfl
theorem acasZ64 (t : AtomOps) : Statement (.acasZ64 t) :=
  of_major (fieldOp_encAtom t false (by decide)) (by decide) rfl
theorem afaddF32 (t : AtomOps) (n : Bool) : Statement (.afaddF32 t n) :=
  of_major (fieldOp_encAtom t n (by decide)) (by decide) rfl
theorem afaddBf16x2 (t : AtomOps) (n : Bool) : Statement (.afaddBf16x2 t n) :=
  of_major (fieldOp_encAtom t n (by decide)) (by decide) rfl
theorem asnapZ32 (t : AtomOps) : Statement (.asnapZ32 t) :=
  of_major (fieldOp_encAtom t false (by decide)) (by decide) rfl
theorem asnapZ64 (t : AtomOps) : Statement (.asnapZ64 t) :=
  of_major (fieldOp_encAtom t false (by decide)) (by decide) rfl
theorem aldZ32 (t : AtomOps) : Statement (.aldZ32 t) :=
  of_major (fieldOp_encAtom t false (by decide)) (by decide) rfl
theorem aldZ64 (t : AtomOps) : Statement (.aldZ64 t) :=
  of_major (fieldOp_encAtom t false (by decide)) (by decide) rfl
theorem astZ32 (t : AtomOps) : Statement (.astZ32 t) :=
  of_major (fieldOp_encAtom t true (by decide)) (by decide) rfl
theorem astZ64 (t : AtomOps) : Statement (.astZ64 t) :=
  of_major (fieldOp_encAtom t true (by decide)) (by decide) rfl
theorem fence (o : MemOrder) (s : MemScope) : Statement (.fence o s) :=
  of_major (fieldOp_encSync (by decide) (by have := MemOrder.code_lt o; have := MemScope.code_lt s; omega)) (by decide) rfl
theorem barr (g : GroupNo) : Statement (.barr g) :=
  of_major (fieldOp_encSync (by decide) (by have := g.isLt; omega)) (by decide) rfl
theorem bwait (g : GroupNo) : Statement (.bwait g) :=
  of_major (fieldOp_encSync (by decide) (by have := g.isLt; omega)) (by decide) rfl
theorem phreg (r : Role) (g : GroupNo) : Statement (.phreg r g) :=
  of_major (fieldOp_encSync (by decide) (by have := Role.code_lt r; have := g.isLt; omega)) (by decide) rfl
theorem phsig (g : GroupNo) : Statement (.phsig g) :=
  of_major (fieldOp_encSync (by decide) (by have := g.isLt; omega)) (by decide) rfl
theorem phwait (g : GroupNo) : Statement (.phwait g) :=
  of_major (fieldOp_encSync (by decide) (by have := g.isLt; omega)) (by decide) rfl
theorem gang (z : GangSize) : Statement (.gang z) :=
  of_major (fieldOp_encSync (by decide) (by have := GangSize.code_lt z; omega)) (by decide) rfl
theorem ungang : Statement .ungang :=
  of_major (fieldOp_encSync (by decide) (by decide)) (by decide) rfl
theorem rangeInit (r : R3) : Statement (.rangeInit r) :=
  of_major (fieldOp_encR3 r (by decide) (by decide)) (by decide) rfl
theorem glean (d : Reg) : Statement (.glean d) :=
  of_major (fieldOp_encA (by decide) d.isLt (by decide) (by decide) (by decide)) (by decide) rfl
theorem tryAlt (a : Reg) (b : Reg) (p : Bool) (q : Bool) : Statement (.tryAlt a b p q) :=
  of_major (fieldOp_encA (by decide) (by decide) a.isLt b.isLt (by decide)) (by decide) rfl
theorem failBack : Statement .failBack :=
  of_major (fieldOp_encA (by decide) (by decide) (by decide) (by decide) (by decide)) (by decide) rfl
theorem cutTo (a : Reg) (p : Bool) : Statement (.cutTo a p) :=
  of_major (fieldOp_encA (by decide) (by decide) a.isLt (by decide) (by decide)) (by decide) rfl
theorem chmark (d : Reg) (b : ChSel) : Statement (.chmark d b) :=
  of_major (fieldOp_encA (by decide) d.isLt (by decide) (by split <;> decide) (by decide)) (by decide) rfl
theorem tst (r : R2) : Statement (.tst r) :=
  of_major (fieldOp_encR2 r (by decide) (by decide)) (by decide) rfl
theorem claim (r : R2) : Statement (.claim r) :=
  of_major (fieldOp_encR2 r (by decide) (by decide)) (by decide) rfl
theorem sow (x : Option Pfx) (r : R3) : Statement (.sow x r) :=
  of_major (fieldOp_encR3 r (by decide) (by decide)) (by decide) rfl
theorem sowIx (x : Option Pfx) (r : R3) : Statement (.sowIx x r) :=
  of_major (fieldOp_encR3 r (by decide) (by decide)) (by decide) rfl
theorem topk (x : Option Pfx) (r : R3) : Statement (.topk x r) :=
  of_major (fieldOp_encR3 r (by decide) (by decide)) (by decide) rfl
theorem gnorm (x : Option Pfx) (r : R2) : Statement (.gnorm x r) :=
  of_major (fieldOp_encR2 r (by decide) (by decide)) (by decide) rfl
theorem part (x : Option Pfx) (r : R3) : Statement (.part x r) :=
  of_major (fieldOp_encR3 r (by decide) (by decide)) (by decide) rfl
theorem illegalInstruction (tv : Word) : Statement (.illegalInstruction tv) :=
  ⟨nofun, fun _ => ⟨rfl, rfl⟩⟩
theorem deviceReset : Statement .deviceReset :=
  ⟨nofun, fun _ => ⟨rfl, rfl⟩⟩
theorem functionReady (f : Frond) (bit : Fin 64) (decoded : Word) : Statement (.functionReady f bit decoded) :=
  ⟨nofun, fun _ => ⟨rfl, rfl⟩⟩
theorem functionFail (f : Frond) (bit : Fin 64) : Statement (.functionFail f bit) :=
  ⟨nofun, fun _ => ⟨rfl, rfl⟩⟩
theorem registerWrite (off : Nat) (v : Word) : Statement (.registerWrite off v) :=
  ⟨nofun, fun _ => ⟨rfl, rfl⟩⟩
theorem doorbell (q : Nat) (v : Word32) : Statement (.doorbell q v) :=
  ⟨nofun, fun _ => ⟨rfl, rfl⟩⟩
theorem takeBoundaryTrap (c : CoreNo) : Statement (.takeBoundaryTrap c) :=
  ⟨nofun, fun _ => ⟨rfl, rfl⟩⟩
theorem launchPark (l : Nat) : Statement (.launchPark l) :=
  ⟨nofun, fun _ => ⟨rfl, rfl⟩⟩
theorem launchResume (l : Nat) : Statement (.launchResume l) :=
  ⟨nofun, fun _ => ⟨rfl, rfl⟩⟩
theorem launchEnd (l : Nat) : Statement (.launchEnd l) :=
  ⟨nofun, fun _ => ⟨rfl, rfl⟩⟩
theorem serviceResume (c : CoreNo) : Statement (.serviceResume c) :=
  ⟨nofun, fun _ => ⟨rfl, rfl⟩⟩
theorem serviceAbort (c : CoreNo) : Statement (.serviceAbort c) :=
  ⟨nofun, fun _ => ⟨rfl, rfl⟩⟩
theorem serviceHalt (c : CoreNo) : Statement (.serviceHalt c) :=
  ⟨nofun, fun _ => ⟨rfl, rfl⟩⟩
theorem faultRingRead (f : Frond) (v : Word32) : Statement (.faultRingRead f v) :=
  ⟨nofun, fun _ => ⟨rfl, rfl⟩⟩
theorem substituteCore (v : Word) : Statement (.substituteCore v) :=
  ⟨nofun, fun _ => ⟨rfl, rfl⟩⟩
theorem substituteBank (v : Word) : Statement (.substituteBank v) :=
  ⟨nofun, fun _ => ⟨rfl, rfl⟩⟩
theorem retireFrond (v : Word) : Statement (.retireFrond v) :=
  ⟨nofun, fun _ => ⟨rfl, rfl⟩⟩
theorem substitutionPerform : Statement .substitutionPerform :=
  ⟨nofun, fun _ => ⟨rfl, rfl⟩⟩
theorem wearOutRemoval (c : CoreNo) : Statement (.wearOutRemoval c) :=
  ⟨nofun, fun _ => ⟨rfl, rfl⟩⟩
theorem rebase : Statement .rebase :=
  ⟨nofun, fun _ => ⟨rfl, rfl⟩⟩
theorem tlbInvalidate (v : Word) : Statement (.tlbInvalidate v) :=
  ⟨nofun, fun _ => ⟨rfl, rfl⟩⟩
theorem tlbInvalidateComplete : Statement .tlbInvalidateComplete :=
  ⟨nofun, fun _ => ⟨rfl, rfl⟩⟩
theorem attestRequest : Statement .attestRequest :=
  ⟨nofun, fun _ => ⟨rfl, rfl⟩⟩
theorem attestReportReady : Statement .attestReportReady :=
  ⟨nofun, fun _ => ⟨rfl, rfl⟩⟩
theorem inboundSvlRequest (rq : SvlRequest) : Statement (.inboundSvlRequest rq) :=
  ⟨nofun, fun _ => ⟨rfl, rfl⟩⟩
theorem homeAccess (n : Nat) : Statement (.homeAccess n) :=
  ⟨nofun, fun _ => ⟨rfl, rfl⟩⟩
theorem errorResponse (n : Nat) : Statement (.errorResponse n) :=
  ⟨nofun, fun _ => ⟨rfl, rfl⟩⟩
theorem storeAck (n : Nat) : Statement (.storeAck n) :=
  ⟨nofun, fun _ => ⟨rfl, rfl⟩⟩
theorem registerFill (n : Nat) : Statement (.registerFill n) :=
  ⟨nofun, fun _ => ⟨rfl, rfl⟩⟩
theorem atomicAtHome (n : Nat) : Statement (.atomicAtHome n) :=
  ⟨nofun, fun _ => ⟨rfl, rfl⟩⟩
theorem routerMerge (n : Nat) (m : Nat) : Statement (.routerMerge n m) :=
  ⟨nofun, fun _ => ⟨rfl, rfl⟩⟩
theorem translationWalk (c : CoreNo) (req : Fin 8) : Statement (.translationWalk c req) :=
  ⟨nofun, fun _ => ⟨rfl, rfl⟩⟩
theorem heldWriteRelease (n : Nat) : Statement (.heldWriteRelease n) :=
  ⟨nofun, fun _ => ⟨rfl, rfl⟩⟩
theorem niPacketRelease (n : Nat) : Statement (.niPacketRelease n) :=
  ⟨nofun, fun _ => ⟨rfl, rfl⟩⟩
theorem packetEviction (w : Evictor) (b : List Nat) : Statement (.packetEviction w b) :=
  ⟨nofun, fun _ => ⟨rfl, rfl⟩⟩
theorem nackResend (n : Nat) : Statement (.nackResend n) :=
  ⟨nofun, fun _ => ⟨rfl, rfl⟩⟩
theorem rhizomeStamp (n : Nat) : Statement (.rhizomeStamp n) :=
  ⟨nofun, fun _ => ⟨rfl, rfl⟩⟩
theorem rhizomeArrival (n : Nat) : Statement (.rhizomeArrival n) :=
  ⟨nofun, fun _ => ⟨rfl, rfl⟩⟩
theorem rhizomeApply (n : Nat) : Statement (.rhizomeApply n) :=
  ⟨nofun, fun _ => ⟨rfl, rfl⟩⟩
theorem rhizomeResend (n : Nat) : Statement (.rhizomeResend n) :=
  ⟨nofun, fun _ => ⟨rfl, rfl⟩⟩
theorem copyStart (c : CoreNo) (k : KField) : Statement (.copyStart c k) :=
  ⟨nofun, fun _ => ⟨rfl, rfl⟩⟩
theorem copyComplete (c : CoreNo) (k : KField) : Statement (.copyComplete c k) :=
  ⟨nofun, fun _ => ⟨rfl, rfl⟩⟩
theorem mmaPerform (c : CoreNo) : Statement (.mmaPerform c) :=
  ⟨nofun, fun _ => ⟨rfl, rfl⟩⟩
theorem mswapPerform (c : CoreNo) : Statement (.mswapPerform c) :=
  ⟨nofun, fun _ => ⟨rfl, rfl⟩⟩
theorem mzeroPerform (c : CoreNo) : Statement (.mzeroPerform c) :=
  ⟨nofun, fun _ => ⟨rfl, rfl⟩⟩
theorem mdrainPerform (c : CoreNo) : Statement (.mdrainPerform c) :=
  ⟨nofun, fun _ => ⟨rfl, rfl⟩⟩
theorem loftRequest (w : LoftWho) : Statement (.loftRequest w) :=
  ⟨nofun, fun _ => ⟨rfl, rfl⟩⟩
theorem stookEvaluate (c : CoreNo) : Statement (.stookEvaluate c) :=
  ⟨nofun, fun _ => ⟨rfl, rfl⟩⟩
theorem evaluationComplete (c : CoreNo) : Statement (.evaluationComplete c) :=
  ⟨nofun, fun _ => ⟨rfl, rfl⟩⟩
theorem waiterWake (c : CoreNo) : Statement (.waiterWake c) :=
  ⟨nofun, fun _ => ⟨rfl, rfl⟩⟩
theorem callFrameStart (c : CoreNo) : Statement (.callFrameStart c) :=
  ⟨nofun, fun _ => ⟨rfl, rfl⟩⟩
theorem channelRequest (l : Nat) (g : GroupNo) : Statement (.channelRequest l g) :=
  ⟨nofun, fun _ => ⟨rfl, rfl⟩⟩
theorem gangForm (c : CoreNo) : Statement (.gangForm c) :=
  ⟨nofun, fun _ => ⟨rfl, rfl⟩⟩
theorem rangeTake (c : CoreNo) : Statement (.rangeTake c) :=
  ⟨nofun, fun _ => ⟨rfl, rfl⟩⟩
theorem alternativeTheft (c : CoreNo) : Statement (.alternativeTheft c) :=
  ⟨nofun, fun _ => ⟨rfl, rfl⟩⟩
theorem gleanResearch (c : CoreNo) : Statement (.gleanResearch c) :=
  ⟨nofun, fun _ => ⟨rfl, rfl⟩⟩
theorem gleanEmpty (l : Nat) : Statement (.gleanEmpty l) :=
  ⟨nofun, fun _ => ⟨rfl, rfl⟩⟩
theorem svlVisibilityConfirm (c : CoreNo) (port : Nat) : Statement (.svlVisibilityConfirm c port) :=
  ⟨nofun, fun _ => ⟨rfl, rfl⟩⟩
theorem linkLevelRetry (port : Nat) : Statement (.linkLevelRetry port) :=
  ⟨nofun, fun _ => ⟨rfl, rfl⟩⟩
theorem wearRecordUpdate (u : Nat) (wear : Byte) (eolh : BitVec 16) : Statement (.wearRecordUpdate u wear eolh) :=
  ⟨nofun, fun _ => ⟨rfl, rfl⟩⟩

end Sys2Proof.Laws.F
end

