-- ==== Sys2Proof/Laws/Traps.lean ====
section
/-! SUPPORT. What taking an exception, waiting, checking an address and sending a packet leave as it was: memory, the lofts, the core that
issues, and at every core at which no GLEAN waits its registers, full bits, accumulators and PC. -/
namespace Sys2Proof.Machine

/-- The registers of a core that a program computes with (R55, R222), its full bits, its PC and its GLEAN. -/
structure Core.SameRegs (k u : Core) : Prop where
  g     : u.g = k.g
  gfull : u.gfull = k.gfull
  v     : u.v = k.v
  vfull : u.vfull = k.vfull
  m     : u.m = k.m
  acc   : u.acc = k.acc
  pc    : u.pc = k.pc
  glean : u.glean = k.glean

theorem Core.SameRegs.refl (k : Core) : k.SameRegs k := by constructor <;> rfl

theorem Core.SameRegs.trans {k u w : Core} (a : k.SameRegs u) (b : u.SameRegs w) : k.SameRegs w :=
  ⟨b.g.trans a.g, b.gfull.trans a.gfull, b.v.trans a.v, b.vfull.trans a.vfull, b.m.trans a.m, b.acc.trans a.acc, b.pc.trans a.pc,
   b.glean.trans a.glean⟩

/-- A state whose memory, lofts and issuing core are those of another, and whose registers are, at every core at which no
GLEAN waits: one that waits may have been withdrawn (R365). -/
structure State.SameData (s t : State) : Prop where
  mem  : t.mem = s.mem
  loft : t.loft = s.loft
  cur  : t.cur = s.cur
  core : ∀ c, (s.core c).glean = none → (s.core c).SameRegs (t.core c)

namespace State.SameData

theorem refl (s : State) : s.SameData s := ⟨rfl, rfl, rfl, fun _ _ => .refl _⟩

theorem trans {s t u : State} (a : s.SameData t) (b : t.SameData u) : s.SameData u :=
  ⟨b.mem.trans a.mem, b.loft.trans a.loft, b.cur.trans a.cur, fun c h =>
    have x := a.core c h
    x.trans (b.core c (x.glean.trans h))⟩

theorem modCore (s : State) (c : Nat) (f : Core → Core) (h : ∀ k : Core, k.glean = none → k.SameRegs (f k)) :
    s.SameData (s.modCore c f) := by
  refine ⟨rfl, rfl, rfl, fun d hd => ?_⟩
  rw [State.core_modCore]
  split
  · rename_i e; exact e ▸ h _ (e ▸ hd)
  · exact .refl _

/-- An update that touches none of these registers. -/
theorem modPlain (s : State) (c : Nat) (f : Core → Core) (h : ∀ k : Core, k.SameRegs (f k)) : s.SameData (s.modCore c f) :=
  modCore s c f fun k _ => h k

theorem modMe (s : State) (f : Core → Core) (h : ∀ k : Core, k.SameRegs (f k)) : s.SameData (s.modMe f) := modPlain s _ f h

theorem foldl {α : Type} {f : State → α → State} (h : ∀ (s : State) (a : α), s.SameData (f s a)) (l : List α) : ∀ s : State, s.SameData (l.foldl f s) := by
  induction l with
  | nil => exact fun s => refl s
  | cons a r ih => exact fun s => (h s a).trans (ih _)

end State.SameData

/-! ## Taking an exception -/

theorem State.postRecord_same (s : State) (f : Nat) (r : FaultRecord) : s.SameData (s.postRecord f r) := ⟨rfl, rfl, rfl, fun _ _ => .refl _⟩
@[simp] theorem State.postRecord_core (s : State) (f c : Nat) (r : FaultRecord) : (s.postRecord f r).core c = s.core c := rfl
@[simp] theorem State.postRecord_net (s : State) (f : Nat) (r : FaultRecord) : (s.postRecord f r).net = s.net := rfl
theorem State.post_same (s : State) (c x : Nat) (tv pc : Word) : s.SameData (s.post c x tv pc) := State.postRecord_same _ _ _

theorem State.withdraw_same (s : State) (c : Nat) : s.SameData (s.withdraw c) :=
  (State.SameData.modPlain s c (fun k => { k with withdrawn := true }) fun _ => by constructor <;> rfl).trans ⟨rfl, rfl, rfl, fun _ _ => .refl _⟩

@[simp] theorem Core.withdrawGlean_of_none (k : Core) (h : k.glean = none) : k.withdrawGlean = k := by
  unfold Core.withdrawGlean; rw [h]

theorem State.stopNow_same (s : State) (c : Nat) : s.SameData (s.stopNow c) :=
  .modCore s c _ fun k hk => by rw [Core.withdrawGlean_of_none k hk]; constructor <;> rfl

theorem State.stopCore_same (s : State) (c : Nat) : s.SameData (s.stopCore c) := by
  unfold State.stopCore
  repeat' (first | exact .refl s | exact s.withdraw_same c | exact s.stopNow_same c | split)

theorem State.endLaunchAs_same (s : State) (key status : Nat) (n : Option FaultNote) : s.SameData (s.endLaunchAs key status n) := by
  unfold State.endLaunchAs
  split
  · exact .refl s
  · split
    · exact .refl s
    · dsimp only
      refine State.SameData.trans (t := s.setLaunch _) ⟨rfl, rfl, rfl, fun _ _ => .refl _⟩ (State.SameData.foldl (fun s c => ?_) _ _)
      split
      · exact s.stopCore_same c
      · exact .refl s

theorem State.disband_same (s : State) (c : Nat) : s.SameData (s.disband c) := by
  unfold State.disband
  dsimp only
  split
  · exact .refl s
  · refine State.SameData.foldl (fun s d => .modPlain s d _ fun _ => ?_) _ s
    split <;> constructor <;> rfl

/-- A fatal cause leaves every register, memory and the lofts (R397). -/
theorem State.takeFatal_same (s : State) (c x : Nat) (tv pc : Word) : s.SameData (s.takeFatal c x tv pc) := by
  have h0 : s.SameData (if x = Cause.debugHalt.code then s else s.disband c) := by
    split
    · exact .refl s
    · exact s.disband_same c
  unfold State.takeFatal
  generalize (if x = Cause.debugHalt.code then s else s.disband c) = u at h0
  have h1 := (h0.trans (u.post_same c x tv pc)).trans
    (.modPlain _ c (fun k => { k.noteTrap x tv pc with run := .faulted, stall := false }) fun _ => by constructor <;> rfl)
  dsimp only
  split
  · exact h1
  · exact h1.trans (State.endLaunchAs_same _ _ _ _)

/-- A recoverable fault leaves every register, memory and the lofts (R393). -/
theorem State.takePark_same (s : State) (c : Nat) (tv pc : Word) : s.SameData (s.takePark c tv pc) :=
  ((s.disband_same c).trans (State.post_same _ _ _ _ _)).trans
    (.modPlain ((s.disband c).post c Cause.translationFault.code tv pc) c
      (fun k => { k.noteTrap Cause.translationFault.code tv pc with run := .parked, stall := false }) fun _ => by constructor <;> rfl)

theorem State.takeTrapAt_same (s : State) (c : Nat) (x : Cause) (tv pc : Word) : s.SameData (s.takeTrapAt c x tv pc) := by
  unfold State.takeTrapAt
  split
  · exact s.takePark_same c tv pc
  · exact s.takeFatal_same c _ tv pc

/-- TAKING AN EXCEPTION leaves every register, memory and the lofts: the running instruction performs nothing (R390). -/
theorem State.trap_same (s : State) (x : Cause) (tv : Word) : s.SameData (s.trap x tv) := by
  unfold State.trap State.trapOf
  split
  · exact .modPlain s _ _ fun _ => by constructor <;> rfl
  · exact s.takeTrapAt_same _ _ _ _

theorem State.wait_same (s : State) : s.SameData s.wait :=
  .modMe s (fun k => { k with stall := true }) fun _ => by constructor <;> rfl

/-! ## Checking an address -/

theorem State.lookup_same (s : State) (c : Nat) (va : Word) : s.SameData (s.lookup c va).2 := by
  unfold State.lookup
  split
  · exact .refl s
  · split
    · dsimp only [State.fillMicro]
      exact .modPlain s c _ fun _ => by constructor <;> rfl
    · exact .refl s

theorem State.addMiss_same (s : State) (c req : Nat) (va : Word) : s.SameData (s.addMiss c req va) := by
  unfold State.addMiss
  dsimp only
  split
  · exact .refl s
  · exact ⟨rfl, rfl, rfl, fun _ _ => .refl _⟩

/-- A translation changes the TLBs, the misses and the ends of walks alone (R93 to R95). -/
theorem State.translateReq_same (s : State) (c req : Nat) (va : Word) (a : Access) : s.SameData (s.translateReq c req va a).2 := by
  have h := s.lookup_same c va
  unfold State.translateReq
  split
  · rename_i e; rw [e] at h; exact h
  · rename_i t e
    rw [e] at h
    dsimp only at h ⊢
    split
    · have h' := h.trans (.modPlain t c (fun k => { k with ends := mapErase k.ends req }) fun _ => by constructor <;> rfl)
      split
      · exact h'
      · exact h'.trans (State.addMiss_same _ _ _ _)
    · exact h.trans (State.addMiss_same _ _ _ _)

/-- The checks of an address change no register, no memory and no loft (R100). -/
theorem State.target_same (s : State) (va : Word) (n : Nat) (a : Access) : s.SameData (s.target va n a).2 := by
  have h := s.translateReq_same s.cur reqScalar va a
  unfold State.target
  split
  · exact .refl s
  · split
    · exact .refl s
    · split
      · split <;> exact .refl s
      · split <;> (rename_i e; rw [e] at h; exact h)

/-- Everything that an access can come to: the trap or the wait of its address, or what follows at the address where it goes. -/
theorem State.atTarget_cases (s : State) (ea : Word) (n : Nat) (a : Access) (body : Nat → Bool → State → State) :
    s.SameData (s.atTarget ea n a body) ∨
      ∃ h device t, s.target ea n a = (.at h device, t) ∧ s.SameData t ∧ s.atTarget ea n a body = body h device t := by
  have hs := s.target_same ea n a
  unfold State.atTarget
  split
  · rename_i e; rw [e] at hs; exact .inl (hs.trans (State.trap_same _ _ _))
  · rename_i e; rw [e] at hs; exact .inl (hs.trans (State.wait_same _))
  · rename_i h d t e; rw [e] at hs; exact .inr ⟨h, d, t, e, hs, rfl⟩

/-! ## Sending -/

/-- A packet sent changes no register, no memory and no loft. -/
theorem State.send_same (s : State) (p : Packet) : s.SameData (s.send p) := by
  unfold State.send
  refine State.SameData.trans (t := { s with net := s.net ++ [s.placed p], nextId := s.nextId + 1 }) ⟨rfl, rfl, rfl, fun _ _ => .refl _⟩
    (State.SameData.modPlain _ _ _ fun k => ?_)
  constructor <;> rfl

/-- A sent packet is the newest of the network. -/
theorem State.send_net (s : State) (p : Packet) : (s.send p).net = s.net ++ [s.placed p] := rfl

/-- A store or atomic waits for room in `usc`, or is sent (R101). -/
theorem State.sendCounted_cases (s : State) (p : Packet) (after : Core → Core) :
    (s.uscFull p = true ∧ s.sendCounted p after = s.wait) ∨
      (s.uscFull p = false ∧ s.sendCounted p after = (s.send p).modMe after) := by
  unfold State.sendCounted
  cases h : s.uscFull p
  · exact .inr ⟨rfl, rfl⟩
  · exact .inl ⟨rfl, rfl⟩

/-- A checked access waits, traps, or is performed (R63, R243, R296). -/
theorem State.issueAccess_cases (s : State) (u : Uses) (body : State → State) :
    s.issueAccess u body = body s ∨ s.SameData (s.issueAccess u body) := by
  unfold State.issueAccess State.issue
  split
  · exact .inr (State.trap_same _ _ _)
  · split
    · dsimp only
      split
      · exact .inr s.wait_same
      · exact .inl rfl
    · exact .inr s.wait_same

/-- The checks at issue alone: the instruction is performed, or nothing of it is (R63, R77). -/
theorem State.issue_same (s : State) (u : Uses) (body : State → State) : s.issue u body = body s ∨ s.SameData (s.issue u body) := by
  unfold State.issue
  split
  · exact .inr (State.trap_same _ _ _)
  · split
    · exact .inl rfl
    · exact .inr s.wait_same

end Sys2Proof.Machine
end

