-- ==== Sys2Proof/Laws/Wf.lean ====
section
/-! SUPPORT. The canonical form of memory is kept by every operation through which the package writes memory: words at their homes, the words
that management and engines write, copies and clears of ranges, dispatch, selection, and the writes of the control region. -/
namespace Sys2Proof.Machine

/-- Where one memory is in its canonical form, so is the other. -/
def State.WfTo (s t : State) : Prop := s.mem.wf = true → t.mem.wf = true

namespace State.WfTo

theorem refl (s : State) : s.WfTo s := id
theorem trans {s t u : State} (a : s.WfTo t) (b : t.WfTo u) : s.WfTo u := fun h => b (a h)
theorem of_mem {s t : State} (h : t.mem = s.mem) : s.WfTo t := fun w => by rw [h]; exact w
theorem before {s u t : State} (k : u.WfTo t) (h : u.mem = s.mem) : s.WfTo t := fun w => k (by rw [h]; exact w)
theorem of_same {s t : State} (h : s.SameData t) : s.WfTo t := of_mem h.mem
theorem foldl {α : Type} {f : State → α → State} (h : ∀ (s : State) (a : α), s.WfTo (f s a)) (l : List α) :
    ∀ s : State, s.WfTo (l.foldl f s) := by
  induction l with
  | nil => exact fun s => refl s
  | cons a r ih => exact fun s => (h s a).trans (ih _)

end State.WfTo

theorem State.writeMem_wf (s : State) (k : Nat) (x d : Word) : s.WfTo (s.writeMem k x d) := Memory.wf_writeMasked _ _ _ _
theorem State.setPhysWord_wf (s : State) (a : Nat) (w : Word) : s.WfTo (s.setPhysWord a w) := by
  unfold State.setPhysWord
  dsimp only
  split
  · exact s.writeMem_wf _ _ _
  · exact .refl s

theorem State.noteRead_mem (s : State) (a : Nat) : (s.noteRead a).mem = s.mem := by
  unfold State.noteRead
  dsimp only
  repeat' (first | rfl | split)

theorem State.noteReads_mem : ∀ (as : List Nat) (s : State), (s.noteReads as).mem = s.mem
  | [], _ => rfl
  | a :: r, s => by
    rw [State.noteReads, State.noteReads_mem r]
    split
    · exact s.noteRead_mem a
    · rfl

theorem State.noteRange_mem (s : State) (a n : Nat) : (s.noteRange a n).mem = s.mem := by
  unfold State.noteRange
  split
  · rfl
  · exact State.noteReads_mem _ s

theorem State.moveWord_wf (s : State) (d a : Nat) : s.WfTo (s.moveWord d a) :=
  State.WfTo.trans (.of_mem (State.noteReads_mem [a] s)) (State.setPhysWord_wf _ _ _)

theorem State.moveWords_wf : ∀ (n : Nat) (s : State) (d a : Nat), s.WfTo (s.moveWords d a n)
  | 0, s, _, _ => .refl s
  | n + 1, s, d, a => (s.moveWord_wf d a).trans (State.moveWords_wf n _ _ _)

theorem State.zeroWords_wf : ∀ (n : Nat) (s : State) (a : Nat), s.WfTo (s.zeroWords a n)
  | 0, s, _ => .refl s
  | n + 1, s, a => (s.setPhysWord_wf a 0).trans (State.zeroWords_wf n _ _)

theorem State.copyBytes_wf (s : State) (d a n : Nat) : s.WfTo (s.copyBytes d a n) := by
  unfold State.copyBytes
  split
  · exact Memory.wf_copyRange _ _ _ _
  · exact State.moveWords_wf _ _ _ _

theorem State.zeroBytes_wf (s : State) (a n : Nat) : s.WfTo (s.zeroBytes a n) := by
  unfold State.zeroBytes
  split
  · exact Memory.wf_clearRange _ _ _
  · exact State.zeroWords_wf _ _ _

theorem State.putWords_wf (ws : Words) : ∀ (s : State) (a : Nat), s.WfTo (s.putWords a ws) := by
  induction ws with
  | nil => exact fun s _ => .refl s
  | cons w r ih => exact fun s a => (s.setPhysWord_wf a w).trans (ih _ _)

theorem State.writeKept_wf (s : State) (a : Nat) (x d : Word) (h : HomeKind) : s.WfTo (s.writeKept a x d h) := by
  unfold State.writeKept
  dsimp only
  repeat' (first | exact s.writeMem_wf _ _ _ | exact .of_mem rfl | split)

theorem State.physStore_wf (s : State) (a : Nat) (w : Word) : s.WfTo (s.physStore a w) := by
  unfold State.physStore
  repeat' (first | exact .refl s | exact .of_mem rfl | exact s.writeKept_wf _ _ _ _ | split)

theorem State.writeCompletion_wf (s : State) (a : Nat) (id : Word32) (st v : Nat) (n : Option FaultNote) :
    s.WfTo (s.writeCompletion a id st v n) := by
  unfold State.writeCompletion
  exact (((State.physStore_wf _ _ _).trans (State.physStore_wf _ _ _)).trans (State.physStore_wf _ _ _)).trans (State.physStore_wf _ _ _)

theorem State.dispatch_wf (s : State) (r : Request) (v : Nat) : s.WfTo (s.dispatch r v) := by
  unfold State.dispatch
  dsimp only
  exact State.WfTo.before (State.WfTo.foldl (fun _ _ h => Memory.wf_clearRange _ _ _ h) _ _) rfl

theorem State.noteRequest_mem (s : State) (w : WorkQueue) (r : Request) : (s.noteRequest w r).mem = s.mem := by
  unfold State.noteRequest
  dsimp only
  split <;> simp only [State.noteRange_mem]

theorem State.settleHead_wf (s : State) (q : Nat) : s.WfTo (s.settleHead q).1 := by
  unfold State.settleHead
  dsimp only
  split
  · exact .of_mem rfl
  · split
    · exact .refl s
    · split
      · exact .of_mem (s.noteRequest_mem _ _)
      · rename_i status _
        exact State.WfTo.before (State.writeCompletion_wf (s.noteRequest (s.queue q) (s.headRequest (s.queue q)))
          (s.headRequest (s.queue q)).compl (s.headRequest (s.queue q)).launchid status 0 none) (s.noteRequest_mem _ _)

theorem State.settle_wf (q : Nat) : ∀ (n : Nat) (s : State), s.WfTo (s.settle q n) := by
  intro n
  induction n with
  | zero => exact fun s => .refl s
  | succ n ih =>
    intro s
    rw [State.settle]
    split
    · exact (s.settleHead_wf q).trans (ih _)
    · exact s.settleHead_wf q

theorem State.preemptLaunch_wf (s : State) (l : Launch) : s.WfTo (s.preemptLaunch l) := by
  unfold State.preemptLaunch
  split
  · exact .refl s
  · refine State.WfTo.before (.foldl (fun s c => ?_) _ (s.setLaunch _)) rfl
    split
    · exact .of_mem rfl
    · exact .of_same (s.withdraw_same c)
    · exact .refl s

theorem State.endParked_wf (s : State) (l : Launch) : s.WfTo (s.endParked l) := by
  unfold State.endParked
  exact fun h => s.writeCompletion_wf l.compl l.launchid 0x05 l.variant none h

theorem Sel.stand_wf (x : Sel) (parts p : Nat) : x.s.WfTo (x.stand parts p).s := by
  unfold Sel.stand
  dsimp only
  split
  · exact .foldl (fun s l => s.preemptLaunch_wf l) _ _
  · exact .refl _

theorem State.setQueue_wf (s : State) (q : Nat) (w : WorkQueue) : s.WfTo (s.setQueue q w) := .of_mem rfl

theorem State.served_wf (s : State) (m : SMap Nat) : s.WfTo { s with served := m } := .of_mem rfl

theorem Sel.visit_wf (p : Nat) (x : Sel) (q : Nat) : x.s.WfTo (x.visit p q).s := by
  unfold Sel.visit
  split
  · exact .refl _
  · split
    · exact .refl _
    · dsimp only
      generalize (if (x.s.queue q).quantum = 0 then 1 else (x.s.queue q).quantum.toNat) = n
      split
      · exact fun h => h
      · split
        · generalize 65537 = fuel
          refine State.WfTo.trans ?_ (State.settle_wf q fuel _)
          exact ((x.s.dispatch_wf _ _).trans (State.setQueue_wf _ q _)).trans (State.served_wf _ _)
        · exact fun h => Sel.stand_wf { x with s := x.s.setQueue q _ } _ _ h

/-- What folding a step that keeps the form over a list gives. -/
theorem Sel.foldl_wf {f : Sel → Nat → Sel} (h : ∀ (x : Sel) (n : Nat), x.s.WfTo (f x n).s) (l : List Nat) :
    ∀ x : Sel, x.s.WfTo (l.foldl f x).s :=
  l.rec (fun _ => .refl _) fun n _ ih x => (h x n).trans (ih (f x n))

theorem Sel.visits_wf (p : Nat) (qs : List Nat) : ∀ (n : Nat) (x : Sel), x.s.WfTo (Sel.visits p qs n x).s
  | 0, _ => .refl _
  | n + 1, x => by
    have h := Sel.foldl_wf (Sel.visit_wf p) qs { x with again := false }
    unfold Sel.visits
    dsimp only
    split
    · exact h.trans (Sel.visits_wf p qs n _)
    · exact h

theorem Sel.consider_wf (p : Nat) (x : Sel) (key : Nat) : x.s.WfTo (x.consider p key).s := by
  unfold Sel.consider
  split
  · exact .refl _
  · split
    · exact .refl _
    · split
      · exact x.s.endParked_wf _
      · split
        · split
          · exact .of_mem rfl
          · exact x.stand_wf _ _
        · exact x.stand_wf _ _

theorem Sel.priority_wf (x : Sel) (p : Nat) : x.s.WfTo (x.priority p).s := by
  unfold Sel.priority
  exact (Sel.foldl_wf (Sel.consider_wf p) _ x).trans (Sel.visits_wf _ _ _ _)

/-- SELECTION keeps the canonical form. -/
theorem State.select_wf (s : State) : s.WfTo s.select := by
  unfold State.select
  generalize 65537 = fuel
  exact (State.WfTo.foldl (fun s q => State.settle_wf q fuel s) _ s).trans
    (Sel.foldl_wf Sel.priority_wf _ { s := _, blocked := 0, again := false })

theorem State.doorbell_wf (s : State) (q : Nat) (v : Word32) : s.WfTo (s.doorbell q v) := by
  unfold State.doorbell
  dsimp only
  split
  · exact .refl s
  · refine State.WfTo.before (State.select_wf _) ?_; rfl

theorem State.performSubstitution_wf (s : State) : s.WfTo s.performSubstitution := by
  unfold State.performSubstitution
  dsimp only
  split
  · exact .refl s
  · split
    · exact Memory.wf_clearRange _ _ _
    · exact .of_mem rfl

theorem State.retireFrond_wf (s : State) (q : Nat) : s.WfTo (s.retireFrond q) := by
  unfold State.retireFrond
  dsimp only
  refine State.WfTo.trans (.foldl (fun s e => ?_) _ s) (.of_mem rfl)
  exact .of_mem rfl

theorem State.substitute_wf (s : State) (v : Word) : s.WfTo (s.substitute v) := by
  unfold State.substitute
  split
  · exact .refl s
  · split
    · exact .refl s
    · exact (s.retireFrond_wf _).trans (.of_mem rfl)
    · split
      · exact .of_mem rfl
      · exact State.WfTo.before (State.performSubstitution_wf _) rfl

theorem State.serviceResume_wf (s : State) (c : Nat) : s.WfTo (s.serviceResume c) := by
  unfold State.serviceResume
  dsimp only
  repeat' (first | exact .refl s | exact .of_mem rfl | split)

theorem State.serviceAbort_wf (s : State) (c : Nat) : s.WfTo (s.serviceAbort c) := by
  unfold State.serviceAbort
  dsimp only
  split
  · exact .refl s
  · split
    · refine State.WfTo.before (.of_same (State.endLaunchAs_same _ _ _ _)) ?_; rfl
    · exact .refl s

theorem State.serviceHalt_wf (s : State) (c : Nat) : s.WfTo (s.serviceHalt c) := by
  unfold State.serviceHalt
  split
  · exact .refl s
  · exact .of_mem rfl

theorem State.tlbInvalidate_wf (s : State) (v : Word) : s.WfTo (s.tlbInvalidate v) := by
  unfold State.tlbInvalidate
  split
  · exact .refl s
  · exact .of_mem rfl

theorem State.attestRequest_wf (s : State) : s.WfTo s.attestRequest := by
  unfold State.attestRequest
  split
  · exact .refl s
  · exact .of_mem rfl

theorem State.plainWrite_wf (s : State) (off : Nat) (v : Word) : s.WfTo (s.plainWrite off v) := by
  unfold State.plainWrite
  dsimp only
  repeat' (first | exact .refl s | exact .of_mem rfl | split)

theorem State.ctrlWrite_wf (s : State) (off : Nat) (x d : Word) : s.WfTo (s.ctrlWrite off x d) := by
  unfold State.ctrlWrite
  dsimp only
  split
  · split
    · exact .refl s
    · exact s.doorbell_wf _ _
  · split
    · split
      · exact .refl s
      · exact .of_mem rfl
    · split
      · split
        · exact s.serviceResume_wf _
        · exact s.serviceAbort_wf _
        · exact s.serviceHalt_wf _
        · exact .refl s
      · split
        · exact s.substitute_wf _
        · split
          · exact s.tlbInvalidate_wf _
          · split
            · split
              · exact s.attestRequest_wf
              · exact .refl s
            · exact s.plainWrite_wf _ _

theorem State.arriveRecords_wf : ∀ (n : Nat) (s : State), s.WfTo (s.arriveRecords n)
  | 0, s => .refl s
  | n + 1, s => by
    unfold State.arriveRecords
    split
    · exact .refl s
    · exact State.WfTo.before ((State.ctrlWrite_wf _ _ _ _).trans (State.arriveRecords_wf n _)) rfl

theorem State.flushRecords_wf (s : State) : s.WfTo s.flushRecords := State.arriveRecords_wf _ s

/-- A write at a home keeps the canonical form, whatever the home is. -/
theorem State.writeHome_wf {s t : State} {a : Nat} {x d : Word} (h : s.writeHome a x d = some t) : s.WfTo t := by
  unfold State.writeHome at h
  dsimp only at h
  split at h
  · cases h
  · split at h
    · cases h; exact (s.ctrlWrite_wf _ _ _).trans (State.flushRecords_wf _)
    all_goals
      split at h
      · cases h
      · cases h; exact (s.writeKept_wf _ _ _ _).trans (.of_mem rfl)

end Sys2Proof.Machine
end

