-- ==== Sys2Proof/Tests/Slice0.lean ====
section
/-! SUPPORT. Tests. Words written out from the manual's encodings decode to their instructions; ill-formed terms are refused;
and for every obligation with hypotheses, states and operands that meet them. The expected values come from the spec. -/
namespace Sys2Proof.Tests
open Sys2Proof Sys2Proof.Machine Sys2Proof.Claims
set_option Elab.async false
set_option maxRecDepth 100000

/-! ### Decoding: a word of every encoded row, written out from R59 to R75 -/

theorem test_decode_01_1 : ∀ e ∈ ([(0x06652980, .add ⟨38, 20, 41, true, false⟩),
     (0x06652981, .sub ⟨38, 20, 41, true, false⟩),
     (0x06652982, .and ⟨38, 20, 41, true, false⟩),
     (0x06652983, .or ⟨38, 20, 41, true, false⟩),
     (0x06652984, .xor ⟨38, 20, 41, true, false⟩),
     (0x06652985, .sll ⟨38, 20, 41, true, false⟩),
     (0x06652986, .srl ⟨38, 20, 41, true, false⟩),
     (0x06652987, .sra ⟨38, 20, 41, true, false⟩),
     (0x06652988, .ror ⟨38, 20, 41, true, false⟩),
     (0x06652989, .mul ⟨38, 20, 41, true, false⟩),
     (0x0665298A, .mulh ⟨38, 20, 41, true, false⟩),
     (0x0665298B, .mulhu ⟨38, 20, 41, true, false⟩),
     (0x0665298C, .div ⟨38, 20, 41, true, false⟩),
     (0x0665298D, .divu ⟨38, 20, 41, true, false⟩)] : List (Nat × Instr)),
    decodeTableWord 32 e.1 = some e.2 := by decide

theorem test_decode_01_2 : ∀ e ∈ ([(0x0665298E, .rem ⟨38, 20, 41, true, false⟩),
     (0x0665298F, .remu ⟨38, 20, 41, true, false⟩),
     (0x06652990, .slt ⟨38, 20, 41, true, false⟩),
     (0x06652991, .sltu ⟨38, 20, 41, true, false⟩),
     (0x06652992, .seq ⟨38, 20, 41, true, false⟩),
     (0x06652993, .min ⟨38, 20, 41, true, false⟩),
     (0x06652994, .max ⟨38, 20, 41, true, false⟩),
     (0x06652995, .minu ⟨38, 20, 41, true, false⟩),
     (0x06652996, .maxu ⟨38, 20, 41, true, false⟩),
     (0x06650097, .clz ⟨38, 20, true⟩),
     (0x06650098, .ctz ⟨38, 20, true⟩),
     (0x06650099, .popc ⟨38, 20, true⟩)] : List (Nat × Instr)),
    decodeTableWord 32 e.1 = some e.2 := by decide

theorem test_decode_02 : ∀ e ∈ ([(0x0A652005, .addi 38 20 8197)] : List (Nat × Instr)),
    decodeTableWord 32 e.1 = some e.2 := by decide

theorem test_decode_03 : ∀ e ∈ ([(0x0E652005, .andi 38 20 8197)] : List (Nat × Instr)),
    decodeTableWord 32 e.1 = some e.2 := by decide

theorem test_decode_04 : ∀ e ∈ ([(0x12652005, .ori 38 20 8197)] : List (Nat × Instr)),
    decodeTableWord 32 e.1 = some e.2 := by decide

theorem test_decode_05 : ∀ e ∈ ([(0x16652005, .xori 38 20 8197)] : List (Nat × Instr)),
    decodeTableWord 32 e.1 = some e.2 := by decide

theorem test_decode_06 : ∀ e ∈ ([(0x1A65002B, .slli 38 20 43),
     (0x1A65012B, .srli 38 20 43),
     (0x1A65022B, .srai 38 20 43),
     (0x1A65032B, .rori 38 20 43)] : List (Nat × Instr)),
    decodeTableWord 32 e.1 = some e.2 := by decide

theorem test_decode_07 : ∀ e ∈ ([(0x1E640005, .ldi 38 262149),
     (0x1E6C0005, .ldih 38 262149)] : List (Nat × Instr)),
    decodeTableWord 32 e.1 = some e.2 := by decide

theorem test_decode_08 : ∀ e ∈ ([(0x22650405, .ldZ8 38 20 1029),
     (0x22650C05, .ldZ16 38 20 1029),
     (0x22651405, .ldZ32 38 20 1029),
     (0x22651C05, .ldZ64 38 20 1029),
     (0x22652405, .ldS8 38 20 1029),
     (0x22652C05, .ldS16 38 20 1029),
     (0x22653405, .ldS32 38 20 1029)] : List (Nat × Instr)),
    decodeTableWord 32 e.1 = some e.2 := by decide

theorem test_decode_09 : ∀ e ∈ ([(0x26650405, .stZ8 38 20 1029),
     (0x26650C05, .stZ16 38 20 1029),
     (0x26651405, .stZ32 38 20 1029),
     (0x26651C05, .stZ64 38 20 1029)] : List (Nat × Instr)),
    decodeTableWord 32 e.1 = some e.2 := by decide

theorem test_decode_0a : ∀ e ∈ ([(0x2A653280, .ldb 38 20 50 true),
     (0x2A653281, .stb 38 20 50 true)] : List (Nat × Instr)),
    decodeTableWord 32 e.1 = some e.2 := by decide

theorem test_decode_0b : ∀ e ∈ ([(0x2D4A6003, .beq 20 41 8195),
     (0x2E952003, .bne 41 20 8195),
     (0x2E9A6003, .bra 41 8195)] : List (Nat × Instr)),
    decodeTableWord 32 e.1 = some e.2 := by decide

theorem test_decode_0c : ∀ e ∈ ([(0x32680003, .jal 38 524291)] : List (Nat × Instr)),
    decodeTableWord 32 e.1 = some e.2 := by decide

theorem test_decode_0d : ∀ e ∈ ([(0x36650080, .jalr ⟨38, 20, true⟩),
     (0x36652981, .jtab ⟨38, 20, 41, true, false⟩)] : List (Nat × Instr)),
    decodeTableWord 32 e.1 = some e.2 := by decide

theorem test_decode_0e : ∀ e ∈ ([(0x3A952003, .dcb 41 20 8195)] : List (Nat × Instr)),
    decodeTableWord 32 e.1 = some e.2 := by decide

theorem test_decode_0f : ∀ e ∈ ([(0x3E600012, .csrr 38 (.acfg 2)),
     (0x3E650812, .csrw 38 20 (.acfg 2)),
     (0x3E651012, .csrs 38 20 (.acfg 2)),
     (0x3E651812, .csrc 38 20 (.acfg 2)),
     (0x3C002000, .nop),
     (0x3C002001, .endLaunch),
     (0x3C002002, .brk)] : List (Nat × Instr)),
    decodeTableWord 32 e.1 = some e.2 := by decide

theorem test_decode_10 : ∀ e ∈ ([(0x42652980, .vadd none ⟨38, 20, 41, true, false⟩),
     (0x42652981, .vsub none ⟨38, 20, 41, true, false⟩),
     (0x42652982, .vmul none ⟨38, 20, 41, true, false⟩),
     (0x42652983, .vdiv none ⟨38, 20, 41, true, false⟩),
     (0x42652984, .vfma none ⟨38, 20, 41, true, false⟩),
     (0x42652985, .vfms none ⟨38, 20, 41, true, false⟩),
     (0x42652986, .vfnma none ⟨38, 20, 41, true, false⟩),
     (0x42652987, .vmin none ⟨38, 20, 41, true, false⟩),
     (0x42652988, .vmax none ⟨38, 20, 41, true, false⟩),
     (0x42650089, .vabs none ⟨38, 20, true⟩),
     (0x4265008A, .vneg none ⟨38, 20, true⟩),
     (0x4265298B, .vcpys none ⟨38, 20, 41, true, false⟩)] : List (Nat × Instr)),
    decodeTableWord 32 e.1 = some e.2 := by decide

theorem test_decode_11 : ∀ e ∈ ([(0x46650080, .vexp2 none ⟨38, 20, true⟩),
     (0x46650081, .vlog2 none ⟨38, 20, true⟩),
     (0x46650082, .vsinpi none ⟨38, 20, true⟩),
     (0x46650083, .vcospi none ⟨38, 20, true⟩),
     (0x46650084, .vrcp none ⟨38, 20, true⟩),
     (0x46650085, .vrsqrt none ⟨38, 20, true⟩),
     (0x46650086, .vsqrt none ⟨38, 20, true⟩),
     (0x46650087, .vtanh none ⟨38, 20, true⟩)] : List (Nat × Instr)),
    decodeTableWord 32 e.1 = some e.2 := by decide

theorem test_decode_12 : ∀ e ∈ ([(0x4A652980, .viadd none ⟨38, 20, 41, true, false⟩),
     (0x4A652981, .visub none ⟨38, 20, 41, true, false⟩),
     (0x4A652982, .vimul none ⟨38, 20, 41, true, false⟩),
     (0x4A652983, .vimin none ⟨38, 20, 41, true, false⟩),
     (0x4A652984, .vimax none ⟨38, 20, 41, true, false⟩),
     (0x4A652985, .vand none ⟨38, 20, 41, true, false⟩),
     (0x4A652986, .vor none ⟨38, 20, 41, true, false⟩),
     (0x4A652987, .vxor none ⟨38, 20, 41, true, false⟩),
     (0x4A652988, .vsll none ⟨38, 20, 41, true, false⟩),
     (0x4A652989, .vsrl none ⟨38, 20, 41, true, false⟩),
     (0x4A65298A, .vsra none ⟨38, 20, 41, true, false⟩),
     (0x4A65298B, .viadds none ⟨38, 20, 41, true, false⟩)] : List (Nat × Instr)),
    decodeTableWord 32 e.1 = some e.2 := by decide

theorem test_decode_13 : ∀ e ∈ ([(0x4C552980, .vceq none ⟨5, 20, 41, true, false⟩),
     (0x4C552981, .vclt none ⟨5, 20, 41, true, false⟩),
     (0x4C552982, .vcle none ⟨5, 20, 41, true, false⟩),
     (0x4C552983, .viceq none ⟨5, 20, 41, true, false⟩),
     (0x4C552984, .viclt none ⟨5, 20, 41, true, false⟩),
     (0x4C552985, .vicltu none ⟨5, 20, 41, true, false⟩),
     (0x4E652986, .vsel none ⟨38, 20, 41, true, false⟩),
     (0x4C50C607, .mand none 5 3 6),
     (0x4C50C608, .mor none 5 3 6),
     (0x4C50C609, .mxor none 5 3 6),
     (0x4C50C00A, .mnot none 5 3),
     (0x4E60C00B, .mtog none 38 3),
     (0x4C55008C, .gtom none 5 20 true)] : List (Nat × Instr)),
    decodeTableWord 32 e.1 = some e.2 := by decide

theorem test_decode_14 : ∀ e ∈ ([(0x52650080, .vcvtfi none ⟨38, 20, true⟩),
     (0x52650081, .vcvtfu none ⟨38, 20, true⟩),
     (0x52650082, .vcvtif none ⟨38, 20, true⟩),
     (0x52650083, .vcvtuf none ⟨38, 20, true⟩),
     (0x52650084, .vcvth none ⟨38, 20, true⟩),
     (0x52650085, .vcvtb none ⟨38, 20, true⟩),
     (0x52650086, .vcvte4 none ⟨38, 20, true⟩),
     (0x52650087, .vcvte5 none ⟨38, 20, true⟩),
     (0x52650088, .vwidh none ⟨38, 20, true⟩),
     (0x52650089, .vwidb none ⟨38, 20, true⟩),
     (0x5265008A, .vwide4 none ⟨38, 20, true⟩),
     (0x5265008B, .vwide5 none ⟨38, 20, true⟩)] : List (Nat × Instr)),
    decodeTableWord 32 e.1 = some e.2 := by decide

theorem test_decode_15 : ∀ e ∈ ([(0x56652980, .vperm none ⟨38, 20, 41, true, false⟩),
     (0x56651581, .vbcast none 38 20 21 true),
     (0x56651582, .vslideup none 38 20 21 true),
     (0x56651583, .vslidedn none 38 20 21 true),
     (0x56652984, .vzip none ⟨38, 20, 41, true, false⟩),
     (0x56652985, .vunzip none ⟨38, 20, 41, true, false⟩),
     (0x56650086, .vrsum none ⟨38, 20, true⟩),
     (0x56650087, .vrmax none ⟨38, 20, true⟩),
     (0x56650088, .vrmin none ⟨38, 20, true⟩),
     (0x56650089, .virsum none ⟨38, 20, true⟩)] : List (Nat × Instr)),
    decodeTableWord 32 e.1 = some e.2 := by decide

theorem test_decode_16 : ∀ e ∈ ([(0x5A652980, .vldtRow none ⟨38, 20, 41, true, false⟩),
     (0x5A652981, .vldtCol none ⟨38, 20, 41, true, false⟩),
     (0x5A652984, .vsttRow none ⟨38, 20, 41, true, false⟩),
     (0x5A652985, .vsttCol none ⟨38, 20, 41, true, false⟩)] : List (Nat × Instr)),
    decodeTableWord 32 e.1 = some e.2 := by decide

theorem test_decode_17 : ∀ e ∈ ([(0x5E650080, .jseed none ⟨38, 20, true⟩),
     (0x5E650081, .jconst none ⟨38, 20, true⟩),
     (0x5E650682, .jext none 38 20 6 true),
     (0x5E650683, .jextD none 38 20 6 true),
     (0x5E650684, .jins none 38 20 6 true)] : List (Nat × Instr)),
    decodeTableWord 32 e.1 = some e.2 := by decide

theorem test_decode_18 : ∀ e ∈ ([(0x60050082, .mcfg 20 true 2),
     (0x62652986, .mma ⟨38, 20, 41, true, false⟩ 2),
     (0x6000000A, .mswap 2),
     (0x6265008E, .mrowGet ⟨38, 20, true⟩ 2),
     (0x62650092, .mrowPut ⟨38, 20, true⟩ 2),
     (0x62650096, .mcolGet ⟨38, 20, true⟩ 2),
     (0x6265009A, .mcolPut ⟨38, 20, true⟩ 2),
     (0x6265299E, .mdrain ⟨38, 20, 41, true, false⟩ 2),
     (0x60000022, .mzero 2)] : List (Nat × Instr)),
    decodeTableWord 32 e.1 = some e.2 := by decide

theorem test_decode_19 : ∀ e ∈ ([(0x66652982, .cpy ⟨38, 20, 41, true, false⟩ 2),
     (0x66652986, .cpyMma ⟨38, 20, 41, true, false⟩ 2),
     (0x6665298A, .cpym ⟨38, 20, 41, true, false⟩ 2),
     (0x6665298E, .cpymMma ⟨38, 20, 41, true, false⟩ 2),
     (0x64001510, .qfence 21),
     (0x66601514, .qwait 38 21)] : List (Nat × Instr)),
    decodeTableWord 32 e.1 = some e.2 := by decide

theorem test_decode_1a : ∀ e ∈ ([(0x6A652980, .talloc ⟨38, 20, 41, true, false⟩),
     (0x68050084, .tfree 20 true),
     (0x6A650088, .tstat ⟨38, 20, true⟩)] : List (Nat × Instr)),
    decodeTableWord 32 e.1 = some e.2 := by decide

theorem test_decode_1b : ∀ e ∈ ([(0x6E652980, .tsusp ⟨38, 20, 41, true, false⟩),
     (0x6C050084, .force 20 true),
     (0x6E650088, .forceNb ⟨38, 20, true⟩),
     (0x6C05008C, .spark 20 true),
     (0x6C000010, .tdone)] : List (Nat × Instr)),
    decodeTableWord 32 e.1 = some e.2 := by decide

theorem test_decode_1c_1 : ∀ e ∈ ([(0x7265009C, .aaddZ32 ⟨38, 20, .rel, .frond⟩ true),
     (0x7265029C, .aaddZ64 ⟨38, 20, .rel, .frond⟩ true),
     (0x7265049C, .aminS32 ⟨38, 20, .rel, .frond⟩ true),
     (0x7265069C, .aminS64 ⟨38, 20, .rel, .frond⟩ true),
     (0x7265089C, .aminZ32 ⟨38, 20, .rel, .frond⟩ true),
     (0x72650A9C, .aminZ64 ⟨38, 20, .rel, .frond⟩ true),
     (0x72650C9C, .amaxS32 ⟨38, 20, .rel, .frond⟩ true),
     (0x72650E9C, .amaxS64 ⟨38, 20, .rel, .frond⟩ true),
     (0x7265109C, .amaxZ32 ⟨38, 20, .rel, .frond⟩ true),
     (0x7265129C, .amaxZ64 ⟨38, 20, .rel, .frond⟩ true),
     (0x7265149C, .aandZ32 ⟨38, 20, .rel, .frond⟩ true),
     (0x7265169C, .aandZ64 ⟨38, 20, .rel, .frond⟩ true),
     (0x7265189C, .aorZ32 ⟨38, 20, .rel, .frond⟩ true),
     (0x72651A9C, .aorZ64 ⟨38, 20, .rel, .frond⟩ true)] : List (Nat × Instr)),
    decodeTableWord 32 e.1 = some e.2 := by decide

theorem test_decode_1c_2 : ∀ e ∈ ([(0x72651C9C, .axorZ32 ⟨38, 20, .rel, .frond⟩ true),
     (0x72651E9C, .axorZ64 ⟨38, 20, .rel, .frond⟩ true),
     (0x7265209C, .aswapZ32 ⟨38, 20, .rel, .frond⟩ true),
     (0x7265229C, .aswapZ64 ⟨38, 20, .rel, .frond⟩ true),
     (0x72652498, .acasZ32 ⟨38, 20, .rel, .frond⟩),
     (0x72652698, .acasZ64 ⟨38, 20, .rel, .frond⟩),
     (0x7265289C, .afaddF32 ⟨38, 20, .rel, .frond⟩ true),
     (0x72652A9C, .afaddBf16x2 ⟨38, 20, .rel, .frond⟩ true),
     (0x72652C98, .asnapZ32 ⟨38, 20, .rel, .frond⟩),
     (0x72652E98, .asnapZ64 ⟨38, 20, .rel, .frond⟩),
     (0x72653058, .aldZ32 ⟨38, 20, .acq, .frond⟩),
     (0x72653258, .aldZ64 ⟨38, 20, .acq, .frond⟩),
     (0x7265349C, .astZ32 ⟨38, 20, .rel, .frond⟩),
     (0x7265369C, .astZ64 ⟨38, 20, .rel, .frond⟩)] : List (Nat × Instr)),
    decodeTableWord 32 e.1 = some e.2 := by decide

theorem test_decode_1d : ∀ e ∈ ([(0x74000130, .fence .rel .frond),
     (0x740004A7, .barr 167),
     (0x740008A7, .bwait 167),
     (0x74000EA7, .phreg .wait 167),
     (0x740010A7, .phsig 167),
     (0x740014A7, .phwait 167),
     (0x74001802, .gang .four),
     (0x74001C00, .ungang)] : List (Nat × Instr)),
    decodeTableWord 32 e.1 = some e.2 := by decide

theorem test_decode_1e : ∀ e ∈ ([(0x7A652980, .rangeInit ⟨38, 20, 41, true, false⟩),
     (0x7A600001, .glean 38)] : List (Nat × Instr)),
    decodeTableWord 32 e.1 = some e.2 := by decide

theorem test_decode_1f : ∀ e ∈ ([(0x7C052A80, .tryAlt 20 42 true false),
     (0x7C000001, .failBack),
     (0x7C050082, .cutTo 20 true),
     (0x7E600103, .chmark 38 .base),
     (0x7E650084, .tst ⟨38, 20, true⟩),
     (0x7E650085, .claim ⟨38, 20, true⟩)] : List (Nat × Instr)),
    decodeTableWord 32 e.1 = some e.2 := by decide

theorem test_decode_20 : ∀ e ∈ ([(0x82652980, .sow none ⟨38, 20, 41, true, false⟩),
     (0x82652981, .sowIx none ⟨38, 20, 41, true, false⟩),
     (0x82652982, .topk none ⟨38, 20, 41, true, false⟩),
     (0x82650083, .gnorm none ⟨38, 20, true⟩),
     (0x82652984, .part none ⟨38, 20, 41, true, false⟩)] : List (Nat × Instr)),
    decodeTableWord 32 e.1 = some e.2 := by decide

/-! ### States for the witnesses -/

/-- A launch on partitions 0 to 2 whose contexts run on cores 0, 1, 12 and 13. -/
def launch : Launch :=
  { placedLaunch 3 with
    parts := 7, cores := [0, 1, 12, 13], poolN := 4, hwPct := 100, dlim := 8, asn := 5, ctxBase := 2 ^ 30, flagOff := 64,
    launchid := 9 }

/-- Core number `ctx` of the launch, running at address 0x1000, with some of its registers given. -/
def coreAtWork (ctx : Nat) (gs : List (Reg × Word)) : Core :=
  gs.foldl (fun k e => k.setG e.1 e.2) { Core.reset with run := .running, launch := some 3, ctx := ctx, pc := 0x1000 }

/-- The package with the launch, every stack ready, and core 0's registers given. -/
def atWork (gs : List (Reg × Word)) : State :=
  { State.reset with
    launches := [launch], nextId := 7, ready := (List.range 8).map fun f => (f, 0xFFFFFFFF),
    cores := [(0, coreAtWork 0 gs), (1, coreAtWork 1 []), (12, coreAtWork 2 []), (13, coreAtWork 3 [])] }

/-- The window address of byte `off` of core 0's scratchpad, and its home. -/
def window (off : Nat) : Word := BitVec.ofNat 64 (0xFE * 2 ^ 48 + off)
def bank (off : Nat) : Nat := 2 ^ 52 + off

/-- What holds of every word of a list, checked word by word. -/
theorem all_of {p : Word → Prop} [DecidablePred p] {l : List Word} (h : (l.all fun n => decide (p n)) = true) : ∀ n ∈ l, p n :=
  fun n m => of_decide_eq_true (List.all_eq_true.1 h n m)

/-- What holds of every core listed and of a core at reset holds of every core. -/
theorem core_all {s : State} {p : Core → Prop} (h : ∀ e ∈ s.cores, p e.2) (h0 : p Core.reset) (c : Nat) : p (s.core c) := by
  unfold State.core
  generalize s.cores = l at h
  induction l with
  | nil => exact h0
  | cons e r ih =>
    unfold mapGet
    split
    · exact h _ (.head _)
    · exact ih fun x hx => h x (.tail _ hx)

/-- Packet 5 of core 0. -/
def pkt (op : PktOp) (parts : List Part) (stage : Stage) (rd wr : Bool) : Packet :=
  { id := 5, since := 5, src := 0, op := op, stage := stage, parts := parts, got := [], va := 0x40000, pc := 0x1000, bad := 0, logged := 0,
    device := false, dest := 0, cross := false, inUsc := false, rd := rd, wr := wr, own := false, stamp := none, back := [], shared := false,
    evictions := 0, merged := [], flags := 0 }
def withNet (s : State) (ps : List Packet) : State := { s with net := ps }

/-! ### Scalar instructions, branches, CSRs -/

def scalarState : State := atWork [(1, 7), (2, 5), (4, window 16), (5, 0x8000000000000000), (6, 0xFFFFFFFFFFFFFFFF), (8, 0x2002)]

theorem witness_ScalarRegisterResults : fullAt scalarState.me [.g 1, .g 2, .g 3] := by decide
theorem witness_ScalarRegisterResults_counts :
    fullAt scalarState.me [.g 5, .g 3] ∧ (scalarState.me.gr 5).getMsbD 0 = true ∧ (∀ i < 63, (scalarState.me.gr 5).getLsbD i = false) ∧
    (scalarState.me.gr 5).getLsbD 63 = true ∧ (∀ i < 64, (scalarState.me.gr 0).getLsbD i = false) ∧
    ((List.range 64).map fun i => ((scalarState.me.gr 6).getLsbD i).toNat).sum = 64 := by decide
theorem witness_ConstantsAndImmediateForms : fullAt scalarState.me [.g 1, .g 3] ∧ scalarState.me.gIsFull 0 = true := by decide

theorem witness_BranchesJumpsAndCsrs :
    fullAt scalarState.me [.g 1, .g 2] ∧ scalarState.me.gr 1 ≠ scalarState.me.gr 2 ∧ (scalarState.me.gr 4).toNat % 4 = 0 := by decide
theorem witness_BranchesJumpsAndCsrs_traps :
    fullAt scalarState.me [.g 8, .g 3, .g 1] ∧ (scalarState.me.gr 8).toNat % 4 ≠ 0 ∧ scalarState.me.decides = true ∧
    (BitVec.ofNat 64 ((scalarState.me.gr 8).toNat + 4 * (scalarState.me.gr 1).toNat)).toNat % 4 ≠ 0 ∧
    (BitVec.ofNat 64 ((scalarState.me.gr 4).toNat + 4 * (scalarState.me.gr 1).toNat)).toNat % 4 = 0 := by decide

/-- `jfl` and `vstat` with bits set, so that a write can clear them. -/
def csrState : State := scalarState.modMe fun k => { k with jfl := 0x1F, vstat := 5, fcsr := 0x13 }

theorem witness_BranchesJumpsAndCsrs_csrs :
    fullAt csrState.me [.g 6, .g 3] ∧ ∀ x ∈ [Csr.fcsr, .jfl, .vstat, .nroute, .usc, .tpc], csrState.csrPending csrState.cur x = false := by
  decide

def endState : State :=
  { scalarState with launches := [{ launch with groups := [(4, Group.start [0, 1]), (9, Group.start [1, 2])] }] }
/-- Core 0 inside a CALL frame. -/
def inFrame (s : State) : State := s.modMe fun k => { k with force :=
  { ForceUnit.idle with
    root := some (.force 0x1000)
    stack := [{ core := 0, slot := 5, name := 5, phase := .frame, why := some (.force 0x1000), save := some ⟨[], 0, 0x1000, 0⟩ }] } }

theorem witness_NopEndAndBreak :
    endState.me.inFrame = false ∧ (∀ q : Fin 4, endState.me.queues.get q = []) ∧ endState.me.mqueue = [] ∧ endState.me.usc = 0 ∧
    (∀ r : Reg, endState.me.gIsFull r = true ∧ endState.me.vIsFull r = true) ∧ endState.me.force.root = none ∧
    (endState.launchOf endState.cur).isSome = true ∧ endState.net = [] := by decide
/-- A write of core 0 that is still held. -/
def heldWrite : Packet := { pkt (.st false) [⟨bank 16, 0xFF, 1⟩] .held false true with own := true }
theorem witness_NopEndAndBreak_held :
    endState.me.inFrame = false ∧ heldWrite.src = endState.cur ∧ heldWrite.wr = true ∧ heldWrite.stage = .held := by decide
theorem witness_NopEndAndBreak_frame : (inFrame endState).me.inFrame = true := by decide
theorem witness_NopEndAndBreak_debugger :
    let s := endState.modMe fun k => { k with debugger := true }
    s.me.inGang = false ∧ s.me.debugger = true ∧ s.me.glean = none ∧ endState.me.debugger = false := by decide

/-! ### Traps and addresses -/

/-- A fatal cause at a core without a debugger; DEBUG_HALT is fatal there as well. -/
theorem witness_TrapsAreTaken :
    (plain scalarState.me ∧ scalarState.me.launch = some 3 ∧ scalarState.launch? 3 = some launch ∧ launch.state ≠ .ending ∧
      scalarState.me.debugger = false ∧ Cause.loftFault ≠ .translationFault ∧ Cause.debugHalt ≠ .preempt) ∧
    ∀ c, (scalarState.core c).run ≠ .parked :=
  ⟨by decide, core_all (p := fun k => k.run ≠ .parked) (by decide +kernel) (by decide +kernel)⟩

/-- Core 0 with g1 and v1 empty. -/
def emptyState : State := scalarState.modMe fun k => (k.armG 1).armV 1

theorem witness_EmptyRegistersTrapOrWait :
    emptyState.me.gIsFull 1 = false ∧ emptyState.me.vIsFull 1 = false ∧ emptyState.me.gIsFull 2 = true ∧ emptyState.me.vIsFull 2 = true ∧
    ¬ fullAt emptyState.me [.g 2, .g 2, .g 1] ∧ ¬ fullAt emptyState.me [.v 2, .v 2, .v 1] := by
  simp only [fullAt]; decide

theorem witness_IllegalInstructionsTrap :
    (scalarState.modMe fun k => { k with fcsr := 7 }).me.fcsr.toNat % 8 = 7 ∧
    (scalarState.modMe fun k => { k with jord := 1 }).me.jord = 1 := by decide

/-- A 2 MiB page at address 0x200000 that maps to the second 2 MiB of HBM4E, for reading and writing; and a read-only page behind it. -/
def pageOf (va leaf : Word) (level : Nat) : TlbEntry := { asn := 5, level := level, vpage := va.toNat / 2 ^ pageBits level, leaf := leaf }
def pagedState : State := scalarState.modMe fun k => { k with tlb := [pageOf 0x200000 0x20000F 1, pageOf 0x400000 0x400007 1] }

theorem witness_AddressChecksInOrder :
    wellFormedAddress 0x200008 ∧ (0x200008 : Word).toNat % 8 = 0 ∧ bits 0x200008 55 48 < 0xFD ∧
    mapped pagedState 0x200008 (pageOf 0x200000 0x20000F 1) ∧ mapped pagedState 0x400008 (pageOf 0x400000 0x400007 1) := by
  unfold wellFormedAddress mapped; decide
theorem witness_AddressChecksInOrder_form :
    ¬ wellFormedAddress (0xFF * 2 ^ 48) ∧ ¬ wellFormedAddress (2 ^ 56) ∧ wellFormedAddress 0x200004 ∧ (0x200004 : Word).toNat % 8 ≠ 0 := by
  unfold wellFormedAddress; decide
theorem witness_AddressChecksInOrder_window :
    wellFormedAddress (window 16) ∧ bits (window 16) 55 48 = 0xFE ∧ bits (window 16) 36 19 = 0 ∧ bits (window 16) 44 41 < 12 ∧
    scalarState.reaches scalarState.cur (windowTarget (window 16)) = true ∧
    scalarState.reaches scalarState.cur (windowTarget (window 16 + 0x600000000000)) = false ∧
    bits (window 16 + 0x180000000000) 44 41 = 12 := by
  unfold wellFormedAddress; decide

/-! ### Accesses, packets, atomics -/

def accessState : State := atWork [(1, 0x123456789ABCDEF0), (2, 5), (3, 0x11), (4, window 16), (6, 2 ^ 22 - 8), (8, window 0x1FFC)]

theorem witness_ScalarAccessesAreSent :
    fullAt accessState.me [.g 4, .g 1] ∧ unheld accessState ∧ accessState.me.usc ≠ 1023 ∧
    accessState.target (accessState.me.gr 4 + BitVec.ofInt 64 (8 : BitVec 11).toInt) 8 .read = (.at (bank 24) false, accessState) ∧
    accessState.target (accessState.me.gr 4 + BitVec.ofInt 64 (8 : BitVec 11).toInt) 8 .write = (.at (bank 24) false, accessState) ∧
    accessState.target (accessState.me.gr 8 + BitVec.ofInt 64 (0 : BitVec 11).toInt) 4 .write = (.at (bank 0x1FFC) false, accessState) := by
  refine ⟨by decide, ⟨by decide, by decide⟩, ?_⟩; decide
/-- The last 8 bits of the window for LDB and STB, and one bit beyond. -/
theorem witness_ScalarAccessesAreSent_bits :
    fullAt accessState.me [.g 6, .g 1] ∧ (accessState.me.gr 6).toNat + (7 + 1) ≤ 2 ^ 22 ∧ 2 ^ 22 < (accessState.me.gr 6).toNat + (8 + 1) := by
  decide

/-- A read and a write of core 0 standing at HBM4E of frond 0. -/
def readState : State := withNet accessState [pkt (.ld 3 4 true 4) [⟨0x40004, 0, 0⟩] .torus true false]
def writeState : State := withNet accessState [pkt (.st false) [⟨0x40004, 0xFFFFFFFF00000000, 0x1234567800000000⟩] .torus false true]
theorem atHome_of (s : State) (n : Nat) (p : Packet) (w : Part) (r : List Part)
    (h : s.packet? n = some p ∧ p.stage = .torus ∧ p.cross = false ∧ s.firstToWords p = true ∧ p.parts = w :: r)
    (q : ∀ q ∈ s.net, q.stage ≠ .landing) : AtHome s n p w r :=
  ⟨h.1, h.2.1, h.2.2.1, h.2.2.2.1, fun x m e => absurd e (q x m), h.2.2.2.2⟩

theorem witness_HomesAnswer :
    AtHome readState 5 (pkt (.ld 3 4 true 4) [⟨0x40004, 0, 0⟩] .torus true false) ⟨0x40004, 0, 0⟩ [] ∧ plainHome readState 0x40004 ∧
    readState.mem.wf = true ∧ 0x40004 / 8 * 8 ∉ readState.eccOne :=
  ⟨atHome_of _ _ _ _ _ (by decide) (by decide), by unfold plainHome; decide, by decide, by decide⟩
theorem witness_HomesAnswer_write :
    AtHome writeState 5 (pkt (.st false) [⟨0x40004, 0xFFFFFFFF00000000, 0x1234567800000000⟩] .torus false true)
      ⟨0x40004, 0xFFFFFFFF00000000, 0x1234567800000000⟩ [] ∧ plainHome writeState 0x40004 :=
  ⟨atHome_of _ _ _ _ _ (by decide) (by decide), by unfold plainHome; decide⟩
theorem witness_HomesAnswer_errors :
    AtHome { readState with ready := [] } 5 (pkt (.ld 3 4 true 4) [⟨0x40004, 0, 0⟩] .torus true false) ⟨0x40004, 0, 0⟩ [] ∧
    ({ readState with ready := [] } : State).stackReady (0x40004 / 2 ^ 36) = false ∧
    AtHome { readState with eccBad := [0x40000] } 5 (pkt (.ld 3 4 true 4) [⟨0x40004, 0, 0⟩] .torus true false) ⟨0x40004, 0, 0⟩ [] :=
  ⟨atHome_of _ _ _ _ _ (by decide) (by decide), by decide, atHome_of _ _ _ _ _ (by decide) (by decide)⟩

/-- Replies on their way to core 0, whose g3 they fill; g3 is armed. -/
def replyTo (p : Packet) : State := withNet (accessState.modMe fun k => { k.armG 3 with usc := 1 }) [{ p with stage := .reply }]
def loadAnswer : Packet := { pkt (.ld 3 4 true 4) [] .reply true false with got := [(0x40000, 0x87654321AAAAAAAA)] }
def atomAnswer : Packet := { pkt (.atom 0x02 5 0 false 3 4) [] .reply true true with got := [(0x40000, 0x80000001)], flags := 0x11, inUsc := true }
def errorState : State := withNet (accessState.modMe fun k => { k with usc := 1 }) [{ loadAnswer with stage := .error, bad := 0x40004, logged := 0x40004 }]

theorem witness_HomesAnswer_report :
    errorState.packet? 5 = some { loadAnswer with stage := .error, bad := 0x40004, logged := 0x40004 } ∧
    (errorState.core 0).force = ForceUnit.idle := by decide
theorem witness_RepliesReachTheirCore :
    (replyTo loadAnswer).packet? 5 = some loadAnswer ∧ ((replyTo loadAnswer).core 0).gIsFull 3 = false ∧
    (replyTo atomAnswer).packet? 5 = some atomAnswer ∧ loadAnswer.got = [(0x40000, 0x87654321AAAAAAAA)] ∧
    (replyTo (pkt (.st false) [] .reply false true)).packet? 5 = some (pkt (.st false) [] .reply false true) := by decide

def orderedState : State := accessState
theorem witness_AtomicsAreSent :
    unheld orderedState ∧ ordered orderedState .sc .system ∧ orderedState.me.usc ≠ 1023 ∧ fullAt orderedState.me [.g 4, .g 2, .g 3] ∧
    orderedState.target (orderedState.me.gr 4) 4 .rw = (.at (bank 16) false, orderedState) ∧
    orderedState.target (orderedState.me.gr 4) 8 .rw = (.at (bank 16) false, orderedState) := by
  exact ⟨by decide, ⟨fun _ => ⟨by decide, by decide⟩, fun _ _ => by decide⟩, by decide⟩

def atomAt (code h : Nat) (x y : Word) : Packet := pkt (.atom code x y false 3 (h % 8)) [⟨h, 0, 0⟩] .torus true true
def atomState (code h : Nat) (x y : Word) : State :=
  { withNet accessState [atomAt code h x y] with mem := (Memory.writeWord [] 0x40000 0x80000001) }
theorem witness_AtomicsActAtTheirHome :
    AtHome (atomState 0x02 0x40004 7 0) 5 (atomAt 0x02 0x40004 7 0) ⟨0x40004, 0, 0⟩ [] ∧ plainHome (atomState 0x02 0x40004 7 0) 0x40004 ∧
    (atomState 0x02 0x40004 7 0).mem.wf = true ∧ 0x40004 % (if 0x02 % 2 = 0 then 4 else 8) = 0 :=
  ⟨atHome_of _ _ _ _ _ (by decide) (by decide), by unfold plainHome; decide, by decide, by decide⟩
theorem witness_AtomicsActAtTheirHome_float :
    let s := atomState 0x14 0x40000 0x3F800000 0
    AtHome s 5 (atomAt 0x14 0x40000 0x3F800000 0) ⟨0x40000, 0, 0⟩ [] ∧ s.launchOf 0 = some launch ∧ plainHome s 0x40000 ∧
    s.mem.wf = true ∧ (dec32 0x80000001).isNaN = false ∧ (dec32 0x3F800000).isNaN = false ∧ plainHome s 64 ∧ launch.flagOff = 64 :=
  ⟨atHome_of _ _ _ _ _ (by decide) (by decide), by unfold plainHome; decide⟩

def fullUsc : State := accessState.modMe fun k => { k with usc := 1023, g := k.g.set 4 0x40000, tlb := [⟨5, 1, 0, 0xF⟩] }
theorem witness_StoresAndFencesWait :
    fullAt fullUsc.me [.g 4, .g 1] ∧ unheld fullUsc ∧
    fullUsc.target (fullUsc.me.gr 4 + BitVec.ofInt 64 (0 : BitVec 11).toInt) 8 .write = (.at 0x40000 false, fullUsc) ∧
    fullUsc.homeKind 0x40000 ≠ .scratch fullUsc.cur ∧ fullUsc.me.usc = 1023 ∧
    ¬ unheld (accessState.modMe fun k => { k with holdFence := [2] }) := by
  unfold unheld; decide
theorem witness_StoresAndFencesWait_fence :
    ordered readState .acq .core ∧ ∀ p ∈ readState.net, p.src = readState.cur → p.op.isStat = false :=
  ⟨⟨fun h => (by simp at h), fun h => (by simp at h)⟩, by decide⟩

/-! ### The vector unit -/

/-- Lanes with numbers, infinities, NaNs, subnormals and integers of both signs. -/
def laneValues : List Word32 :=
  [0x3F800000, 0xC0000000, 0x7F800000, 0xFF800000, 0x7FC00000, 0x7F800001, 0x00000001, 0x80000000, 0x00000000, 0x80000001, 0x7F7FFFFF,
   0xFF7FFFFF, 0x40490FDB, 0x3EAAAAAB, 0xC2F60000, 0x4B000001, 0x7FFFFFFF, 0xFFFFFFFF]
def someLanes (n : Nat) : VReg := Vector.ofFn fun i => laneValues.getD ((i.val * n + n / 2 + i.val / 7) % 18) 0
/-- Core 0 at a jet order with the vector file filled, a mask in m1, and rounding mode 1. -/
def vecState (order : Nat) : State := (atWork [(1, 0x123456789ABCDEF0), (2, 0x11), (3, 9), (4, 0x11000), (5, 40)]).modMe fun k =>
  { k with jord := BitVec.ofNat 3 order, v := Vector.ofFn fun n => someLanes (n.val + 1),
           m := (k.m.set 1 0x5A5AF00F).set 2 0xFFFF, fcsr := 0x11, srkey := 0xABCDEF }
/-- A prefix: mask m1, zeroing, stochastic rounding, fourth operand v16. -/
def somePfx : Option Pfx := some ⟨1, true, some .sr, 16⟩

theorem witness_FloatLanes :
    (vecState 0).me.jord = 0 ∧ resolves (vecState 0).me none .rne ∧ jetReady (vecState 0).me somePfx .sr 3 [1, 2, 16] true := by
  refine ⟨by decide, by decide, by decide, by decide⟩
theorem witness_FloatLanes_jets :
    0 < (vecState 5).me.jord.toNat ∧ jetReady (vecState 5).me somePfx .sr 24 [8, 0, 16] true ∧
    jetReady (vecState 7).me none .rne 56 [56, 56] true := by
  refine ⟨by decide, ⟨by decide, by decide⟩, by decide, by decide⟩
theorem witness_IntegerLanesAndMasks : fullAt (vecState 0).me [.v 1, .v 2, .v 3, .g 1] ∧ (vecState 0).me.gIsFull 0 = true := by decide
theorem witness_ConversionsAndPermutes :
    fullAt (vecState 0).me [.v 1, .v 2, .v 3] ∧ resolves (vecState 0).me somePfx .sr ∧ fmtE4M3.decode 1 = .num false 1 (-9) := by decide
theorem witness_ReductionsOverLanes :
    fullAt (vecState 0).me [.v 1, .v 3] ∧ resolves (vecState 0).me somePfx .sr ∧
    ((List.range 32).filter (active (vecState 0).me somePfx)).length ≠ 0 ∧
    ((List.range 32).filter (active ((vecState 0).modMe fun k => { k with m := k.m.set 1 0 }).me somePfx)).length = 0 := by decide
/-- 1 and −1 with a draw; 3/2 lies between one and two units of 1, a tie that goes to the even one. -/
theorem witness_ArithmeticIsRoundedOnce :
    finite32 0x3F800000 ∧ finite32 0xBF800000 ∧ value32 0x3F800000 ≠ 0 ∧ 0 < value32 0x3F800000 ∧ 0xFFFF < 2 ^ 16 ∧
    (fmtE4M3, (448 : Rat), false) ∈ floatFormats := by decide +kernel
theorem witness_ArithmeticIsRoundedOnce_tie : roundsToUnits .rne 0 false (against ((3 : Nat) * pow2 (-1))) 1 2 :=
  ⟨1, by decide +kernel, by decide +kernel, fun _ => rfl, fun h => absurd (.inr (by decide +kernel)) h⟩
theorem witness_ArithmeticIsRoundedOnce_nans :
    signals32 0x7F800001 ∧ nan32 0xFFC00000 ∧ ¬ signals32 0xFFC00000 ∧ infinite32 0xFF800000 ∧ infinite32 0x7F800000 ∧
    (0x80000000 : Word32).toNat % 2 ^ 31 = 0 ∧ (0xC2F60000 : Word32).msb = true ∧ ¬ nan32 0xC2F60000 := by decide
theorem witness_JetMovesAndDerivatives :
    (24 : Reg).val % groupSize (vecState 5).me.jord.toNat = 0 ∧ jetFull (vecState 5).me (vecState 5).me.jord.toNat 24 ∧
    (vecState 5).me.vIsFull 1 = true ∧ (5 : Fin 8).val ≤ (vecState 5).me.jord.toNat ∧ (vecState 5).me.vfull.getLsbD (24 + 5) = true ∧
    (vecState 5).me.jord.toNat < (6 : Fin 8).val ∧ resolves (vecState 5).me somePfx .sr := by decide
theorem witness_JetMovesAndDerivatives_signalling :
    (0xFF800001 : Word32).extractLsb' 23 8 = 0xFF ∧ (0xFF800001 : Word32).getLsbD 22 = false ∧
    (0xFF800001 : Word32).extractLsb' 0 22 ≠ 0 ∧
    fmul32 .rne 0 (factTable.getD 3 0) 0xFF800001 = (0xFFC00001, flagNV) := by decide +kernel
theorem witness_LanesSowAndPart :
    fullAt (vecState 0).me [.g 2, .g (regUp 2 1), .g 4, .v 3] ∧ fullAt (vecState 0).me [.g 5, .g 4, .g 3] ∧
    bits ((vecState 0).me.gr 4) 15 12 = 1 ∧ bits ((vecState 0).me.gr 4) 19 16 = 1 := by decide

/-! ### Tiles and the matrix engine -/

def tileEntry (rows cols : Nat) (f : Fmt) (base : Word) : LoftEntry :=
  { LoftEntry.reset with state := .value, gen := 1, rows := rows, cols := cols, fmt := f, level := .S, base := base }
/-- Core 0 with an `fp32` tile of 4 × 8 in slot 2, an `mxfp4` tile of 2 × 64 in slot 3, a `z32` row in slot 4, a `bf16` tile of 4 × 8
in slot 5; accumulator 1 is 2 × 3 and
delivers `fp32`. g8 names the tiles, g9 holds a position. -/
def tileState : State :=
  { (atWork [(8, 0x01000002), (9, 0x0000000000005001), (10, 0x01000003), (11, 0x20001), (12, 0x01000004), (13, 0x3013005000),
      (14, 0x3F82), (15, 0x0001), (16, 0x0000000000061000), (17, 0)]).modMe fun k =>
      { k with v := Vector.ofFn fun n => someLanes (n.val + 1), m := (k.m.set 1 0x5A5AF00F),
               acc := k.acc.set 1 { cfg := 0x20081, work := [(0, 0x3F80000000), (65, 0xC012345678)], vis := [(1, 0x7FC0000000), (64, 0x4049123456)] } } with
    loft := [(2, tileEntry 4 8 .fp32 0x100), (3, tileEntry 2 64 .mxfp4 0x200), (4, tileEntry 1 48 .z32 0x400),
      (5, tileEntry 4 8 .bf16 0x500)] }

theorem localTile_of (s : State) (n : Word) (t : Tile)
    (h : (bits n 63 32 = 0 ∧ (n.getLsbD 23 = false → bits n 19 16 < 12 ∧ bits n 15 12 < 12)) ∧ ownerOf s.cur n = s.cur ∧
      s.reaches s.cur s.cur = true ∧ (ownEntry s n).gen.toNat = bits n 31 24 ∧ (ownEntry s n).state = .value ∧ (ownEntry s n).level = .S ∧
      t = (ownEntry s n).tile s.cur ∧ t.base.toNat % 8 = 0 ∧ t.base.toNat + storageBytes t.rows t.cols t.fmt ≤ 2 ^ 19 ∧
      (t.fmt.isBlock = true → t.cols % 32 = 0)) : LocalTile s n t :=
  ⟨h.1, h.2.1, h.2.2.1, h.2.2.2.1, .inl h.2.2.2.2.1, h.2.2.2.2.2.1, h.2.2.2.2.2.2.1, h.2.2.2.2.2.2.2⟩

theorem witness_SlicesMove :
    fullAt tileState.me [.g 8, .g 9, .v 3] ∧ unheld tileState ∧ resolves tileState.me none .rne ∧
    LocalTile tileState (tileState.me.gr 8) ((tileEntry 4 8 .fp32 0x100).tile 0) ∧
    sliceOk ((tileEntry 4 8 .fp32 0x100).tile 0) (tileState.me.gr 9) true true :=
  ⟨by decide, ⟨by decide, by decide⟩, by decide, localTile_of _ _ _ (by decide), by decide⟩
theorem witness_SlicesMove_block :
    fullAt tileState.me [.g 10, .g 11, .v 3] ∧ LocalTile tileState (tileState.me.gr 10) ((tileEntry 2 64 .mxfp4 0x200).tile 0) ∧
    sliceOk ((tileEntry 2 64 .mxfp4 0x200).tile 0) (tileState.me.gr 11) true true :=
  ⟨by decide, localTile_of _ _ _ (by decide), by decide⟩
def sliceAnswer : Packet :=
  { pkt (.vldt 3 ⟨(tileEntry 4 8 .fp32 0x100).tile 0, true, 1, 5, 0x5A5AF00F, false, someLanes 7, .rne, 0⟩) [] .reply true false with
    own := true, got := [(bank 0x130, 0x1111111122222222), (bank 0x138, 0x3333333344444444)] }
def topkAnswer : Packet :=
  { pkt (.topk 3 ⟨(tileEntry 1 48 .z32 0x400).tile 0, 0, 5, 4, 3⟩) [] .reply true false with
    own := true, got := [(bank 0x410, 0x700000000), (bank 0x418, 0x700000007), (bank 0x420, 0x9)] }
def fillState (p : Packet) : State := withNet (tileState.modMe fun k => k.armV 3) [p]
theorem witness_SlicesMove_fill :
    (fillState sliceAnswer).packet? 5 = some sliceAnswer ∧ ((fillState sliceAnswer).core 0).vIsFull 3 = false := by decide
theorem witness_TopkSelectsTheLargest :
    fullAt tileState.me [.g 12, .g 13, .v 3] ∧ LocalTile tileState (tileState.me.gr 12) ((tileEntry 1 48 .z32 0x400).tile 0) ∧
    (∀ p ∈ tileState.net, p.src = tileState.cur → p.op.isTopk = false) ∧ bits (tileState.me.gr 13) 63 42 = 0 ∧
    bits (tileState.me.gr 13) 11 0 < 1 ∧ bits (tileState.me.gr 13) 23 12 + bits (tileState.me.gr 13) 35 24 + 1 ≤ 48 ∧
    bits (tileState.me.gr 13) 41 36 + 1 ≤ 32 :=
  ⟨by decide, localTile_of _ _ _ (by decide), by decide⟩
theorem witness_TopkSelectsTheLargest_fill :
    (fillState topkAnswer).packet? 5 = some topkAnswer ∧ ((fillState topkAnswer).core 0).vIsFull 3 = false := by decide

/-- The MMA of g18 = slot 5 on accumulator 1: A at row 0, column 0, K = 4, B in `bf16` at byte 0. -/
def mmaState : State := tileState.modMe fun k =>
  (((k.setG 18 0x01000005).setG 19 0).setG 16 (2 * 2 ^ 38 + 3 * 2 ^ 17)).setG 20 0x01000002 |>.setG 21 0 |>.setG 22 0
theorem witness_MatrixInstructionsQueue :
    fullAt mmaState.me [.g 18, .g (regUp 18 1), .g 16, .g 3] ∧ mmaState.me.holdFence = [] ∧ mmaState.me.mqueue.length < 16 ∧
    LocalTile mmaState (mmaState.me.gr 18) ((tileEntry 4 8 .bf16 0x500).tile 0) ∧
    MmaOk (mmaState.me.acc.get 1) ((tileEntry 4 8 .bf16 0x500).tile 0) (mmaState.me.gr (regUp 18 1)) (mmaState.me.gr 16) .bf16 :=
  ⟨by decide, by decide, by decide, localTile_of _ _ _ (by decide),
    by constructor <;> decide⟩
theorem witness_MatrixInstructionsQueue_cfg :
    mmaState.me.gIsFull 15 = true ∧ Claims.unused mmaState.me 1 ∧ configured (mmaState.me.acc.get 1) ∧ ¬ configured (mmaState.me.acc.get 0) ∧
    bits (mmaState.me.gr 15) 63 17 = 0 ∧ (bits (mmaState.me.gr 15) 16 12, Fmt.fp32) ∈ formatCodes := by decide
theorem witness_MatrixInstructionsQueue_drain :
    fullAt mmaState.me [.g 20, .g (regUp 20 1), .g 22, .g 3] ∧ bits (mmaState.me.gr (regUp 20 1)) 63 27 = 0 ∧
    bits (mmaState.me.gr (regUp 20 1)) 11 0 + rowsOf (mmaState.me.acc.get 1) ≤ 4 ∧
    bits (mmaState.me.gr (regUp 20 1)) 23 12 + colsOf (mmaState.me.acc.get 1) ≤ 8 ∧ (bits (mmaState.me.acc.get 1).cfg 16 12, Fmt.fp32) ∈ formatCodes ∧
    bits (mmaState.me.gr (regUp 20 1)) 26 24 = 0 ∧ resolves mmaState.me none .rne ∧ mmaState.me.gr 22 = 0 ∧
    LocalTile mmaState (mmaState.me.gr 20) ((tileEntry 4 8 .fp32 0x100).tile 0) :=
  by
    refine ⟨?_, ?_, ?_, ?_, ?_, ?_, ?_, ?_, localTile_of _ _ _ (by decide)⟩ <;> decide
theorem witness_SliceMovesReachTheVisibleBank :
    fullAt mmaState.me [.g 17, .v 3] ∧ (∀ i ∈ mmaState.me.mqueue, i.swapsOrDrains 1 = false) ∧ configured (mmaState.me.acc.get 1) ∧
    bits (mmaState.me.gr 17) 63 12 = 0 ∧ bits (mmaState.me.gr 17) 5 0 < rowsOf (mmaState.me.acc.get 1) ∧
    bits (mmaState.me.gr 17) 11 6 < colsOf (mmaState.me.acc.get 1) ∧ resolves mmaState.me none .rne := by decide

def mmaOp : MmaOp :=
  { d := 3, k := 1, tile := (tileEntry 4 8 .bf16 0x500).tile 0, slot := 5, row := 0, col := 0, sp := false, bfmt := .bf16, kdim := 4, off := 0,
    m := 2, n := 3, origin := none, after := 0, pc := 0x1000 }
def drainOp : DrainOp :=
  { d := 3, k := 1, tile := (tileEntry 4 8 .fp32 0x100).tile 0, slot := 2, row := 1, col := 2, mode := .rne, srkey := 0, amax := 0, pc := 0x1000,
    written := false, flying := [], failed := false, largest := 0, merge := none }
/-- Numbers in A and in the B image, and an operation at the head of the matrix queue. -/
def performState (i : MatItem) : State :=
  { mmaState.modMe fun k => { k.armG 3 with mqueue := [i] } with
    mem := ((Memory.writeWord (Memory.writeWord [] (2 ^ 52 + 0x500) 0x3E80404040003F80) (2 ^ 52 + 0x510) 0x4000BF80C0003F80).writeWord
      (2 ^ 53) 0x3F803F803F80BF80).writeWord (2 ^ 53 + 8) 0x3F80404040003F80 |>.writeWord (2 ^ 53 + 16) 0x4000400040004000 }
theorem enginesFree_of (s : State) (c n : Nat) (h : s.net = []) : enginesFree s c n := by
  unfold enginesFree; rw [h]; exact ⟨fun _ m => (by cases m), fun _ m => (by cases m)⟩
theorem witness_MmaAccumulatesExactSums :
    let s := performState (.mma 6 mmaOp)
    enginesFree s 0 mmaOp.after ∧ (s.core 0).mqueue = [.mma 6 mmaOp] ∧ s.eccBad = [] ∧ s.eccOne = [] ∧ mmaOp.tile.level = .S ∧
    mmaOp.tile.base.toNat + storageBytes mmaOp.tile.rows mmaOp.tile.cols mmaOp.tile.fmt ≤ 2 ^ 19 ∧ mmaOp.row + mmaOp.m ≤ mmaOp.tile.rows ∧
    mmaOp.col + mmaOp.kdim ≤ mmaOp.tile.cols ∧ mmaOp.tile.fmt.isBlock = false ∧ (s.core 0).gIsFull 3 = false ∧ (s.core 0).qwaits = [] ∧
    termOf (tileElem s mmaOp.tile 0 0) (imageAt s 0 mmaOp 0 0) = some (.num true (2 ^ 14) (-14)) :=
  ⟨enginesFree_of _ _ _ (by decide), by decide⟩
/-- Two blocks and a part of a third, of integers and of an `mxfp4` tile against a compressed B. -/
def longOp (f : Fmt) (n : Nat) (sp : Bool) : MmaOp :=
  { mmaOp with tile := (tileEntry 2 96 f 0x1000).tile 0, row := 1, m := 1, bfmt := if sp then .mxfp4 else .s8, kdim := n, sp := sp }
theorem witness_MmaAccumulatesExactSums_blocks :
    (longOp .s8 70 false).col + (longOp .s8 70 false).kdim ≤ 96 ∧ 32 < (longOp .s8 70 false).kdim ∧ Fmt.s8.isInt = true ∧
    (∀ i < 70, termOf (tileElem (performState (.mma 6 (longOp .s8 70 false))) (longOp .s8 70 false).tile 1 i)
      (imageAt (performState (.mma 6 (longOp .s8 70 false))) 0 (longOp .s8 70 false) 0 i) ≠ none) ∧
    Fmt.mxfp4.isBlock = true ∧ (longOp .mxfp4 64 true).tile.cols % 32 = 0 ∧ (longOp .mxfp4 64 true).col % 32 = 0 ∧
    (longOp .mxfp4 64 true).kdim % 32 = 0 := by decide +kernel
theorem witness_BanksSwapZeroAndDrain :
    ((performState (.mswap 6 1)).core 0).mqueue = [.mswap 6 1] ∧ ((performState (.mzero 6 1)).core 0).mqueue = [.mzero 6 1] ∧
    ((performState (.mdrain 6 drainOp)).core 0).mqueue = [.mdrain 6 drainOp] ∧ (performState (.mdrain 6 drainOp)).mem.wf = true ∧
    drainOp.row + rowsOf ((performState (.mdrain 6 drainOp)).core 0 |>.acc.get 1) ≤ drainOp.tile.rows ∧
    drainOp.col + colsOf ((performState (.mdrain 6 drainOp)).core 0 |>.acc.get 1) ≤ drainOp.tile.cols ∧
    (performState (.mdrain 6 drainOp)).eccBad = [] := by decide
theorem witness_BanksSwapZeroAndDrain_drain : enginesFree (performState (.mdrain 6 drainOp)) 0 6 := enginesFree_of _ _ _ (by decide)

/-- A drain whose words have been acknowledged, with a place for its merge or none. -/
def mergeOp (amax : Word) (failed : Bool) (merge : Option Nat) : DrainOp :=
  { drainOp with written := true, amax := amax, failed := failed, largest := 0x3F800000, merge := merge }
def draining (amax : Word) (failed : Bool) (merge : Option Nat) : State := performState (.mdrain 6 (mergeOp amax failed merge))
/-- What the drain's later steps are told of it. -/
def acknowledged (amax : Word) (failed : Bool) : Prop :=
  ((draining amax failed none).core 0).mqueue = [.mdrain 6 (mergeOp amax failed none)] ∧ (mergeOp amax failed none).flying = [] ∧
    (mergeOp amax failed none).merge = none ∧ (mergeOp amax failed none).failed = failed ∧ (mergeOp amax failed none).amax = amax
theorem witness_BanksSwapZeroAndDrain_acknowledged :
    acknowledged 0 false ∧ acknowledged 0 true ∧ acknowledged (window 16) false ∧ acknowledged (2 ^ 56) false :=
  ⟨⟨rfl, rfl, rfl, rfl, rfl⟩, ⟨rfl, rfl, rfl, rfl, rfl⟩, ⟨rfl, rfl, rfl, rfl, rfl⟩, ⟨rfl, rfl, rfl, rfl, rfl⟩⟩
theorem witness_BanksSwapZeroAndDrain_filled :
    ((draining 0 false none).core 0).qwaits = [] ∧ ((draining 0 false none).core 0).gIsFull 3 = false ∧
    ((draining (2 ^ 56) false none).core 0).force = ForceUnit.idle := by decide +kernel
theorem witness_BanksSwapZeroAndDrain_merge :
    (draining (window 16) false none).translateVa 0 7 (window 16) .rw = (.ok (bank 16) false, draining (window 16) false none) := rfl
theorem witness_BanksSwapZeroAndDrain_form :
    (draining (2 ^ 56) false none).translateVa 0 7 (2 ^ 56) .rw = (.trap .accessViolation, draining (2 ^ 56) false none) := rfl
def amaxPacket (parts : List Part) (st : Stage) : Packet := pkt (.amax 0x3F800000 4) parts st false false
theorem witness_BanksSwapZeroAndDrain_amax :
    let s := withNet accessState [amaxPacket [⟨0x40004, 0, 0⟩] .torus]
    AtHome s 5 (amaxPacket [⟨0x40004, 0, 0⟩] .torus) ⟨0x40004, 0, 0⟩ [] ∧ plainHome s 0x40004 ∧ s.mem.wf = true ∧
    (0x3F800000 : Word).toNat < 2 ^ 32 :=
  ⟨atHome_of _ _ _ _ _ (by decide) (by decide), by unfold plainHome; decide, by decide, by decide⟩
theorem witness_BanksSwapZeroAndDrain_answered :
    let s := withNet (draining (window 16) false (some 5)) [amaxPacket [] .reply]
    s.packet? 5 = some (amaxPacket [] .reply) ∧ (s.core 0).mqueue =
      [.mdrain 6 (mergeOp (window 16) false (some 5))] := by decide +kernel

/-! ### The copy engine and the lofts -/

/-- A control word: region of 2 × 3 at (1, 2), with TR or not, and a number of destinations. -/
def ctlWord (tr dests : Nat) : Word := BitVec.ofNat 64 (1 + 2 * 2 ^ 12 + 1 * 2 ^ 24 + 2 * 2 ^ 36 + tr * 2 ^ 50 + (dests - 1) * 2 ^ 54)
/-- mmaState with the tiles of slot 6, 2 × 3, and slot 7, 3 × 2; g24 on hold a copy's source group, g28 and g29 its destinations;
g26 holds the word of `mma g3, g18, g16, k1`. -/
def copyState (tr dests : Nat) : State :=
  { mmaState.modMe fun k => ((((k.setG 24 0x01000002).setG 25 (ctlWord tr dests)).setG 28 (if tr = 1 then 0x01000007 else 0x01000006)).setG 29
      0x01000006).setG 26 ((Instr.word (.mma ⟨3, 18, 16, false, false⟩ 1)).zeroExtend 64) with
    loft := mmaState.loft ++ [(6, tileEntry 2 3 .fp32 0x600), (7, tileEntry 3 2 .fp32 0x640)]
    mem := Memory.writeWord (Memory.writeWord [] (bank 0x128) 0x1111111122222222) (bank 0x130) 0x3333333344444444 }
theorem copyOk_of (s : State) (r : R3) (many : Bool) (ns : List Word) (m : RoundMode)
    (h : (fullAt s.me ([.g r.a, .g (regUp r.a 1), .g r.b, .g r.d] ++ (List.range (bits (s.me.gr (regUp r.a 1)) 57 54 + 1)).map fun i =>
        .g (regUp r.b i)) ∧ bits (s.me.gr (regUp r.a 1)) 63 58 = 0 ∧ codeResolves s.me (bits (s.me.gr (regUp r.a 1)) 53 51) m) ∧
      ((many = false → bits (s.me.gr (regUp r.a 1)) 57 54 = 0) ∧ r.b.val + bits (s.me.gr (regUp r.a 1)) 57 54 ≤ 63 ∧
        (s.me.gr (regUp r.a 1)).getLsbD 48 = false ∧ (s.me.gr (regUp r.a 1)).getLsbD 49 = false) ∧
      ns = (List.range (bits (s.me.gr (regUp r.a 1)) 57 54 + 1)).map fun i => s.me.gr (regUp r.b i))
    (n : ∀ n ∈ s.me.gr r.a :: ns, reachable s n) : CopyOk s r many ns m where
  full := by rw [if_neg (by rw [h.2.1.2.2.2]; decide)]; simpa using h.1.1
  zero := h.1.2.1
  mode := h.1.2.2
  count := h.2.1.1
  range := h.2.1.2.1
  weights := fun e => absurd e (by rw [h.2.1.2.2.1]; decide)
  pruned := fun e => absurd e (by rw [h.2.1.2.2.2]; decide)
  listed := h.2.2
  names := ⟨n _ (.head _), fun _ x hx => n x (.tail _ hx)⟩
theorem witness_CopyQueuesHoldCopiesAndJoins :
    (copyState 0 1).me.holdFence = [] ∧ ((copyState 0 1).me.queues.get 2).length < 16 ∧
    CopyOk (copyState 0 1) ⟨3, 24, 28, true, true⟩ false [0x01000006] .rne :=
  ⟨by decide +kernel, by decide +kernel, copyOk_of _ _ _ _ _ (by decide +kernel) (all_of (by decide +kernel))⟩
theorem witness_CopyQueuesHoldCopiesAndJoins_many : CopyOk (copyState 0 2) ⟨3, 24, 28, true, true⟩ true [0x01000006, 0x01000006] .rne :=
  copyOk_of _ _ _ _ _ (by decide +kernel) (all_of (by decide +kernel))
theorem witness_CopyQueuesHoldCopiesAndJoins_follow :
    FollowOk (copyState 0 1) 24 2 ⟨3, 18, 16, false, false⟩ 1 ((tileEntry 4 8 .bf16 0x500).tile 0) .bf16 { mmaOp with origin := some 2 } where
  word := by decide +kernel
  full := by decide +kernel
  tile := localTile_of _ _ _ (by decide +kernel)
  ok := by constructor <;> decide +kernel
  op := by decide +kernel
def copyOf (tr : Nat) (src : Word) : CopyOp :=
  { id := 6, d := 3, k := 2, pc := 0x1000, src := src, ctl := ctlWord tr 1, metaName := 0, dsts := [if tr = 1 then 0x01000007 else 0x01000006], mode := .rne,
    srkey := 0, follow := some mmaOp, after := 6, frame := none }
/-- A copy at the head of queue 2. -/
def copying (tr : Nat) (src : Word) (r : CopyRun) : State :=
  (copyState tr 1).modMe fun k => { k.armG 3 with queues := k.queues.set 2 [.copy (copyOf tr src) r] }
/-- A join behind nothing, operations in queues 0 and 1 and in the matrix queue. -/
def queueState : State := (copyState 0 1).modMe fun k =>
  { k with queues := k.queues.set 0 [.copy (copyOf 0 0x01000002) fresh], mqueue := [.mma 8 mmaOp, .mswap 9 1] }
def joinC (i : CopyItem) : Bool := match i with | .join _ => true | _ => false
def joinM (i : MatItem) : Bool := match i with | .join _ => true | _ => false
theorem noJoins_of (k : Core) (h : (∀ q : Fin 4, ∀ i ∈ (k.queues.get q).head?, joinC i = false) ∧ (∀ i ∈ k.mqueue.head?, joinM i = false) ∧
    k.qwaits = []) : noJoins k :=
  ⟨fun q mk rest e => by simpa [joinC] using h.1 q (.join mk) (by simp [e]),
    fun mk rest e => by simpa [joinM] using h.2.1 (.join mk) (by simp [e]), h.2.2⟩
theorem witness_CopyQueuesHoldCopiesAndJoins_joins :
    noJoins queueState.me ∧ covered queueState.me 0x1F 9 ∧ (queueState.me.queues.get 0).length < 16 ∧ queueState.me.mqueue.length < 16 ∧
    queueState.me.gIsFull 3 = true ∧
    16 ≤ (queueState.modMe fun k => { k with mqueue := List.replicate 16 (.mswap 9 1) }).me.mqueue.length ∧
    16 ≤ ((queueState.modMe fun k => { k with queues := k.queues.set 1 (List.replicate 16 (.join ⟨[]⟩)) }).me.queues.get 1).length :=
  ⟨noJoins_of _ (by decide +kernel), .inr (.inr ⟨by decide +kernel, .inl ⟨1, by decide +kernel⟩⟩), by decide +kernel⟩

theorem whole_of (t : Tile) (h : t.level = .S ∧ t.fmt = .fp32 ∧ (0 < t.rows ∧ 0 < t.cols) ∧ t.base.toNat % 8 = 0 ∧ t.base.toNat + storageBytes t.rows t.cols .fp32 ≤ 2 ^ 19) :
    WholeTile t := ⟨h.1, h.2.1, h.2.2.1, h.2.2.2⟩
/-- The copy at the head of queue 2, transposing a region of slot 2 into slot 7. -/
def turning : State := copying 1 0x01000002 fresh
theorem witness_CopiesArePerformed :
    atHead turning 0 2 (copyOf 1 0x01000002) fresh [] ∧ MayStart turning 0 (copyOf 1 0x01000002) ∧
    ¬ stale turning 0 0x01000002 ∧ (found turning 0 0x01000002).state = .value ∧
    inSource (copyOf 1 0x01000002) (foundTile turning 0 0x01000002) ∧ WholeTile (foundTile turning 0 0x01000002) ∧
    (∀ n ∈ (copyOf 1 0x01000002).dsts, (∃ why, Refused turning 0 none (3, 2) n why) ∨ WholeTile (foundTile turning 0 n)) ∧
    destShape (copyOf 1 0x01000002) = (3, 2) :=
  ⟨by decide +kernel, ⟨by decide +kernel, by decide +kernel, all_of (by decide +kernel), by decide +kernel⟩,
    by unfold stale; decide +kernel, by decide +kernel, by decide +kernel, whole_of _ (by decide +kernel),
    fun n h => .inr (by rw [List.mem_singleton.1 h]; exact whole_of _ (by decide +kernel)), by decide⟩
/-- A source that is stale, and one that its region leaves; a destination that is stale, BLACKHOLE, or of another shape. -/
theorem witness_CopiesArePerformed_refused :
    let dark := { turning with loft := mapSet turning.loft 7 { turning.entry 0 7 with state := .blackhole } }
    stale turning 0 0x02000002 ∧ ¬ inSource (copyOf 0 0x01000006) (foundTile turning 0 0x01000006) ∧
    Refused turning 0 none (3, 2) 0x02000007 0x07 ∧ Refused dark 0 none (3, 2) 0x01000007 0x08 ∧
    Refused turning 0 none (3, 2) 0x01000006 0x09 ∧ ((dark.entry 0 7).state ≠ .value ∧ ¬ stale dark 0 0x01000007) ∧
    mayWrite (dark.modCore 0 fun k => { k with force := { k.force with root := some (.force 0x1000), stack :=
      [{ core := 0, slot := 7, name := 0x01000007, phase := .frame, why := none, save := some ⟨[], 0, 0, 0⟩ }] } }) 0 (some (0, 7)) 0x01000007 := by
  refine ⟨by unfold stale; decide +kernel, by decide +kernel, .stale (by unfold stale; decide +kernel), .state ?_ ?_, .shape ?_ ?_ ?_, ?_, ?_⟩ <;>
    (try unfold stale) <;> (try unfold mayWrite) <;> decide +kernel
/-- What the copy's source words are, all arrived. -/
def readRun : CopyRun :=
  let t := (tileEntry 3 2 .fp32 0x640).tile 0
  ⟨.reading ⟨(tileEntry 4 8 .fp32 0x100).tile 0, none, 1, 2, 2, 3⟩ [(5, 0x1111111122222222), (6, 0x3333333344444444)]
    [⟨0, 0x01000007, t, (List.range 3).map fun w => (w, wordPlace t w, false)⟩], false, 0, 0, [], []⟩
theorem witness_CopiesArePerformed_send :
    atHead (copying 1 0x01000002 readRun) 0 2 (copyOf 1 0x01000002) readRun [] ∧ WholeTile ((tileEntry 4 8 .fp32 0x100).tile 0) ∧
    WholeTile ((tileEntry 3 2 .fp32 0x640).tile 0) ∧ storageBytes 3 2 .fp32 / 8 = 3 ∧
    (copyOf 1 0x01000002).ctl.getLsbD 48 = false ∧ inSource (copyOf 1 0x01000002) ((tileEntry 4 8 .fp32 0x100).tile 0) ∧
    (bits (copyOf 1 0x01000002).ctl 11 0, bits (copyOf 1 0x01000002).ctl 23 12, regionRows (copyOf 1 0x01000002),
      regionCols (copyOf 1 0x01000002)) = (1, 2, 2, 3) :=
  ⟨by decide +kernel, whole_of _ (by decide +kernel), whole_of _ (by decide +kernel), by decide +kernel⟩
/-- A write of the copy at its home, and one whose destination is stale; an answer of either kind on its way back. -/
def copyWrite (name : Word) (st : Stage) : Packet :=
  { pkt (.engWrite (.copy 2) 0 name ((tileEntry 3 2 .fp32 0x640).tile 0) [0]) (if st = .torus then [⟨bank 0x640, 0xFFFFFFFF, 7⟩] else [])
      st false true with own := true }
def copyRead : Packet :=
  { pkt (.engRead (.copy 2) 0 ((tileEntry 4 8 .fp32 0x100).tile 0) [5, 6]) [] .reply true false with
    own := true, got := [(bank 0x128, 0x11), (bank 0x130, 0x33)] }
def answering (p : Packet) (r : CopyRun) : State := withNet (copying 1 0x01000002 { r with flying := [5, 9] }) [p]
theorem witness_CopiesArePerformed_answers :
    let s := answering (copyWrite 0x01000007 .torus) { fresh with phase := .writing }
    AtHome s 5 (copyWrite 0x01000007 .torus) ⟨bank 0x640, 0xFFFFFFFF, 7⟩ [] ∧ ¬ stale s 0 0x01000007 ∧ mayWrite s 0 none 0x01000007 ∧
    plainHome s (bank 0x640) ∧ s.mem.wf = true :=
  ⟨atHome_of _ _ _ _ _ (by decide +kernel) (by decide +kernel), by unfold stale; decide +kernel, by unfold mayWrite; decide +kernel,
    by unfold plainHome; decide +kernel, by decide +kernel⟩
theorem witness_CopiesArePerformed_late :
    let s := answering (copyWrite 0x02000007 .torus) { fresh with phase := .writing }
    AtHome s 5 (copyWrite 0x02000007 .torus) ⟨bank 0x640, 0xFFFFFFFF, 7⟩ [] ∧ stale s 0 0x02000007 :=
  ⟨atHome_of _ _ _ _ _ (by decide +kernel) (by decide +kernel), by unfold stale; decide +kernel⟩
theorem witness_CopiesArePerformed_replies :
    (∀ o' r', CopyItem.copy o' r' ∈ ([] : List CopyItem) → copyRead.id ∉ r'.flying) ∧ (answering copyRead readRun).packet? 5 = some copyRead ∧
    atHead (answering copyRead readRun) 0 2 (copyOf 1 0x01000002) { readRun with flying := [5, 9] } [] ∧ copyRead.got.length = 2 ∧
    (answering (copyWrite 0x01000007 .reply) { fresh with phase := .writing }).packet? 5 = some (copyWrite 0x01000007 .reply) ∧
    atHead (answering (copyWrite 0x01000007 .reply) { fresh with phase := .writing }) 0 2 (copyOf 1 0x01000002)
      { fresh with phase := .writing, flying := [5, 9] } [] := ⟨fun _ _ h => (by cases h), by decide +kernel⟩
/-- The copy with its destinations applied, and refused. -/
def doneRun (why mask : Nat) : CopyRun := ⟨.writing, false, why, mask, [], []⟩
theorem witness_CopiesArePerformed_completion :
    let done := copying 0 0x01000002 (doneRun 0 0)
    let failed := copying 0 0x01000002 (doneRun 2 1)
    atHead done 0 2 (copyOf 0 0x01000002) (doneRun 0 0) [] ∧ (done.core 0).gIsFull 3 = false ∧ (done.core 0).mqueue.length < 16 ∧
    atHead failed 0 2 (copyOf 0 0x01000002) (doneRun 2 1) [] ∧ (doneRun 2 1).failmask < 2 ^ 16 ∧ (doneRun 2 1).reason < 2 ^ 8 ∧
    ((done.modMe fun k => { k with mqueue := List.replicate 16 (.mswap 9 1) }).core 0).mqueue.length = 16 := by decide +kernel

def negStook : Stook := { op := 2 ^ 49 + 2 ^ 46 + 10 * 2 ^ 32, mode := .rne, srkey := 0, names := [0x0100000B], entry := 0, depth := 1, index := 0 }
/-- g32 and g33: descriptor and origin of a new `fp32` tile of 2 × 2 in slot 9; g34: its storage; g35: an operation word, NEG of one operand;
g36: its operand, slot 11; g37: slot 12, SUSPENDED on it. -/
def loftState : State :=
  { (copyState 0 1).modMe (fun k => [((32 : Reg), (9 + 1 * 2 ^ 12 + 1 * 2 ^ 24 : Word)), (33, 0), (34, 0x800),
      (35, 2 ^ 49 + 2 ^ 46 + 10 * 2 ^ 32), (36, 0x0100000B), (37, 0x0100000C), (38, 0x01000009)].foldl (fun k e => k.setG e.1 e.2) k) with
    loft := (copyState 0 1).loft ++ [(11, tileEntry 2 2 .fp32 0x680),
      (12, { tileEntry 2 2 .fp32 0x6A0 with state := .suspended, stook := some negStook })] }
theorem newOk_of (s : State) (dsc st : Word) (f : Fmt)
    (h : bits dsc 63 44 = 0 ∧ (bits dsc 40 36, f) ∈ formatCodes ∧ bits dsc 42 41 = 0 ∧ f.isBlock = false ∧ (ownEntry s dsc).state = .free ∧
      st.toNat % 8 = 0 ∧ st.toNat + storageBytes (bits dsc 23 12 + 1) (bits dsc 35 24 + 1) f ≤ 2 ^ 19 ∧
      ∀ e ∈ s.loft, e.1 / 4096 = s.cur → e.2.state ≠ .free → e.2.level = .S →
        st.toNat + storageBytes (bits dsc 23 12 + 1) (bits dsc 35 24 + 1) f ≤ e.2.base.toNat ∨
          e.2.base.toNat + storageBytes e.2.rows e.2.cols e.2.fmt ≤ st.toNat) : NewOk s dsc st f .S where
  zero := h.1
  format := h.2.1
  level := by rw [h.2.2.1]; decide
  block := fun e => absurd (h.2.2.2.1.symm.trans e) (by decide +kernel)
  slot := h.2.2.2.2.1
  aligned := h.2.2.2.2.2.1
  low := fun _ => ⟨h.2.2.2.2.2.2.1, h.2.2.2.2.2.2.2⟩
  high := fun e => absurd rfl e

theorem witness_TilesComeAndGo :
    fullAt loftState.me [.g 32, .g (regUp 32 1), .g 34, .g 3] ∧ loftState.me.holdFence = [] ∧ loftState.me.ctop = 0 ∧ loftState.me.midway = none ∧
    NewOk loftState (loftState.me.gr 32) (loftState.me.gr 34) .fp32 .S :=
  ⟨by decide +kernel, by decide +kernel, by decide +kernel, by decide +kernel, newOk_of _ _ _ _ (by decide +kernel)⟩
theorem heldBy_of (s : State) (c : Nat) (l : Launch) (h : s.launches = [l] ∧ l.holds c = true ∧ l.state ≠ .parked) : HeldBy s c l where
  listed := by simp [State.launch?, findLaunch, h.1]
  holds := h.2
  only := fun m hm _ _ => by rw [h.1] at hm; simpa using hm
theorem witness_TilesComeAndGo_free :
    ((∀ r : Reg, loftState.me.gIsFull r = true) ∧ ownerOf 0 (loftState.me.gr 36) = 0 ∧ ownerOf 0 (loftState.me.gr 37) = 0 ∧
      current loftState 0 (loftState.me.gr 36) ∧ current loftState 0 (loftState.me.gr 37) ∧ loftState.slotBusy 0 11 = false ∧
      (ownEntry loftState (loftState.me.gr 36)).state = .value ∧ (ownEntry loftState (loftState.me.gr 37)).state = .suspended ∧
      turning.slotBusy 0 2 = true) ∧ HeldBy loftState 0 launch :=
  ⟨by decide +kernel, heldBy_of _ _ _ (by decide +kernel)⟩
/-- No packet is in flight, or a read of another frond. -/
theorem witness_TilesComeAndGo_stat :
    goodName (loftState.me.gr 36) ∧ loftState.reaches 0 (ownerOf 0 (loftState.me.gr 36)) = true ∧
    goodName 0x0101000B ∧ ownerOf 0 0x0101000B = 12 ∧ loftState.reaches 0 12 = true ∧ ¬ goodName 0x100000000 ∧ unheld loftState ∧
    loftState.net = [] ∧ ¬ unheld (loftState.modMe fun k => { k with holdAtom := [2] }) ∧
    (∃ q ∈ (withNet loftState [{ pkt (.ld 3 8 false 0) [⟨2 ^ 37, 0, 0⟩] .torus true false with cross := true, dest := 1 }]).net,
      q.src = 0 ∧ q.id < loftState.nextId ∧ q.rd = true ∧ q.cross = true) := by decide +kernel
theorem suspOk : SuspOk loftState ⟨3, 32, 36, true, true⟩ .fp32 .S .rne where
  full := by decide +kernel
  range := by decide +kernel
  new := newOk_of _ _ _ _ (by decide +kernel)
  word := ⟨by decide +kernel, by unfold codeResolves; decide⟩
  entry := by decide +kernel
  operands := all_of (by decide +kernel)
  shapes := by decide +kernel
theorem witness_TsuspMakesAStook :
    SuspOk loftState ⟨3, 32, 36, true, true⟩ .fp32 .S .rne ∧ loftState.me.holdFence = [] ∧ loftState.me.ctop = 0 ∧ loftState.me.midway = none ∧ loftState.me.inFrame = false ∧
    loftState.me.force.root = none ∧ loftState.me.force.stack = [] ∧ loftState.me.launch = some launch.key ∧
    loftState.launch? launch.key = some launch ∧ landed loftState ∧ ¬ landed (withNet loftState [heldWrite]) :=
  ⟨suspOk, by unfold landed; decide +kernel⟩
/-- A pool at its high-water count, where a TSUSP is eager. -/
theorem witness_TsuspMakesAStook_eager :
    let l := { launch with pool := 4, poolN := 5, hwPct := 80 }
    l.pool < l.poolN ∧ (l.poolN * l.hwPct + 99) / 100 ≤ l.pool ∧ launch.poolN ≤ { launch with pool := 4 }.pool := by decide

/-! ### Demand -/

/-- loftState with a launch whose pool counts one stook, and core 0 forcing slot 12 (SCALE by 2 of slot 11) in a chain of a FORCE at
0x1000; a BLACKHOLE tile of context 1 in slot 13, and one of context 0 in slot 14. -/
def scaleStook : Stook := { op := 2 ^ 49 + 2 ^ 46 + 2 * 2 ^ 42 + 0x40000000, mode := .rne, srkey := 0, names := [0x0100000B], entry := 0, depth := 1, index := 0 }
def callStook : Stook := { op := 2 ^ 46 + 6 * 2 ^ 42 + 77, mode := .rne, srkey := 0, names := [0x0100000B], entry := 0x2000, depth := 1, index := 0 }
def forceState : State :=
  { loftState with
    launches := [{ launch with pool := 2 }]
    mem := Memory.writeWord [] (bank 0x680) 0x3FC000003F800000
    loft := (copyState 0 1).loft ++ [(11, tileEntry 2 2 .fp32 0x680),
      (12, { tileEntry 2 2 .fp32 0x6A0 with state := .suspended, stook := some scaleStook }),
      (13, { tileEntry 2 2 .fp32 0x6C0 with state := .blackhole, stook := some scaleStook, owner := 1 }),
      (14, { tileEntry 2 2 .fp32 0x6E0 with state := .blackhole, stook := some scaleStook, owner := 0, waiters := [1] }),
      (15, { tileEntry 2 2 .fp32 0x700 with state := .blackhole, stook := some callStook, owner := 0 })] }
def entryOfSlot (slot : Nat) (p : Phase) (why : Option Root) : ForceEntry :=
  { core := 0, slot := slot, name := absolute 0 slot 1, phase := p, why := why, save := none }
/-- Core 0 with a chain. -/
def chain (r : Root) (g : Goal) (st : List ForceEntry) (how : Nat) : State :=
  forceState.modMe fun k => { k with force := ⟨some r, g, st, how, false, [], [], 0, none⟩ }
def forcing : Root := .force 0x1000

theorem witness_DemandsAreMade :
    fullAt forceState.me [.g 37, .g 3] ∧ forceState.me.holdFence = [] ∧ forceState.me.blocked = false ∧ landed forceState ∧
    current forceState 0 (forceState.me.gr 37) ∧ forceState.me.inFrame = false ∧ forceState.me.force.root = none ∧
    (entryOf forceState 0 (forceState.me.gr 37)).state = .suspended ∧ scaleStook.op.getLsbD 49 = true ∧ forceState.me.sparks.length < 64 ∧
    ownerOf 0 (forceState.me.gr 37) = 0 ∧ forceState.cur = 0 := by
  unfold landed; decide +kernel
/-- A name of another loft, and one that is stale; a write that is still held. -/
theorem witness_DemandsAreMade_others :
    let s := { forceState with loft := forceState.loft ++ [(4096 * 12 + 11, tileEntry 2 2 .fp32 0x680)] }
    current s 0 0x0101000B ∧ ownerOf 0 0x0101000B ≠ 0 ∧ goodName 0x0200000C ∧ (entryOf s 0 0x0200000C).gen.toNat ≠ bits 0x0200000C 31 24 ∧
    ¬ landed (withNet forceState [heldWrite]) := by unfold landed; decide +kernel
theorem witness_DemandsAreMade_frame :
    let s := (chain forcing .none [{ entryOfSlot 15 .frame (some forcing) with save := some ⟨[], 0, 0x1000, 0⟩ }] 0)
    s.me.inFrame = true ∧ s.me.blocked = false ∧ current s 0 (s.me.gr 37) := by decide +kernel
theorem witness_DemandsAreMade_chain :
    let s := chain (.forceNb 3 0x1000) (.ask 0 12 0x0100000C none) [] 0
    s.me.inFrame = false ∧ s.me.force.root ≠ none ∧ s.me.blocked = false ∧
    (chain forcing (.ask 0 12 0x0100000C none) [] 0).me.blocked = true := by
  decide +kernel
/-- A chain of core 0 that asks for a slot. -/
def askingFor (slot : Nat) : State := chain forcing (.ask 0 slot (absolute 0 slot 1) (some forcing)) [] 0
theorem resting_of (k : Core) (h : k.force.got = [] ∧ k.force.failed = none ∧ k.mqueue = [] ∧ k.force.stack = []) : Resting k where
  unit := ⟨h.1, h.2.1⟩
  queue := fun n m => by rw [h.2.2.1] at m; cases m
  head := fun e m => by rw [h.2.2.2] at m; cases m
theorem witness_ForcedTilesComeToValue :
    (steps ((askingFor 12).core 0) ∧ ((askingFor 12).core 0).force.root = some (.force 0x1000) ∧
      (askingFor 12).launchOf 0 = some { launch with pool := 2 } ∧
      ((askingFor 12).entry 0 12).state = .suspended ∧ ((askingFor 13).entry 0 13).state = .blackhole ∧ ((askingFor 13).entry 0 13).owner = 1 ∧
      ((askingFor 14).entry 0 14).owner = 0 ∧ ((askingFor 11).entry 0 11).state = .value ∧
      ((askingFor 12).entry 0 12).gen.toNat = bits (absolute 0 12 1) 31 24) ∧ Resting ((askingFor 12).core 0) :=
  ⟨by decide +kernel, resting_of _ (by decide +kernel)⟩
/-- Core 1, whose context owns slot 13, waits for slot 14, which core 0 owns. -/
theorem witness_ForcedTilesComeToValue_loop :
    let s := (askingFor 13).modCore 1 fun k => { k with force := { k.force with root := some forcing, goal := .asleep 0 14 0x0100000E none } }
    (s.core (launch.coreOf 1)).run = .running ∧ (s.core (launch.coreOf 1)).force.goal = .asleep 0 14 0x0100000E none ∧
    (s.entry 0 14).state = .blackhole ∧ (s.entry 0 14).owner = (s.core 0).ctx ∧ (s.entry 0 13).owner = 1 := by decide +kernel
theorem witness_ForcedTilesComeToValue_walk :
    walkEnds (askingFor 13) launch 1 := fun _ _ _ _ _ h => by cases h
theorem innermost_of (s : State) (c : Nat) (x : ForceEntry) (rest : List ForceEntry) (p : Phase) (st : Stook)
    (h : goesOn (s.core c) ∧ (s.core c).force.stack = x :: rest ∧ x.phase = p ∧ (s.entry x.core x.slot).stook = some st) :
    Innermost s c x rest p st := ⟨h.1, h.2.1, h.2.2.1, h.2.2.2⟩
/-- Core 0 with slot 14 innermost in a phase, its unit's packets flying, and its stook. -/
def evaluating (p : Phase) (st : Stook) (fly : List Nat) (failed : Option Word) : State :=
  let s := chain forcing .none [entryOfSlot 14 p (some forcing)] 0
  { s.modMe fun k => { k with force := { k.force with flying := fly, failed := failed } } with
    loft := mapSet s.loft 14 { s.entry 0 14 with stook := some st } }
theorem inner (p : Phase) (st : Stook) (fly : List Nat) (failed : Option Word) :
    Innermost (evaluating p st fly failed) 0 (entryOfSlot 14 p (some forcing)) [] p st :=
  innermost_of _ _ _ _ _ _ (by exact ⟨⟨rfl, rfl, rfl, by intro h; cases h⟩, rfl, rfl, rfl⟩)
theorem one_of {α β : Type} {p : Nat → α → β → Prop} {x : α} {y : β} (h : p 0 x y) :
    ∀ i a b, [x][i]? = some a → [y][i]? = some b → p i a b
  | 0, _, _, ha, hb => by cases ha; cases hb; exact h
  | _ + 1, _, _, ha, _ => by simp at ha
theorem witness_StooksAreEvaluated :
    OperandsOk (evaluating .evaluate scaleStook [] none) 0 (entryOfSlot 14 .evaluate (some forcing)) scaleStook
      [(tileEntry 2 2 .fp32 0x680).tile 0] ∧ ((evaluating .evaluate scaleStook [] none).core 0).force.goal = .none :=
  ⟨⟨rfl, one_of (by decide +kernel)⟩, by decide +kernel⟩
/-- The result of each kind that is not a CALL: NEG, CONVERT, SCALE, REDUCE to a column, MATMUL, TRANSPOSE. -/
def wordOfKind (kind nops rest : Nat) : Word := BitVec.ofNat 64 (2 ^ 49 + nops * 2 ^ 46 + kind * 2 ^ 42 + rest)
def stookOf (kind nops rest : Nat) : Stook := { scaleStook with op := wordOfKind kind nops rest }
def operand : Tile := (tileEntry 2 2 .fp32 0x680).tile 0
def resultOf (cols : Nat) (f : Fmt) : Tile := (tileEntry 2 cols f 0x6E0).tile 0
theorem resultOk_of (st : Stook) (ops : List Tile) (t : Tile)
    (h : (opFieldsOk st.op = true ∧ bits st.op 45 42 ≠ 6 ∧ ops.length = bits st.op 48 46) ∧
      (t.level = .S ∧ 0 < t.rows ∧ 0 < t.cols ∧ t.base.toNat % 8 = 0 ∧ t.base.toNat + storageBytes t.rows t.cols t.fmt ≤ 2 ^ 19) ∧
      (t.fmt.float.isSome = true ∧ t.fmt.isBlock = false ∧ (bits st.op 45 42 = 4 → t.fmt = .fp32)) ∧ opShapesOk st.op t ops = true)
    (w : bits st.op 45 42 ≠ 4 → ∀ a ∈ ops, WholeTile a) : ResultOk st ops t := ⟨h.1, h.2.1, h.2.2.1, w, h.2.2.2⟩
theorem operand_whole {p : Prop} : p → ∀ a ∈ [operand], WholeTile a := fun _ a h => by
  rw [List.mem_singleton.1 h]; exact whole_of _ (by decide)
theorem witness_StooksAreEvaluated_results :
    ResultOk (stookOf 0 1 (10 * 2 ^ 32)) [operand] (resultOf 2 .fp16) ∧ ResultOk (stookOf 1 1 0) [operand] (resultOf 2 .e4m3) ∧
    ResultOk (stookOf 2 1 0x40000000) [operand] (resultOf 2 .fp32) ∧ ResultOk (stookOf 3 1 0) [operand] (resultOf 1 .fp32) ∧
    ResultOk (stookOf 4 2 0) [resultOf 2 .bf16, resultOf 2 .bf16] (resultOf 2 .fp32) ∧ ResultOk (stookOf 5 1 0) [operand] (resultOf 2 .fp32) :=
  ⟨resultOk_of _ _ _ (by decide +kernel) operand_whole, resultOk_of _ _ _ (by decide +kernel) operand_whole,
    resultOk_of _ _ _ (by decide +kernel) operand_whole, resultOk_of _ _ _ (by decide +kernel) operand_whole,
    resultOk_of _ _ _ (by decide +kernel) (fun h => absurd (by decide) h), resultOk_of _ _ _ (by decide +kernel) operand_whole⟩
theorem witness_StooksAreEvaluated_phases :
    let a := (tileEntry 2 2 .fp32 0x680).tile 0
    let r := ((evaluating (.reading [a]) scaleStook [] none).entry 0 14).tile 0
    (bits callStook.op 45 42 = 6 ∧ bits scaleStook.op 45 42 = 2 ∧ (a.rows, a.cols) = (r.rows, r.cols) ∧
      bits ({ scaleStook with op := 2 ^ 49 + 2 * 2 ^ 46 + 4 * 2 ^ 42 } : Stook).op 45 42 = 4 ∧
      ((evaluating .evaluate scaleStook [] none).core 0).mqueue.length < 16 ∧
      ((evaluating .writing scaleStook [5] (some 0x40000)).core 0).force.flying ≠ [] ∧
      ((evaluating .writing scaleStook [] (some 0x40000)).core 0).force.failed = some 0x40000 ∧
      ((evaluating .writing scaleStook [] none).core 0).force.root = some (.force 0x1000)) ∧ WholeTile a ∧ WholeTile r :=
  ⟨by decide +kernel, whole_of _ (by decide +kernel), whole_of _ (by decide +kernel)⟩
/-- An operand whose slot has moved on. -/
theorem witness_StooksAreEvaluated_stale :
    let st := { scaleStook with names := [0x0200000B] }
    (goodName 0x0200000B ∧ (evaluating .evaluate st [] none).reaches 0 (ownerOf 0 0x0200000B) = true ∧
      ((evaluating .evaluate st [] none).entry (ownerOf 0 0x0200000B) (bits 0x0200000B 11 0)).gen.toNat ≠ bits 0x0200000B 31 24) ∧
    Resting ((evaluating .evaluate st [] none).core 0) := by
  refine ⟨by decide +kernel, ⟨⟨by decide +kernel, by decide +kernel⟩, fun n m => (by cases m), fun e m => ?_⟩⟩
  cases m
  exact ⟨by decide, by decide, fun _ h => (by cases h)⟩
theorem heldForce (s : State) (h : s.launches = [{ launch with pool := 2 }]) : HeldBy s 0 { launch with pool := 2 } :=
  heldBy_of s 0 _ ⟨h, by decide +kernel, by decide +kernel⟩
theorem witness_ForcedTilesComeToValue_complete :
    let s := chain forcing .none [entryOfSlot 14 .complete (some forcing)] 0
    Innermost s 0 (entryOfSlot 14 .complete (some forcing)) [] .complete scaleStook ∧ HeldBy s 0 { launch with pool := 2 } ∧
    (∀ ctx ∈ (s.entry 0 14).waiters, ({ launch with pool := 2 } : Launch).coreOf ctx ≠ 0) :=
  ⟨innermost_of _ _ _ _ _ _ (by decide +kernel), heldForce _ (by decide +kernel), by decide +kernel⟩
theorem witness_ForcedTilesComeToValue_wake :
    steps ((chain forcing (.woken 0 12 0x0100000C (some forcing) true) [] 2).core 0) ∧
    steps ((chain forcing (.woken 0 12 0x0100000C (some forcing) false) [] 2).core 0) := by decide +kernel
/-- A loft of frond 1, of which slot 12 is SUSPENDED, with core 0's chain at it and its packets; slot 14 there is in evaluation. -/
def afar (g : Goal) (st : List ForceEntry) (fly : List Nat) (ps : List Packet) : State :=
  let s := chain forcing g st 0
  { s.modMe fun k => { k with force := { k.force with flying := fly } } with
    loft := s.loft ++ [(4096 * 144 + 12, { tileEntry 2 2 .fp32 0x6A0 with state := .suspended, stook := some scaleStook }),
      (4096 * 144 + 14, { tileEntry 2 2 .fp32 0x6A0 with state := .blackhole, stook := some scaleStook, owner := 0 })]
    net := ps }
def askAfar (fly : List Nat) (ps : List Packet) : State := afar (.ask 144 12 (absolute 144 12 1) (some forcing)) [] fly ps
/-- The request, stamped, with the counts as they are at reset. -/
def asks : Packet :=
  { pkt .loft [] .stamped false false with dest := 1, cross := true, stamp := some ⟨true, 0, 1, [0, 0, 0, 0, 0, 0, 0], []⟩ }
theorem witness_ForcedTilesComeToValue_far :
    (let s := askAfar [] []
     goesOn (s.core 0) ∧ (s.core 0).force.goal = .ask 144 12 (absolute 144 12 1) (some forcing) ∧ s.launchOf 0 = some { launch with pool := 2 } ∧
       (s.core 0).force.flying = [] ∧ 144 / 144 ≠ 0 / 144) ∧
    (let s := askAfar [5] [asks]
     s.packet? 5 = some asks ∧ asks.op = .loft ∧ asks.src = 0 ∧ s.mayApply asks ⟨true, 0, 1, [0, 0, 0, 0, 0, 0, 0], []⟩ = true ∧
       (s.entry 144 12).state = .suspended ∧ (s.entry 144 12).gen.toNat = bits (absolute 144 12 1) 31 24 ∧ (s.core 0).force.flying ≠ []) ∧
    Resting ((askAfar [] []).core 0) :=
  ⟨by decide +kernel, by decide +kernel, resting_of _ (by decide +kernel)⟩
/-- A counted packet of core 0 that awaits its notice keeps a request to a loft of the frond. -/
theorem witness_ForcedTilesComeToValue_near :
    let q := { pkt (.st false) [⟨2 ^ 37, 0xFF, 7⟩] .torus false true with dest := 1, cross := true }
    q.src = 0 ∧ q.counted = true ∧ q.stamp = none ∧ q.unperformed = true ∧ ¬ near (withNet forceState [q]) 0 1 ∧ near forceState 0 1 ∧
    near (withNet forceState [q]) 0 0 := by decide +kernel
def farEntry (p : Phase) : ForceEntry := { entryOfSlot 14 p (some forcing) with core := 144 }
theorem witness_ForcedTilesComeToValue_afar :
    (let s := afar .none [farEntry .complete] [] []
     Innermost s 0 (farEntry .complete) [] .complete scaleStook ∧ HeldBy s 0 { launch with pool := 2 } ∧
       (∀ ctx ∈ (s.entry 144 14).waiters, ({ launch with pool := 2 } : Launch).coreOf ctx ≠ 0) ∧ s.launchOf 0 = some { launch with pool := 2 }) ∧
    (let s := afar .none [farEntry .complete] [5] [asks]
     Innermost s 0 (farEntry .complete) [] .complete scaleStook ∧ HeldBy s 0 { launch with pool := 2 } ∧ s.packet? 5 = some asks ∧
       s.mayApply asks ⟨true, 0, 1, [0, 0, 0, 0, 0, 0, 0], []⟩ = true) ∧
    (let s := afar .none [farEntry .told] [] []
     goesOn (s.core 0) ∧ (s.core 0).force.flying = [] ∧ (s.core 0).force.stack = [farEntry .told]) :=
  ⟨⟨innermost_of _ _ _ _ _ _ (by decide +kernel), heldForce _ (by decide +kernel), by decide +kernel⟩,
    ⟨innermost_of _ _ _ _ _ _ (by decide +kernel), heldForce _ (by decide +kernel), by decide +kernel⟩, by decide +kernel⟩
/-- Core 0 inside the frame of slot 15. -/
def frameSave : FrameSave := ⟨(List.range 15).map (BitVec.ofNat 64), 0xFFFE, 0x1234, 0⟩
def frameState : State := chain forcing .none [{ entryOfSlot 15 .frame (some forcing) with save := some frameSave }] 0
theorem witness_CallFramesRun :
    let s := chain forcing .none [entryOfSlot 15 .callWait (some forcing)] 0
    Innermost s 0 (entryOfSlot 15 .callWait (some forcing)) [] .callWait callStook ∧ (s.core 0).gidx.toNat / 16 = 0 ∧
    (s.core 0).glean = none ∧ (s.core 0).gangWait = none ∧ (∀ i : Reg, 1 ≤ i.val → i.val ≤ 15 → (s.core 0).gIsFull i = true) ∧
    (∀ n ∈ callStook.names, goodName n ∧ s.reaches 0 (ownerOf 0 n) = true) :=
  ⟨innermost_of _ _ _ _ _ _ (by decide +kernel), by decide +kernel, by decide +kernel, by decide +kernel, by decide +kernel,
    all_of (by decide +kernel)⟩
theorem witness_CallFramesRun_done :
    (frameState.me.force.stack = [{ entryOfSlot 15 .frame (some forcing) with save := some frameSave }] ∧
      (∀ q : Fin 4, frameState.me.queues.get q = []) ∧ frameState.me.mqueue = [] ∧ frameState.me.usc = 0 ∧
      (∀ i : Reg, 1 ≤ i.val → i.val ≤ 15 → frameState.me.gIsFull i = true) ∧ frameState.me.inFrame = true ∧ forceState.me.inFrame = false ∧
      frameState.net = [] ∧ (frameState.modMe fun k => { k with usc := 3 }).me.usc ≠ 0) ∧ HeldBy frameState 0 { launch with pool := 2 } :=
  ⟨by decide +kernel, heldForce _ (by decide +kernel)⟩

/-! ### Groups and gangs -/

def barGroup : Group := { Group.start [0, 1] with mode := .barrier, known := [0], phase := 7, arrived := [(0, 7), (1, 8)] }
def phGroup : Group := { Group.start [0, 1] with mode := .phaser, known := [0], phase := 7, roles := [(0, .both), (1, .wait)], s := [(0, 7)],
                                                 w := [(0, 7), (1, 6)], signalled := true }
def groupLaunch (x : Group) : Launch := { launch with groups := [(4, x)] }
/-- Core 0 as a member of group 4 with its counts and role. -/
def groupState (x : Group) (m : Member) : State :=
  { (atWork []).modMe fun k => { k with groups := [(4, m)] } with launches := [groupLaunch x] }
def arrived : Member := ⟨8, 7, .withdraw, false⟩
def level : Member := ⟨7, 7, .withdraw, false⟩
theorem inGroup_of (s : State) (g : GroupNo) (mode : GroupMode) (l : Launch) (x : Group) (m : Member)
    (h : s.me.launch = some l.key ∧ s.launch? l.key = some l ∧ mapGet (Group.start []) l.groups g.val = x ∧
      (s.me.groups.find? fun e => e.1 = g.val) = some (g.val, m) ∧ s.cur / 144 ∈ x.known ∧ x.mode = mode) : InGroup s g mode l x m :=
  ⟨⟨h.1, h.2.1⟩, h.2.2.1, h.2.2.2.1, .inr h.2.2.2.2.1, .inr h.2.2.2.2.2⟩
theorem witness_GroupInstructions :
    let s := groupState barGroup level
    InGroup s 4 .barrier (groupLaunch barGroup) barGroup level ∧ plain s.me ∧ level.a = level.w ∧ settledAll s :=
  ⟨inGroup_of _ _ _ _ _ _ (by decide +kernel), by decide +kernel, by decide +kernel, ⟨by decide +kernel, by decide +kernel⟩⟩
/-- A group that the core does not belong to, and one of the other mode. -/
theorem witness_GroupInstructions_misuse :
    let s := groupState barGroup level
    plain s.me ∧ s.me.launch = some 3 ∧ s.launch? 3 = some (groupLaunch barGroup) ∧ (∀ e ∈ s.me.groups, e.1 ≠ 9) ∧
    mapGet (Group.start []) (groupLaunch barGroup).groups 4 = barGroup ∧ (s.me.groups.find? fun e => e.1 = 4) = some (4, level) ∧
    s.cur / 144 ∈ barGroup.known ∧ barGroup.mode = .barrier ∧ phGroup.mode = .phaser ∧
    ¬ settledAll (withNet s [pkt (.ld 3 8 false 0) [⟨0x40000, 0, 0⟩] .torus true false]) := by
  simp only [settledAll]; decide +kernel
theorem witness_GroupInstructions_wait :
    let s := groupState { barGroup with phase := 8 } arrived
    InGroup s 4 .barrier (groupLaunch { barGroup with phase := 8 }) { barGroup with phase := 8 } arrived ∧ plain s.me ∧ arrived.a ≠ arrived.w ∧
    outstanding s [] ∧ 0 ≤ (({ barGroup with phase := 8 } : Group).phase - (arrived.w + 1)).toInt ∧
    (barGroup.phase - (arrived.w + 1)).toInt < 0 ∧ ∀ q ∈ barGroup.queue, q.ctx ≠ 0 :=
  ⟨inGroup_of _ _ _ _ _ _ (by decide +kernel), by decide +kernel, by decide +kernel, by intro i; constructor <;> intro h <;> simp at h; exact absurd h.choose_spec.1 (by simp [groupState, State.modMe, State.modCore, State.setCore, atWork, State.reset]),
    by decide +kernel⟩
def phaser (r : Role) : Member := ⟨0, 0, r, false⟩
theorem witness_GroupInstructions_phaser :
    let s := groupState phGroup (phaser .both)
    InGroup s 4 .phaser (groupLaunch phGroup) phGroup (phaser .both) ∧ plain s.me ∧ settledAll s ∧ mapGet 0 phGroup.s 0 = phGroup.phase ∧
    mapGet 0 phGroup.w 0 = phGroup.phase ∧ (∀ q ∈ phGroup.queue, q.ctx ≠ 0) :=
  ⟨inGroup_of _ _ _ _ _ _ (by decide +kernel), by decide +kernel, ⟨by decide +kernel, by decide +kernel⟩, by decide +kernel, by decide +kernel, by decide +kernel⟩
theorem witness_GroupInstructions_roles :
    let x := { phGroup with phase := 8, w := [(0, 7)] }
    InGroup (groupState x (phaser .wait)) 4 .phaser (groupLaunch x) x (phaser .wait) ∧ 0 ≤ (x.phase - (mapGet 0 x.w 0 + 1)).toInt ∧
    InGroup (groupState phGroup (phaser .sig)) 4 .phaser (groupLaunch phGroup) phGroup (phaser .sig) :=
  ⟨inGroup_of _ _ _ _ _ _ (by decide +kernel), by decide +kernel, inGroup_of _ _ _ _ _ _ (by decide +kernel)⟩
/-- Group 4 with one request in its queue. -/
def asking (x : Group) (op : ChanOp) : State := groupState { x with queue := [⟨0, op⟩] } level
theorem witness_ChannelsCompletePhases :
    (asking barGroup .arrive).launch? 3 = some (groupLaunch { barGroup with queue := [⟨0, .arrive⟩] }) ∧
    completes { barGroup with queue := [], arrived := [(0, 8), (1, 8)] } ∧ ¬ completes barGroup ∧
    completes { phGroup with s := [(0, 8)] } ∧
    (asking { barGroup with known := [] } (.ask true)).me.launch = some 3 := by
  decide +kernel

/-- Cores 0 and 1, each holding a GANG of two. -/
def gangState (n : Nat) (w : Option GangSize) : State :=
  { atWork [] with
    launches := [{ launch with cores := List.range 8 }]
    cores := (List.range 8).map fun c => (c, { coreAtWork c [] with gangWait := if c < n then w else none }) }
theorem witness_GangsFormAndEnd :
    let s := gangState 1 (some .two)
    s.launchOf s.cur = some { launch with cores := List.range 8 } ∧ s.me.gidx.toNat / 16 = 0 ∧ setExists 2 s.cur ∧
    (∀ i < 2, leaderOf 2 s.cur + i ∈ List.range 8 ∧ (s.core (leaderOf 2 s.cur + i)).run = .running) ∧
    (∀ c ∈ List.range 8, (s.core c).gangWait = none ∨ (s.core c).gangWait = some .two) ∧ ¬ setExists 8 8 ∧ leaderOf 4 8 + 3 ∉ List.range 8 := by
  decide +kernel
/-- A member whose part has ended; one that waits for a gang of another size; core 1 as the second of a gang of two. -/
theorem witness_GangsFormAndEnd_reasons :
    (let s := (gangState 1 none).modCore 1 fun k => { k with run := .ended }
     s.launchOf s.cur = some { launch with cores := List.range 8 } ∧ setExists 2 s.cur ∧ (∀ i < 2, leaderOf 2 s.cur + i ∈ List.range 8) ∧
       (∃ i < 2, (s.core (leaderOf 2 s.cur + i)).run ∈ [RunState.ended, .idle, .faulted, .stopped]) ∧
       ∀ e ∈ s.cores, e.2.inSparkFrame = false ∧ e.2.glean = none) ∧
    (let s := (gangState 0 none).modCore 1 fun k => { k with gangWait := some .four }
     (∀ i < 2, (s.core (leaderOf 2 s.cur + i)).run ∉ [RunState.ended, .idle, .faulted, .stopped]) ∧
       1 ∈ List.range 8 ∧ 1 ≠ s.cur ∧ (s.core 1).gangWait = some .four ∧ GangSize.four ≠ .two ∧ ∃ i < 2, 1 = leaderOf 2 s.cur + i) ∧
    (let s := { (gangState 0 none).modCore 1 fun k => { k with gidx := 0x11 } with cur := 1 }
     s.me.gidx.toNat / 16 = 1 ∧ s.me.gidx.toNat % 16 < 2 ∧ s.me.gidx.toNat % 8 ≤ s.cur ∧ s.me.inSparkFrame = false) := by
  decide +kernel
theorem witness_GangsFormAndEnd_frame :
    let s := (chain forcing .none [entryOfSlot 15 .callWait (some forcing)] 0).modMe fun k => { k with gidx := 0x10 }
    Innermost s 0 (entryOfSlot 15 .callWait (some forcing)) [] .callWait callStook ∧ (s.core 0).gidx.toNat / 16 ≠ 0 ∧ (s.core 0).midway = none :=
  ⟨innermost_of _ _ _ _ _ _ (by decide +kernel), by decide +kernel, by decide +kernel⟩
theorem witness_GangsFormAndEnd_form :
    (∀ z ∈ sizes, setExists z.2.1 1 ∧ ∀ i < z.2.1, ((gangState 8 (some z.1)).core (leaderOf z.2.1 1 + i)).gangWait = some z.1 ∧
      ((gangState 8 (some z.1)).core (leaderOf z.2.1 1 + i)).run = .running ∧ ((gangState 8 (some z.1)).core (leaderOf z.2.1 1 + i)).pending = []) ∧
    ((gangState 0 none).modMe fun k => { k with gidx := 0x10 }).me.gidx.toNat / 16 ≠ 0 := by decide +kernel

/-! ### Gleaning and search -/

/-- g8 to g10: [3, 10), grain 2, entry 0x2000; an empty range in g12; a bad entry in g11. -/
def gleanLaunch : Launch := { launch with arenaBase := 0x200000, arenaSz := 1024 }
def gleanState : State :=
  { atWork [(8, 0xA00000003), (9, 2), (10, 0x2000), (11, 0x2001), (12, 0x300000003), (13, 0)] with launches := [gleanLaunch] }
theorem witness_RangesArePublishedAndTaken :
    fullAt gleanState.me [.g 8, .g (regUp 8 1), .g 10, .g 3] ∧ ¬ ((gleanState.me.gr 10).toNat % 4 ≠ 0 ∨ bits (gleanState.me.gr 10) 63 56 ≠ 0) ∧
    bits (gleanState.me.gr 8) 31 0 < bits (gleanState.me.gr 8) 63 32 ∧ gleanState.me.deque.length < 8 ∧
    fullAt gleanState.me [.g 12, .g (regUp 12 1), .g 10, .g 3] ∧ bits (gleanState.me.gr 12) 63 32 ≤ bits (gleanState.me.gr 12) 31 0 ∧
    (gleanState.me.gr 11).toNat % 4 ≠ 0 ∧ settledWrites gleanState ∧ ¬ settledWrites (gleanState.modMe fun k => { k with usc := 1 }) ∧
    8 ≤ (gleanState.modMe fun k => { k with deque := List.replicate 8 ⟨0, 1, 1, 0⟩ }).me.deque.length := by simp only [settledWrites]; decide +kernel
def someRange : RangeEntry := ⟨3, 10, 2, 0x2000⟩
def waiting (t : Option (Nat × WorkKind)) (idle news : Bool) : GleanWait := ⟨4, 0, 0, 0, 0x1000, t, idle, news⟩
/-- A GLEAN of core 0 into g4 and g5 with its pair empty; core `v` holds ranges. -/
def gleaning (w : GleanWait) (v : Nat) (q : List RangeEntry) : State :=
  (gleanState.modMe fun k => { (k.armG 4).armG 5 with glean := some w }).modCore v fun k => { k with deque := q }
theorem witness_RangesArePublishedAndTaken_take :
    let own := gleaning (waiting (some (0, .range)) false false) 0 [someRange]
    let theft := gleaning (waiting (some (12, .range)) false false) 12 [someRange]
    (own.core 0).glean = some (waiting (some (0, .range)) false false) ∧ pairReg 4 ∧ (own.core 0).gfull &&& (3#64 <<< 4) = 0 ∧
    (own.core 0).run ≠ .parked ∧ (own.core 0).deque = [someRange] ∧ (theft.core 12).deque = [] ++ [someRange] ∧ (theft.core 0).deque = [] := by
  decide +kernel
/-- Every context waits in a GLEAN that found nothing. -/
def allIdle : State := { gleanState with cores := [0, 1, 12, 13].map fun c =>
  (c, { ((gleanState.core c).armG 4).armG 5 with glean := some (waiting none true false) }) }
theorem nothing_of (s : State) (c v : Nat) (h : s.hasWork c (v, .range) = false ∧ s.hasWork c (v, .spark) = false ∧ s.hasWork c (v, .alternative) = false) :
    ∀ x, s.hasWork c (v, x) = false := fun x => by cases x <;> simp [h]
theorem witness_RangesArePublishedAndTaken_empty :
    allIdle.launch? 3 = some gleanLaunch ∧ 0 ∈ gleanLaunch.cores ∧
    (∀ v ∈ gleanLaunch.cores, (allIdle.core v).run = .running ∧ (allIdle.core v).glean = some (waiting none true false) ∧
      (allIdle.core v).gfull &&& (3#64 <<< 4) = 0 ∧ (allIdle.core v).launch = some 3) ∧ pairReg 4 ∧
    (∀ v ∈ gleanLaunch.cores, ∀ u ∈ gleanLaunch.cores, allIdle.hasWork v (u, .range) = false ∧ allIdle.hasWork v (u, .spark) = false ∧
      allIdle.hasWork v (u, .alternative) = false) ∧ gleanLaunch.cores.Nodup := by decide +kernel
theorem first_of (s : State) (l : Launch) (c : Nat) (r : BitVec 16) (x : Nat × WorkKind) (h1 : x.1 ∈ l.cores ∧ s.hasWork c x = true)
    (h2 : ∀ v ∈ l.cores, ∀ k ∈ [WorkKind.range, .spark, .alternative], s.hasWork c (v, k) = true → (v, k) ≠ x →
      keyOf l.gorder c r x < keyOf l.gorder c r (v, k)) : firstWork s l c r x :=
  ⟨h1.1, h1.2, fun y hy hw hn => h2 y.1 hy y.2 (by cases y.2 <;> decide) hw hn⟩
/-- Core 12 has a range, core 1 a spark (of core 0's slot 11). -/
def workState (a b : Bool) : State :=
  (gleanState.modCore 12 fun k => { k with deque := if a then [someRange] else [] }).modCore 1 fun k =>
    { k with sparks := if b then [0x0100000B] else [] }
theorem witness_GleanSearchesInOrder :
    (workState true true).launchOf 0 = some gleanLaunch ∧ orderly gleanLaunch ∧ pairReg 4 ∧ (workState true true).me.inFrame = false ∧
    (workState true true).me.glean = none ∧ fullAt (workState true true).me [.g 4, .g (regUp 4 1)] ∧
    firstWork (workState true false) gleanLaunch 0 (lfsrNext 0) (12, .range) ∧
    firstWork (workState false true) gleanLaunch 0 (lfsrNext 0) (1, .spark) ∧ (workState false true).reaches 0 (ownerOf 0 0x0100000B) = true :=
  ⟨by decide +kernel, by unfold orderly; decide +kernel, by decide +kernel, by decide +kernel, by decide +kernel, by decide +kernel,
    first_of _ _ _ _ _ (by decide +kernel) (by decide +kernel), first_of _ _ _ _ _ (by decide +kernel) (by decide +kernel), by decide +kernel⟩
/-- A spark in the core's own queue, which comes before core 12's range. -/
theorem witness_GleanSearchesInOrder_own :
    let s := (workState true false).modCore 0 fun k => { k with sparks := [0x0100000B, 0x0100000C] }
    firstWork s gleanLaunch 0 (lfsrNext 0) (0, .spark) ∧ (s.core 0).sparks = [0x0100000B, 0x0100000C] :=
  ⟨first_of _ _ _ _ _ (by decide +kernel) (by decide +kernel), by decide +kernel⟩
theorem witness_GleanSearchesInOrder_nothing :
    (∀ v ∈ gleanLaunch.cores, gleanState.hasWork 0 (v, .range) = false ∧ gleanState.hasWork 0 (v, .spark) = false ∧
      gleanState.hasWork 0 (v, .alternative) = false) ∧
    ((gleaning (waiting none true true) 12 [someRange]).core 0).glean = some (waiting none true true) := by decide +kernel

/-- Arenas of 1024 bytes in the page that maps 0x200000 to itself; g20 and g21: a table at 0x200800 with two alternatives; g22: v3 saved;
g23: no prune word. -/
def treePage : TlbEntry := pageOf 0x200000 0x20000F 1
def searchState (ctop sp : Nat) (m : List (Nat × Word)) : State :=
  { gleanState.modMe (fun k => { ([((20 : Reg), (0x200800 : Word)), (21, 2), (22, 8), (23, 0), (24, 64)].foldl (fun k e => k.setG e.1 e.2) k) with
      tlb := [treePage], ctop := ctop, sp := sp, v := k.v.set 3 (someLanes 3) }) with
    mem := m.foldl (fun m e => m.writeWord e.1 e.2) [] }
theorem reaches_of (s : State) (va : Word) (h : Nat) (e : TlbEntry)
    (x : wellFormedAddress va ∧ bits va 55 48 < 0xFD ∧ va.toNat % 8 = 0 ∧
      (((h < 2 ^ 40 ∧ s.stackReady (h / 2 ^ 36) = true ∨ 2 ^ 52 ≤ h) ∧ h / 8 * 8 ∉ s.eccBad) ∧
        (if h < 2 ^ 40 then h / 2 ^ 36 / 2 else (h - 2 ^ 52) / 2 ^ 19 / 144) = s.cur / 144) ∧
      h % 8 = 0 ∧ mapped s va e ∧ e.leaf.getLsbD 2 = true ∧ e.leaf.getLsbD 3 = true ∧
      bits e.leaf 51 12 * 2 ^ 12 + va.toNat % 2 ^ pageBits e.level = h) : reachesWord s va h :=
  ⟨x.1, x.2.1, x.2.2.1, x.2.2.2.1, x.2.2.2.2.1, e, x.2.2.2.2.2⟩
theorem arena_of (s : State) (pa n : Nat) (e : TlbEntry) (h1 : (s.arena s.cur).2 = 8 * n ∧ n ≠ 0) (h2 : s.mem.wf = true ∧ s.eccOne = [])
    (h3 : ∀ i < n, wellFormedAddress (s.arenaVa s.cur (8 * i)) ∧ bits (s.arenaVa s.cur (8 * i)) 55 48 < 0xFD ∧
      (s.arenaVa s.cur (8 * i)).toNat % 8 = 0 ∧
      (((pa + 8 * i < 2 ^ 40 ∧ s.stackReady ((pa + 8 * i) / 2 ^ 36) = true ∨ 2 ^ 52 ≤ pa + 8 * i) ∧ (pa + 8 * i) / 8 * 8 ∉ s.eccBad) ∧
        (if pa + 8 * i < 2 ^ 40 then (pa + 8 * i) / 2 ^ 36 / 2 else (pa + 8 * i - 2 ^ 52) / 2 ^ 19 / 144) = s.cur / 144) ∧
      (pa + 8 * i) % 8 = 0 ∧ mapped s (s.arenaVa s.cur (8 * i)) e ∧ e.leaf.getLsbD 2 = true ∧ e.leaf.getLsbD 3 = true ∧
      bits e.leaf 51 12 * 2 ^ 12 + (s.arenaVa s.cur (8 * i)).toNat % 2 ^ pageBits e.level = pa + 8 * i) : ArenaOk s pa (8 * n) where
  extent := ⟨h1.1, by have := h1.2; omega⟩
  words := fun off hlt h8 => by
    have e1 : off = 8 * (off / 8) := by omega
    rw [e1]
    exact reaches_of _ _ _ e (h3 (off / 8) (by omega))
  plain := h2
/-- The table of alternatives, and a record in the arena whose second alternative is untried; behind it one trailed word. -/
def table : List (Nat × Word) := [(0x200800, 0x3000), (0x200808, 0x3004)]
def record (next mark : Nat) : List (Nat × Word) :=
  table ++ [(0x200040 + 8, 0x200800), (0x200040 + 16, BitVec.ofNat 64 (next * 2 ^ 16 + 2)), (0x200040 + 24, BitVec.ofNat 64 mark), (0x200040 + 32, 8),
    (0x200040 + 64, 0x77), (0x200040 + 576, 0x1122334455667788)]
theorem witness_TryAndFail :
    let s := searchState 0 1024 table
    searches s ∧ allRegisters s.me ∧ ArenaOk s 0x200000 (8 * 128) ∧ reachesWord s (s.me.gr 20) 0x200800 ∧ bits (s.me.gr (regUp 20 1)) 15 0 = 2 ∧
    (s.mem.readWord 0x200800).toNat % 4 = 0 ∧ 64 + bits (arenaWord s 0x200000 0) 32 6 * 64 + (576 + 128 * savedBelow (s.me.gr 22) 64) ≤ s.me.sp :=
  by refine ⟨?_, ?_, arena_of _ _ 128 treePage ?_ ?_ ?_, reaches_of _ _ _ treePage ?_, ?_, ?_, ?_⟩ <;> decide +kernel
theorem witness_TryAndFail_overflow :
    let s := searchState 0 512 table
    s.me.sp < 64 + bits (arenaWord s 0x200000 0) 32 6 * 64 + (576 + 128 * savedBelow (s.me.gr 22) 64) ∧
    bits (s.me.gr (regUp 13 0)) 15 0 = 0 := by decide +kernel
theorem witness_TryAndFail_back :
    let s := searchState 64 1008 (record 1 1024 ++ [(0x200000 + 1008, 0x1000000000200900), (0x200000 + 1016, 0x55)])
    searches s ∧ allRegisters s.me ∧ ArenaOk s 0x200000 (8 * 128) ∧ 64 + 576 + 128 * savedBelow (arenaWord s 0x200000 (64 + 32)) 64 ≤ s.me.sp ∧
    bits (arenaWord s 0x200000 (64 + 16)) 31 16 < bits (arenaWord s 0x200000 (64 + 16)) 15 0 ∧
    reachesWord s (BitVec.ofNat 64 (bits (arenaWord s 0x200000 (64 + 8)) 55 0 + 8 * 1)) 0x200808 ∧
    bits (arenaWord s 0x200000 (64 + 24)) 32 0 = s.me.sp + 16 ∧ bits (arenaWord s 0x200000 s.me.sp) 63 60 = 1 ∧
    reachesWord s (BitVec.ofNat 64 (bits (arenaWord s 0x200000 s.me.sp) 55 0)) 0x200900 := by
  refine ⟨?_, ?_, arena_of _ _ 128 treePage ?_ ?_ ?_, ?_, ?_, reaches_of _ _ _ treePage ?_, ?_, ?_, reaches_of _ _ _ treePage ?_⟩ <;>
    decide +kernel
theorem witness_TryAndFail_last :
    let s := searchState 0 1000 [(0x200008, 0x4000)]
    s.me.ctop = 0 ∧ (arenaWord s 0x200000 8).toNat % 4 = 0 ∧ bits (arenaWord s 0x200000 8) 55 0 ≠ 0 ∧ (scalarState.arena 0).2 = 0 := by decide +kernel
theorem witness_ChoicePointInstructions :
    let s := searchState 64 1008 (record 1 1008)
    searches s ∧ s.me.gIsFull 13 = true ∧ (s.me.gr 13).toNat < s.me.ctop ∧ s.me.ctop ≤ (s.me.gr 24).toNat ∧
    (arenaWord s 0x200000 (s.me.ctop + 16)).getLsbD 32 = false ∧ bits (arenaWord s 0x200000 s.me.ctop) 32 0 ≤ (s.me.gr 13).toNat := by decide +kernel
/-- A stolen record with a prune word, and a CUT that has one more increment to send. -/
theorem witness_ChoicePointInstructions_stolen :
    let s := searchState 64 1008 (record 1 1008 ++ [(0x200040 + 16, 0x100010002), (0x200040 + 40, 0x203000)])
    searches s ∧ ArenaOk s 0x200000 (8 * 128) ∧ (s.me.gr 13).toNat < s.me.ctop ∧ (arenaWord s 0x200000 (s.me.ctop + 16)).getLsbD 32 = true ∧
    bits (arenaWord s 0x200000 s.me.ctop) 32 0 ≤ (s.me.gr 13).toNat ∧ bits (arenaWord s 0x200000 (s.me.ctop + 40)) 55 0 = 0x203000 ∧
    reachesWord s 0x203000 0x203000 := by
  refine ⟨?_, arena_of _ _ 128 treePage ?_ ?_ ?_, ?_, ?_, ?_, ?_, reaches_of _ _ _ treePage ?_⟩ <;> decide +kernel
theorem witness_ChoicePointInstructions_cutting :
    let s := (searchState 0 1008 []).modMe fun k => { k with midway := some (.cut [⟨0x203000, 0x203000, false⟩]) }
    s.me.midway = some (.cut [⟨0x203000, 0x203000, false⟩]) ∧ s.me.gIsFull 13 = true ∧ (∀ q ∈ s.net, q.src ≠ s.cur) := by decide +kernel
theorem witness_ChoicePointInstructions_claim :
    let s := searchState 0 1024 []
    s.target (s.me.gr 20) 8 .rw = (.at 0x200800 false, s) ∧ s.target (s.me.gr 20) 8 .write = (.at 0x200800 false, s) ∧ s.me.usc ≠ 1023 ∧ unheld s ∧
    (arenaWord s 0x200000 40).getLsbD 0 = false := by
  unfold unheld; decide +kernel
theorem witness_ChoicePointInstructions_frame : frameState.me.inFrame = true ∧ frameState.me.holdFence = [] := by decide +kernel

/-- Core 12's arena at 0x200800: a data area of 64 bytes, one trailed word of it, and behind it a record whose second alternative is
untried, with g1 and v3 saved and a prune word; core 0, whose launch it shares, steals from it. -/
def theftRecord : List (Nat × Word) :=
  [(0x202008, 0x3004), (0x203000, 0x99), (0x200800, 64), (0x200850, 0xAA), (0x200880 + 8, 0x202000), (0x200880 + 16, 0x10002),
    (0x200880 + 24, 1024), (0x200880 + 32, 8), (0x200880 + 40, 0x203000), (0x200880 + 64, 0x77), (0x200880 + 576, 0x1122334455667788),
    (0x200800 + 1008, 0x1000000000200848), (0x200800 + 1016, 0x55)]
def theftState : State :=
  let s := gleaning (waiting (some (12, .alternative)) false false) 0 []
  { (s.modCore 0 fun k => { k with tlb := [treePage] }).modCore 12 (fun k => { k with tlb := [treePage], ctop := 128, sp := 1008 }) with
    mem := theftRecord.foldl (fun m e => m.writeWord e.1 e.2) [] }
theorem arenaAt_of (s : State) (c v pa n : Nat) (e : TlbEntry) (h1 : (s.arena v).2 = 8 * n ∧ n ≠ 0)
    (h2 : pteRd e.leaf = true ∧ pteWr e.leaf = true)
    (h : ∀ i < n, (((pa + 8 * i < 2 ^ 40 ∧ s.stackReady ((pa + 8 * i) / 2 ^ 36) = true ∨ 2 ^ 52 ≤ pa + 8 * i) ∧ (pa + 8 * i) / 8 * 8 ∉ s.eccBad) ∧
        (if pa + 8 * i < 2 ^ 40 then (pa + 8 * i) / 2 ^ 36 / 2 else (pa + 8 * i - 2 ^ 52) / 2 ^ 19 / 144) = c / 144) ∧
      (pa + 8 * i) % 8 = 0 ∧ (s.arenaVa v (8 * i)).toNat % 8 = 0 ∧ addrForm (s.arenaVa v (8 * i)) = true ∧
      isWindow (s.arenaVa v (8 * i)) = false ∧ findTlb (s.core v).tlb (s.asnOf v) (s.arenaVa v (8 * i)) = some e ∧
      findTlb (s.core c).tlb (s.asnOf c) (s.arenaVa v (8 * i)) = some e ∧
      e.phys (s.arenaVa v (8 * i)) = pa + 8 * i) : ArenaAt s c v pa (8 * n) where
  extent := ⟨h1.1, by have := h1.2; omega⟩
  mapped := fun off hlt h8 => by
    have e1 : off = 8 * (off / 8) := by omega
    rw [e1]
    obtain ⟨x1, x2, x3, x4, x5, x6, x7, x8⟩ := h (off / 8) (by omega)
    refine ⟨x1, x2, x3, ⟨pteAttr e.leaf = 1, ?_⟩, fun a ha => ⟨pteAttr e.leaf = 1, ?_⟩⟩
    · simp [State.translateNow, State.lookup, trOf, x4, x5, x6, x8, Access.allowed, h2]
    have allowed : a.allowed e.leaf = true := by cases a <;> simp [Access.allowed, h2] at ha ⊢
    simp [State.translateFor, State.translateReq, State.lookup, trOf, x4, x5, x7, x8, allowed]
theorem theftArena (c pa : Nat) (h : (c, pa) ∈ [(0, 0x200000), (12, 0x200800)]) : ArenaAt theftState 0 c pa (8 * 128) := by
  simp only [List.mem_cons, List.not_mem_nil, or_false, Prod.mk.injEq] at h
  obtain ⟨rfl, rfl⟩ | ⟨rfl, rfl⟩ := h <;>
    exact arenaAt_of _ _ _ _ 128 treePage (by decide +kernel) (by decide +kernel) (by decide +kernel)
theorem witness_AlternativesAreStolen :
    (theftState.core 0).glean = some (waiting (some (12, .alternative)) false false) ∧ (theftState.core 0).run = .running ∧
    (theftState.core 12).run = .running ∧ (theftState.core 0).ctop = 0 ∧ (theftState.core 12).gidx.toNat / 16 = 0 ∧
    (∀ x : Reg, ((theftState.core 0).gIsFull x = true ∨ x = 4 ∨ x = regUp 4 1) ∧ (theftState.core 0).vIsFull x = true) ∧
    bits (arenaWord theftState 0x200800 0) 32 6 * 64 = 64 ∧ (theftState.core 12).sp % 8 = 0 ∧
    (theftState.core 0).gfull &&& (3#64 <<< 4) = 0 ∧ bits (arenaWord theftState 0x200800 (128 + 24)) 32 0 ≤ 1024 := by decide +kernel
theorem witness_AlternativesAreStolen_record : Oldest theftState 12 0x200800 (8 * 128) 128 ∧ Still theftState 0 12 ∧ AtRest (theftState.core 12) := by
  refine ⟨⟨⟨[], [], ⟨rfl, by decide +kernel, by unfold records; decide +kernel⟩, by decide, by decide, fun _ h => (by cases h)⟩,
    by decide +kernel, by decide +kernel⟩, ⟨fun _ h => (by cases h), by decide +kernel⟩, ⟨by decide +kernel, by decide +kernel⟩⟩
theorem witness_AlternativesAreStolen_words :
    theftState.translateFor 0 12 (BitVec.ofNat 64 (bits (arenaWord theftState 0x200800 136) 55 0 +
      8 * bits (arenaWord theftState 0x200800 144) 31 16)) .read = (.ok 0x202008 false, theftState) ∧
    bits (arenaWord theftState 0x200800 168) 55 0 = 0x203000 ∧ 0x203000 / 2 ^ 48 < 0xFD ∧
    theftState.translateFor 0 12 0x203000 .rw = (.ok 0x203000 false, theftState) ∧
    Claims.names theftState 0x200800 1008 (theftState.arena 12).1 0 1 := by decide +kernel

/-! ### The network and the Rhizome -/

/-- Two packets of core 0 in given stages; the first is to HBM4E of frond 0. -/
def onTheWay (a b : Stage) : State :=
  withNet accessState [pkt (.st false) [⟨0x40000, 0xFF, 1⟩] a false true, { pkt (.st false) [⟨0x80000, 0xFF, 2⟩] b false true with id := 6 }]
/-- No earlier packet keeps packet 5; packet 5 keeps packet 6, a read of its word. -/
theorem witness_PacketsMoveAndMerge :
    let s := onTheWay .ni .ni
    let p := pkt (.st false) [⟨0x40000, 0xFF, 1⟩] .ni false true
    s.packet? 5 = some p ∧ p.words.length ≤ 64 ∧ (∀ x ∈ s.net, ¬ (x.src = p.src ∧ x.id < p.id)) ∧
    (∀ x ∈ s.net, x.src = p.src → x.stage = .held ∨ x.stage = .ni ∨ x.own = true) := by decide +kernel
theorem witness_PacketsMoveAndMerge_behind :
    let x := pkt (.st false) [⟨0x40000, 0xFF, 1⟩] .torus false true
    let p := { pkt (.ld 3 8 false 0) [⟨0x40000, 0, 0⟩] .ni true false with id := 6, since := 6 }
    let y := { x with id := 6, since := 6 }
    (withNet accessState [x, p]).packet? 6 = some p ∧ x.src = p.src ∧ x.id < p.id ∧ Behind p x ∧
    Behind { p with cross := true } { x with inUsc := true } ∧ Behind y { p with id := 5, since := 5 } ∧
    Behind { p with cross := true } { p with id := 5 } ∧ Behind { p with device := true } { x with device := true } ∧
    Behind y { x with cross := true } ∧ Behind p { x with cross := true, parts := [] } ∧
    Behind { y with own := true } { x with own := true } ∧ p.own = false ∧ ∀ d z b o, y.op ≠ .ld d z b o := by
  refine ⟨by decide, by decide, by decide, .word (by decide) rfl, .acked rfl (.inl rfl), .read (.inl rfl) (by decide), .reads ⟨rfl, rfl⟩ (.inl rfl),
    .device ⟨rfl, rfl⟩, .written (.inl rfl) (by decide), .notice (.inl rfl) ⟨rfl, trivial, rfl, rfl⟩,
    .own (by decide) rfl (by decide) ⟨id, fun h => h.1⟩, rfl, fun _ _ _ _ h => (by cases h)⟩
/-- An LD whose four bytes a store holds that waits before it. -/
theorem witness_PacketsMoveAndMerge_served :
    let y := pkt (.st false) [⟨0x40000, 0xFFFFFFFFFF, 1⟩] .held false true
    let p := { pkt (.ld 3 4 false 1) [⟨0x40001, 0, 0⟩] .ni true false with id := 6, since := 6 }
    let s := withNet accessState [y, p]
    s.packet? 6 = some p ∧ p.got = [] ∧ p.own = false ∧ p.device = false ∧ y ∈ s.net ∧ y.got = [] ∧ 0x40000 / 8 = 0x40001 / 8 ∧ Behind p y ∧
    (∀ x ∈ s.net, x.id < p.id → x = y) ∧ ∀ i < 40, 8 ≤ i → (0xFFFFFFFFFF : Word).getLsbD i = true := by
  refine ⟨by decide +kernel, rfl, rfl, rfl, .head _, rfl, rfl, .word (by decide) rfl, by decide +kernel, by decide⟩
theorem witness_PacketsMoveAndMerge_stages :
    (∀ a ∈ [Stage.held, .ni, .evicted, .nacked], ((onTheWay a .torus).packet? 5).map (·.stage) = some a) ∧
    (∀ x ∈ (onTheWay .held .torus).net, ¬ x.id < 5) ∧
    (∃ x ∈ (withNet accessState [{ pkt (.ld 3 8 false 0) [⟨0x80000, 0, 0⟩] .torus true false with id := 4 }]).net, x.id < 5 ∧ x.rd = true ∧
      x.unperformed = true) := by decide +kernel
/-- A port that holds two requests of class 1 behind one of class 0, while a reply needs a slot. -/
def portState : State :=
  withNet accessState [pkt (.st false) [⟨0x40000, 0xFF, 1⟩] .torus false true, { copyWrite 0x01000007 .torus with id := 6, own := false },
    { pkt (.st false) [⟨0x80000, 0xFF, 2⟩] .torus false true with id := 8 },
    { pkt (.st false) [] .reply false true with id := 9 }]
theorem witness_PacketsMoveAndMerge_port : InPort portState [5, 6, 8] (portState.net.take 3) ∧ needsSlot portState (.packet 9) ∧
    mayGo 0 { copyWrite 0x01000007 .torus with id := 6, own := false } := by
  refine ⟨⟨by decide +kernel, by decide +kernel, by decide +kernel⟩, ⟨{ pkt (.st false) [] .reply false true with id := 9 }, ?_, ?_, ?_⟩, ?_, ?_, ?_⟩
  · decide +kernel
  · decide
  · decide
  · decide
  · decide
  · exact ⟨fun _ => .inr (.inr ⟨_, _, _, _, _, rfl⟩), fun _ => rfl⟩
theorem witness_PacketsMoveAndMerge_newest :
    let q := { pkt (.st false) [⟨0x80000, 0xFF, 2⟩] .torus false true with id := 8 }
    InPort portState [8] [q] ∧ mayGo 1 q ∧ ¬ mayGo 0 q ∧ ¬ mayGo 1 { q with evictions := 4 } := by
  have no : ¬ ((∃ k ds, PktOp.st false = .copy k ds) ∨ (∃ e i t ws, PktOp.st false = .engRead e i t ws) ∨
      ∃ e i n t ws, PktOp.st false = .engWrite e i n t ws) := by
    rintro (⟨_, _, h⟩ | ⟨_, _, _, _, h⟩ | ⟨_, _, _, _, _, h⟩) <;> cases h
  refine ⟨⟨by decide +kernel, by decide, by decide⟩, ⟨by decide, by decide, fun h => (by cases h), fun h => absurd h no⟩,
    fun h => no (h.2.2.1 rfl), fun h => absurd h.2.1 (by decide)⟩
theorem witness_PacketsMoveAndMerge_evictors :
    (∃ l ∈ (groupState barGroup level).launches, l.state ≠ .preempting) ∧
    needsSlot (groupState { barGroup with queue := [⟨0, .arrive⟩] } level) (.channel 3 4) ∧ needsSlot accessState .management ∧
    ¬ needsSlot accessState (.packet 9) := by
  refine ⟨by decide +kernel, ⟨groupLaunch { barGroup with queue := [⟨0, .arrive⟩] }, { barGroup with queue := [⟨0, .arrive⟩] }, rfl, .head _, by decide⟩,
    trivial, ?_⟩
  rintro ⟨p, h, _⟩; cases h
def twoAtoms : State := withNet accessState [atomAt 0 0x40000 1 0, { atomAt 0 0x40000 2 0 with id := 6, src := 1 }]
theorem witness_PacketsMoveAndMerge_atoms :
    twoAtoms.packet? 5 = some (atomAt 0 0x40000 1 0) ∧ twoAtoms.packet? 6 = some { atomAt 0 0x40000 2 0 with id := 6, src := 1 } := by decide +kernel

/-- A write of core 0 to HBM4E of frond 1. -/
def crossing (op : PktOp) (st : Stage) (x : Option Stamp) : Packet :=
  { pkt op [⟨0x2000040000, 0xFF, 7⟩] st false true with dest := 1, cross := true, inUsc := true, stamp := x }
def stampOf (own : BitVec 16) (dep : BitVec 10) : Stamp := ⟨true, 0, own, [0, dep, 0, 0, 0, 0, 0], []⟩
def rhizome (p : Packet) : State := withNet accessState [p]
def crossCopy : Packet := crossing (.copy 2 [⟨0, 0x01000007, (tileEntry 3 2 .fp32 0x640).tile 144, [0], [⟨0x2000040000, 0xFF, 7⟩]⟩]) .torus none
theorem witness_RhizomeKeepsCausalOrder :
    let p := crossing (.st false) .torus none
    (rhizome p).packet? 5 = some p ∧ p.dest < 8 ∧ p.src / 144 < 8 ∧ (rhizome p).rebasing = false ∧ (rhizome p).retired = [] ∧
    ((rhizome p).count 0 1 0 + 1 - mapGet 0 (rhizome p).acked 1).toNat ≤ 512 ∧ (rhizome crossCopy).packet? 5 = some crossCopy ∧
    mapGet 0 (rhizome p).acked 1 = (rhizome p).count 0 1 0 ∧
    512 < (({ (rhizome p) with counts := mapSet [] 8 512 } : State).count 0 1 0 + 1 - mapGet 0 (rhizome p).acked 1).toNat := by decide +kernel
theorem witness_RhizomeKeepsCausalOrder_kinds :
    isCounted (crossing (.st false) .torus none) ∧ isCounted crossCopy ∧ ¬ isCounted (crossing (.ld 3 8 false 0) .torus none) :=
  ⟨trivial, trivial, id⟩
theorem witness_RhizomeKeepsCausalOrder_apply :
    let x := stampOf 1 0
    let p := crossing (.st false) .stamped (some x)
    let s := rhizome p
    s.packet? 5 = some p ∧ x.cnt = true ∧ s.applicable 1 x = true ∧ s.appliesFirst p x = true ∧ plainHome s 0x2000040000 ∧ s.mem.wf = true ∧
    (∀ e ∈ x.mat, e.1 < 64) := by
  unfold plainHome; decide +kernel
/-- A packet whose OWN is two ahead; 24 of its source's in the early buffer, with 63 or 64 shared slots taken. -/
def earlyPackets (n m : Nat) : List Packet :=
  (List.range n).map (fun i => { crossing (.st false) .early (some (stampOf 3 0)) with id := 100 + i }) ++
  (List.range m).map fun i => { crossing (.st false) .early (some (stampOf 3 0)) with id := 200 + i, shared := true }
theorem witness_RhizomeKeepsCausalOrder_early :
    let x := stampOf 2 0
    let p := crossing (.st false) .stamped (some x)
    let s := fun n m => withNet accessState (p :: earlyPackets n m)
    (s 0 0).applicable 1 x = false ∧ ((s 23 64).buffered 1).countP (fun q => q.stampSrc = 0 ∧ q.shared = false) < 24 ∧
    24 ≤ ((s 24 63).buffered 1).countP (fun q => q.stampSrc = 0 ∧ q.shared = false) ∧
    ((s 24 63).buffered 1).countP (fun q => q.shared = true) < 64 ∧ 64 ≤ ((s 24 64).buffered 1).countP (fun q => q.shared = true) ∧
    ({ x with cnt := false } : Stamp).cnt = false ∧ (s 24 64).packet? 5 = some p := by decide +kernel
/-- The full buffer of the source holds packets with a larger OWN, one of which has the largest; and none. -/
theorem witness_RhizomeKeepsCausalOrder_displaced :
    let x := stampOf 2 0
    let q := { crossing (.st false) .early (some (stampOf 4 0)) with id := 300, shared := true }
    let s := withNet accessState (crossing (.st false) .stamped (some x) :: earlyPackets 24 63 ++ [q])
    x.cnt = true ∧ q ∈ s.buffered 1 ∧ q.stampSrc = x.src ∧ q.stampOwn ≠ x.own ∧ 0 ≤ (q.stampOwn - x.own).toInt ∧
    64 ≤ (s.buffered 1).countP (fun q => q.shared = true) ∧ (∀ q ∈ s.buffered 1, (q.stampOwn - 0).toNat < 2 ^ 15) ∧
    ∀ q ∈ s.buffered 1, ¬ 0 ≤ (q.stampOwn - (stampOf 9 0).own).toInt ∧ q.stampCnt = true := by decide +kernel
theorem witness_RhizomeKeepsCausalOrder_landing :
    let x := stampOf 1 0
    let p := { crossCopy with stage := .stamped, stamp := some x }
    (rhizome p).packet? 5 = some p ∧ (rhizome p).applicable 1 x = true ∧ (rhizome p).appliesFirst p x = true ∧
    (∀ q ∈ (rhizome p).net, q.stage ≠ .landing) := by decide +kernel

/-- A port of the package ready, with some bytes of memory. -/
def svlState : State := { atWork [] with mem := Memory.writeWord [] 0x40000 0x1122334455667788 }
theorem inboundOk (len : Nat) (h : len % 8 = 0 ∧ 8 ≤ len ∧ len ≤ 256) : InboundOk svlState 0x40000 len where
  size := h
  place := by rw [show (0x40000 + len - 1) / 4096 = 0x40000 / 4096 by omega]; decide +kernel
  words := fun _ h => (by cases h)
theorem witness_SvlPortsServe :
    svlState.portReady 20 = true ∧ svlState.mem.wf = true ∧ InboundOk svlState 0x40000 16 ∧ InboundOk svlState 0x40000 8 ∧
    svlState.net = [] ∧ svlState.hostPending = [] :=
  ⟨by decide +kernel, by decide +kernel, inboundOk 16 (by decide), inboundOk 8 (by decide), rfl, rfl⟩
/-- A write that a host has accepted at port 20; a window to port 20, and a core's write on its way there. -/
def hostWritten : State := { svlState with hostPending := [⟨20, 0x40000, 0xFF, 0x12⟩] }
def towardHost : State :=
  { withNet svlState [{ pkt (.st false) [⟨2 ^ 51, 0xFF, 1⟩] .torus false true with inUsc := true }] with
    svlMap := mapSet [] 0 (2 ^ 63 + 20 * 2 ^ 44) }
theorem witness_SvlPortsServe_confirm :
    hostWritten.hostPending = [⟨20, 0x40000, 0xFF, 0x12⟩] ∧ hostWritten.mem.wf = true ∧ isWrite (pkt (.st false) [] .torus false true) ∧
    (∃ q ∈ towardHost.net, q.src = 0 ∧ q.unperformed = true ∧ ∃ w ∈ q.parts, w.addr = 2 ^ 51) ∧
    ∃ r, towardHost.homeKind (2 ^ 51) = .svl r ∧ r.port = 20 :=
  ⟨rfl, by decide +kernel, .inl rfl, by decide +kernel, ⟨_, rfl, by decide⟩⟩

/-! ### Translation, boundaries and service -/

/-- A page table at 0x100000: a leaf at `level` for the page of `missed`, or what stands there in its place. -/
def missed : Word := 0x0000808040210008
def tables (level : Nat) (leaf : Word) : Memory :=
  let e := fun n => if n = level then leaf else 0x200001 + BitVec.ofNat 64 (4 - n) * 0x1000
  let at' := fun (n : Nat) (base : Nat) => (base + 8 * indexAt n missed, e n)
  ([at' 4 0x100000, at' 3 0x200000, at' 2 0x201000, at' 1 0x202000, at' 0 0x203000]).foldl (fun m x => m.writeWord x.1 x.2) []
/-- A miss of core 0's scalar path that is walked, one of core 1's fetch that has joined it, and one that waits for a walker. -/
def theMiss : Miss := ⟨0, 1, 5, 0x100000, missed, true⟩
def theMisses : List Miss := [theMiss, ⟨1, 0, 5, 0x100000, missed, true⟩, ⟨12, 1, 5, 0x100000, 0x7000, false⟩]
def missState (m : Memory) : State := { atWork [] with mem := m, walks := [(0, theMisses)] }
theorem plain_of (s : State) (a : Nat) (h : (a < 2 ^ 40 ∧ s.stackReady (a / 2 ^ 36) = true) ∧ a / 8 * 8 ∉ s.eccBad) : plainHome s a :=
  ⟨.inl h.1, h.2⟩
theorem leadsTo_down {s : State} {va leaf : Word} {at' n table : Nat} (h : n + 1 ≠ at')
    (h0 : (table + 8 * indexAt (n + 1) va < 2 ^ 40 ∧ s.stackReady ((table + 8 * indexAt (n + 1) va) / 2 ^ 36) = true) ∧
      (table + 8 * indexAt (n + 1) va) / 8 * 8 ∉ s.eccBad)
    (h1 : let e := s.mem.readWord (table + 8 * indexAt (n + 1) va)
      entryForm e ∧ e.getLsbD 1 = false ∧ bits e 51 12 * 2 ^ 12 < 2 ^ 40)
    (h3 : leadsTo s va at' leaf n (bits (s.mem.readWord (table + 8 * indexAt (n + 1) va)) 51 12 * 2 ^ 12)) :
    leadsTo s va at' leaf (n + 1) table := by
  refine ⟨plain_of _ _ h0, h1.1, ?_⟩
  rw [if_neg h]
  exact ⟨h1.2.1, h1.2.2, h3⟩
theorem leadsTo_leaf {s : State} {va leaf : Word} {n table : Nat}
    (h0 : (table + 8 * indexAt (n + 1) va < 2 ^ 40 ∧ s.stackReady ((table + 8 * indexAt (n + 1) va) / 2 ^ 36) = true) ∧
      (table + 8 * indexAt (n + 1) va) / 8 * 8 ∉ s.eccBad)
    (h1 : let e := s.mem.readWord (table + 8 * indexAt (n + 1) va)
      entryForm e ∧ e = leaf ∧ n + 1 ≤ 2 ∧ e.getLsbD 1 = true ∧ bits e 51 12 * 2 ^ 12 % 2 ^ (if n = 0 then 21 else 30) = 0) :
    leadsTo s va (n + 1) leaf (n + 1) table := by
  refine ⟨plain_of _ _ h0, h1.1, ?_⟩
  rw [if_pos rfl]
  exact h1.2
theorem witness_TranslationsComeAndGo (m : Memory) : Walked (missState m) 0 theMiss theMisses where
  queue := rfl
  found := by decide
  once := by decide
  root := by decide
theorem witness_TranslationsComeAndGo_huge : leadsTo (missState (tables 2 0x40000007)) missed 2 0x40000007 4 0x100000 := by
  refine leadsTo_down ?_ ?_ ?_ (leadsTo_down ?_ ?_ ?_ (leadsTo_leaf ?_ ?_)) <;> decide +kernel
theorem witness_TranslationsComeAndGo_large : leadsTo (missState (tables 1 0x400007)) missed 1 0x400007 4 0x100000 := by
  refine leadsTo_down ?_ ?_ ?_ (leadsTo_down ?_ ?_ ?_ (leadsTo_down ?_ ?_ ?_ (leadsTo_leaf ?_ ?_))) <;> decide +kernel
theorem witness_TranslationsComeAndGo_small : leadsTo (missState (tables 0 0x50007)) missed 0 0x50007 4 0x100000 := by
  refine leadsTo_down ?_ ?_ ?_ (leadsTo_down ?_ ?_ ?_ (leadsTo_down ?_ ?_ ?_ (leadsTo_down ?_ ?_ ?_ ⟨plain_of _ _ ?_, ?_⟩))) <;> decide +kernel
theorem witness_TranslationsComeAndGo_faults :
    (Memory.readWord [] (0x100000 + 8 * bits missed 55 48)).getLsbD 0 = false ∧
    (let top := (tables 4 0x200003).readWord (0x100000 + 8 * bits missed 55 48)
     top.getLsbD 0 = true ∧ top.getLsbD 1 = true) ∧
    (let top := (tables 4 0x200101).readWord (0x100000 + 8 * bits missed 55 48)
     top.getLsbD 0 = true ∧ ¬ entryForm top) ∧
    joins theMiss ⟨1, 0, 5, 0x100000, missed, true⟩ = true ∧ joins theMiss ⟨12, 1, 5, 0x100000, 0x7000, false⟩ = false := by decide +kernel
/-- An invalidation of fronds 0 and 1 for the 2 MiB page of `missed`, and TLBs with pages of three sizes. -/
def invalidation (size : Nat) (ws : List (Nat × Nat)) : Invalidation := ⟨BitVec.ofNat 64 (5 + size * 2 ^ 14 + 3 * 2 ^ 16), missed, ws⟩
def pages : List TlbEntry :=
  [⟨5, 0, 0x80804021, 0x50007⟩, ⟨5, 0, 0x80804022, 0x50007⟩, ⟨5, 1, 0x4040201, 0x400007⟩, ⟨5, 1, 0x4040202, 0x400007⟩, ⟨5, 2, 0x20201, 0x7⟩, ⟨6, 0, 0x80804021, 0x7⟩]
def invalState (size : Nat) (ws : List (Nat × Nat)) : State :=
  { (missState []).modMe fun k => { k with tlb := pages, ends := [(1, missed, .fault)] } with tlbs := [(0, pages), (2, pages)], inval := [invalidation size ws], invalVa := missed }
theorem witness_TranslationsComeAndGo_invalidations :
    bits (0x03C005 : Word) 63 24 = 0 ∧ bits (0x03C005 : Word) 13 12 = 0 ∧ bits (0x1001005 : Word) 63 24 ≠ 0 ∧ bits (0x1001005 : Word) 13 12 ≠ 0 ∧
    (invalState 1 [(0, 1)]).inval = [invalidation 1 [(0, 1)]] ∧ (invalidation 1 [(0, 1)]).walks ≠ [] ∧
    (invalidation 1 []).walks = [] := by decide +kernel

/-- Core 0 with given pending causes and requests. -/
def boundary (ps : List Pending) (halt preempt : Bool) : State :=
  (atWork []).modMe fun k => { k with pending := ps, haltReq := halt, preemptReq := preempt }
theorem witness_BoundariesTakeOneCause :
    let s := boundary [⟨1, 0x12, 7, none, 0⟩] true true
    (s.cur = 0 ∧ plain s.me ∧ s.me.run = .running ∧ s.launchOf s.cur = some launch ∧ launch.state ≠ .ending ∧ s.me.force.root = none ∧
      s.me.pending = [⟨1, Cause.code .rhizomeDiscard, 7, none, 0⟩] ∧ Cause.rhizomeDiscard ≠ .translationFault) ∧
    ∀ d, (s.core d).run ≠ .parked :=
  ⟨by decide +kernel, core_all (p := fun k => k.run ≠ .parked) (by decide +kernel) (by decide +kernel)⟩
/-- A CUT with one increment left. -/
theorem witness_BoundariesTakeOneCause_cut :
    let s := (boundary [⟨1, 0x12, 7, none, 0⟩] false false).modMe fun k => { k with midway := some (.cut [⟨0x203000, 0x203000, false⟩]) }
    s.cur = 0 ∧ plain s.me ∧ s.me.run = .running ∧ s.me.midway = some (.cut [⟨0x203000, 0x203000, false⟩]) := by decide +kernel
theorem witness_BoundariesTakeOneCause_pair :
    (boundary [⟨3, 0x05, 7, none, 0⟩, ⟨1, 0x12, 9, none, 0⟩] false false).me.pending = [⟨3, 0x05, 7, none, 0⟩, ⟨1, 0x12, 9, none, 0⟩] ∧
    (boundary [] false false).me.pending = [] := by decide +kernel
def haltedState : State := (atWork []).modMe fun k => { k with run := .halted, haltReq := true, tval := 2, tpc := 0x1000 }
theorem witness_BoundariesTakeOneCause_halted :
    (haltedState.core 0).run = .halted ∧ (haltedState.core 0).haltReq = true ∧ haltedState.drained 0 = true ∧
    haltedState.launchOf 0 = some launch ∧ (haltedState.core 0).glean = none := by decide +kernel

def parkedState (withdrawn : Bool) : State :=
  (atWork []).modMe fun k => { k with run := .parked, tcause := 8, tval := 0x5008, tpc := 0x1000, withdrawn := withdrawn }
theorem witness_ServiceActsOnACore :
    (parkedState false).launchOf 0 = some launch ∧ ((parkedState false).core 0).run = .parked ∧ ((parkedState false).core 0).withdrawn = false ∧
    ((parkedState false).core 0).headerDue = false ∧ (∀ r ∈ (mapGet FaultRing.reset (parkedState false).rings 0).waiting, r.coord ≠ 0) ∧
    ((parkedState true).core 0).withdrawn = true ∧ ((parkedState false).core 0).launch = some launch.key ∧ launch.state ≠ .ending := by decide +kernel
/-- Core 0 halted, its record posted. -/
theorem witness_ServiceActsOnACore_halted :
    let s := haltedState.modMe fun k => { k with haltReq := false }
    s.launchOf 0 = some launch ∧ (s.core 0).run = .halted ∧ (s.core 0).haltReq = false ∧ s.rings = [] ∧ launch.ctxBase % 8 = 0 ∧
    ∀ i < 66, plainHome s (launch.ctxBase + (s.core 0).ctx * 2 ^ 21 + 0x40 + 8 * i) := by unfold plainHome; decide +kernel
def aRecord : FaultRecord := ⟨9, 0, false, 0, 8, 0x5008, 0x1000⟩
/-- A full ring at count 300, with one record that waits. -/
def fullRing : State :=
  { atWork [] with rings := [(0, { entries := [], count := 300, unread := (List.range 256).map (· + 44), waiting := [aRecord] })] }
theorem witness_ServiceActsOnACore_ring :
    (mapGet FaultRing.reset (atWork []).rings 0).waiting = [] ∧ (mapGet FaultRing.reset fullRing.rings 0).waiting = [aRecord] ∧
    (∀ n ∈ (mapGet FaultRing.reset fullRing.rings 0).unread, n ≠ (44 : Word32).toNat → n % 256 ≠ (mapGet FaultRing.reset fullRing.rings 0).count.toNat % 256) := by
  decide +kernel

/-! ### Launches -/

/-- A queue at ring 0x40000 of two entries, whose first descriptor asks for partition 0 and cores 0 and 1. -/
def oneQueue : WorkQueue := { WorkQueue.reset with ringBase := 0x400, log2n := 1, quantum := 8, partMask := 1 }
def words (a : Nat) (ws : List (Nat × Word)) (m : Memory) : Memory := ws.foldl (fun m e => m.writeWord (a + 8 * e.1) e.2) m
def queueMemory : Memory :=
  words 0x40000 [(0, 0x900000001), (1, 0x80000), (2, 0x100005), (4, 0x1000), (6, 0), (8, 0x40000000), (10, 0x77), (11, 0x5), (12, 0xC0000), (14, 3)]
    (words 0x80000 [(0, 0x100000004), (1, 0x020A03000000 + 0x0A00000000), (9, 0x8000000000001000)] [])
def requestState : State :=
  { State.reset with queues := [(7, oneQueue)], mem := queueMemory, ready := (List.range 8).map fun f => (f, 0xFFFFFFFF) }
theorem witness_DoorbellsDispatch :
    OneRequest requestState 7 oneQueue (requestState.headRequest { oneQueue with tail := 1 }) 0 ∧
    (let w := mapGet WorkQueue.reset requestState.queues 7
     (if w.log2n = 0 ∨ 16 < w.log2n.toNat then 0 else 2 ^ w.log2n.toNat) < ((3 : Word32) - w.head).toNat) :=
  ⟨{ only := by decide +kernel, ring := by decide +kernel, request := ⟨rfl, by decide +kernel⟩, ready := by decide +kernel,
     ungrouped := by decide +kernel, arena := by decide +kernel, deficit := by decide +kernel }, by decide +kernel⟩

/-- The launch with its contexts in a given state. -/
def launchAt (st : LaunchState) (run : RunState) : State :=
  { atWork [] with
    launches := [{ launch with state := st, compl := 0xC0000 }],
    cores := [(0, { coreAtWork 0 [(5, 0x55)] with run := run }), (1, { coreAtWork 1 [] with run := run }), (12, { coreAtWork 2 [] with run := run }),
      (13, { coreAtWork 3 [] with run := run })],
    loft := [(6, { LoftEntry.reset with state := .suspended })], mem := Memory.writeWord [] (bank 0x10) 0x99 }
def theLaunch (st : LaunchState) : Launch := { launch with state := st, compl := 0xC0000 }
theorem apart_of (s : State) (l : Launch)
    (h : (s.launch? l.key = some l ∧ l.cores.Nodup) ∧ (l.ctxBase % 8 = 0 ∧ l.ctxBase + l.cores.length * 2 ^ 21 ≤ 2 ^ 36) ∧
      (s.stackReady 0 = true ∧ s.eccBad = []) ∧
      ∀ i : Fin l.cores.length, l.cores[i] < 1152 ∧ (l.state = .resuming ∨ (s.core l.cores[i]).ctx = i.val ∧ (s.core l.cores[i]).launch = some l.key)) :
    ContextsApart s l where
  listed := h.1
  area := ⟨h.2.1.1, by have := h.2.1.2; omega, fun a _ ha => plain_of _ _ (by
    have : a < 2 ^ 36 := by have := h.2.1.2; omega
    rw [Nat.div_eq_of_lt this, h.2.2.1.2]
    exact ⟨⟨by omega, h.2.2.1.1⟩, fun m => (by cases m)⟩)⟩
  cores := fun i hi => ⟨(h.2.2.2 ⟨i, hi⟩).1, fun hn => (h.2.2.2 ⟨i, hi⟩).2.resolve_left hn⟩
  banks := fun _ _ _ _ => by rw [h.2.2.1.2]; exact fun m => (by cases m)
theorem witness_LaunchesStopAndGoOn :
    let s := launchAt .preempting .preempted
    ContextsApart s (theLaunch .preempting) ∧ nothingWaits s ∧ s.mem.wf = true ∧ (theLaunch .preempting).reloc = false ∧
    (∀ c ∈ (theLaunch .preempting).cores, (s.core c).run = .preempted ∧ s.drained c = true ∧ (s.core c).glean = none) ∧
    (theLaunch .preempting).cores ≠ [] ∧ s.retired = [] ∧ s.wear = [] :=
  ⟨apart_of _ _ (by decide +kernel), by decide +kernel⟩
/-- A launch that is to resume, its contexts as LAUNCH_PARK saved them. -/
def savedLaunch : Launch := { theLaunch .resuming with saved := [(0, coreAtWork 0 []), (1, { coreAtWork 1 [] with run := .ended }), (2, coreAtWork 2 []), (3, coreAtWork 3 [])] }
def resumeState : State := { launchAt .running .idle with launches := [savedLaunch], mem := Memory.writeWord (Memory.writeWord [] (2 ^ 30 + 0x48) 0x1234) (2 ^ 30 + 0x80008) 0x88 }
theorem witness_LaunchesStopAndGoOn_resume :
    ContextsApart resumeState savedLaunch ∧ resumeState.mem.wf = true ∧ savedLaunch.state = .resuming ∧
    (∀ i < savedLaunch.cores.length, ∃ k, savedLaunch.saved.find? (fun e => e.1 = i) = some (i, k)) := by
  refine ⟨apart_of _ _ (by decide +kernel), by decide +kernel, by decide +kernel, ?_⟩
  intro i hi
  match i, hi with
  | 0, _ => exact ⟨_, rfl⟩
  | 1, _ => exact ⟨_, rfl⟩
  | 2, _ => exact ⟨_, rfl⟩
  | 3, _ => exact ⟨_, rfl⟩
theorem witness_LaunchesEnd :
    let s := launchAt .running .ended
    let l := theLaunch .running
    (nothingWaits s ∧ s.mem.wf = true ∧ (∀ c ∈ l.cores, (s.core c).run = .ended ∧ s.drained c = true) ∧ l.status = 0 ∧
      l.note = none ∧ l.compl % 32 = 0 ∧ l.compl < 2 ^ 40 ∧ l.cores ≠ [] ∧
      (∃ c ∈ l.cores, ((launchAt .running .running).core c).run ≠ .ended)) ∧
    ContextsApart s l ∧ ∀ i < 4, plainHome s (l.compl + 8 * i) :=
  ⟨by decide +kernel, apart_of _ _ (by decide +kernel), by unfold plainHome; decide +kernel⟩

/-! ### Management of the package -/

theorem witness_RegistersAndMailboxes :
    State.reset.attest.nonce.length = 4 ∧ (mapGet WorkQueue.reset State.reset.queues 0).head = (mapGet WorkQueue.reset State.reset.queues 0).tail ∧
    (let s : State := { State.reset with queues := [(7, { oneQueue with tail := 1 })] }
     (mapGet WorkQueue.reset s.queues 7).head ≠ (mapGet WorkQueue.reset s.queues 7).tail) ∧
    State.reset.attest.status ≠ 1 ∧
    (let s : State := { State.reset with attest := ⟨[1, 2, 3, 4], [1, 2, 3, 4], 1, []⟩ }
     s.attest.status = 1 ∧ s.attest.signing.length = 4) := by decide +kernel

/-- F0 and F1's controllers ready; frond 2 not. -/
def someReady : State := { State.reset with ready := [(0, 1), (1, 1)] }
/-- A write of core 0 in flight to frond 1, and one of core 144 to frond 0. -/
def flying : State :=
  { atWork [] with net := [crossing (.st false) .torus none, { crossing (.st false) .torus none with id := 6, src := 144, dest := 0 }] }
theorem witness_FunctionsAndFronds :
    (5 : Fin 64).val < 32 ∧ (1 : Frond).val ∉ someReady.retired ∧ (mapGet 0 someReady.ready 1).getLsbD 0 = true ∧
    (mapGet 0 someReady.ready 1).getLsbD 3 = false ∧ (0x20000000 : Word).toNat % 2 ^ 28 = 0 ∧ (0x20000000 : Word).toNat ≤ 2 ^ 44 ∧
    (mapGet 0 State.reset.ready 0).getLsbD 0 = false ∧ (mapGet 0 someReady.ready 2).getLsbD 0 = false ∧
    (flying.net.map (·.id)).Nodup ∧ flying.subst.state ≠ 1 ∧ (∀ p ∈ flying.net, p.stamp = none) ∧
    (∃ p ∈ (rhizome (crossing (.st false) .stamped (some (stampOf 1 0)))).net, p.stamp ≠ none) := by decide +kernel
/-- An image that the fuses accept, and one that they refuse. -/
theorem witness_FunctionsAndFronds_images :
    (let image := mapGet Image.reset someReady.images 2
     image.digest = someReady.fuses.digest ∧ image.signed = true ∧ someReady.fuses.version ≤ image.version) ∧
    ¬ ({ Image.reset with version := 3 } : Image).version ≤ (mapGet Image.reset someReady.images 2).version := by decide
/-- A packet that comes to the port toward a frond that has retired. -/
theorem witness_FunctionsAndFronds_late :
    let p := crossing (.st false) .torus none
    let s := { rhizome p with retired := [1] }
    s.packet? 5 = some p ∧ p.stage = .torus ∧ p.cross = true ∧ p.dest ∈ s.retired := by decide

/-- A command word for position (1, 2) of frond 0. -/
def command (target bank op : Nat) : Word := BitVec.ofNat 64 (op * 2 ^ 34 + target * 2 ^ 24 + bank * 2 ^ 15 + 1 * 16 + 2)
def substState (state op target : Nat) : State := { State.reset with subst := ⟨state, 0, command target 9 op⟩ }
theorem witness_SubstitutionAndWear :
    (substState 1 1 150).subst.state = 1 ∧ (substState 0 0 0).subst.state ≠ 1 ∧ bits (command 150 9 1) 7 4 < 12 ∧ bits (command 150 9 1) 3 0 < 12 ∧
    144 ≤ bits (command 144 9 1) 33 24 ∧ bits (command 159 9 1) 33 24 < 160 ∧ 512 ≤ bits (command 512 9 2) 33 24 ∧ bits (command 519 9 2) 33 24 < 520 ∧
    160 ≤ bits (command 160 9 1) 33 24 ∧ bits (command 511 9 2) 33 24 < 512 ∧ 520 ≤ bits (command 520 9 2) 33 24 ∧ 12 ≤ bits (0xC0 : Word) 7 4 ∧
    bits (command 150 9 1) 35 34 = 1 ∧ bits (command 515 9 2) 35 34 = 2 ∧ posOf (command 150 9 1) = 14 ∧
    (1024 * posOf (command 515 9 2) + 515) ∉ State.reset.banks.map (·.1) ∧
    (let s : State := { State.reset with banks := [(1024 * 14 + 515, 9)] }
     (1024 * posOf (command 515 9 2) + 515) ∈ s.banks.map (·.1)) := by decide +kernel
theorem witness_SubstitutionAndWear_held :
    heldNow (atWork []) (posOf (command 150 9 1)) ∧
    ¬ heldNow { atWork [] with launches := [{ launch with state := .parked }] } (posOf (command 150 9 1)) ∧ ¬ heldNow State.reset (posOf (command 150 9 1)) ∧
    ¬ serves State.reset 0 150 ∧ serves { State.reset with defect := [(14, 150)] } 0 150 := by
  refine ⟨⟨launch, by decide, by decide, by decide⟩, ?_, by simp [heldNow, State.reset], ?_, ⟨14, by decide, by decide⟩⟩
  · rintro ⟨l, hl, h, _⟩
    exact h (by rw [List.mem_singleton.1 hl])
  rintro ⟨i, hi, e⟩
  have : (State.reset.defectByte (144 * 0 + i)).toNat = i := by
    simp [State.defectByte, State.reset, mapGet, Nat.mod_eq_of_lt hi]; omega
  omega
/-- Core 14 worn out. -/
def wornState : State := { State.reset with wear := [(14, { Wear.reset with wear := 255 })] }
theorem witness_SubstitutionAndWear_worn :
    wornState.defectByte 14 ≠ 0xFF ∧ (wornState.wearOf (160 * 0 + (wornState.defectByte 14).toNat)).wear = 255 ∧ ¬ heldNow wornState 14 ∧
    wornState.subst.state ≠ 1 ∧ (1279 < 1280 ∧ (1280 : Nat) < 1536 ∧ (1711 : Nat) < 1712) :=
  ⟨by decide, by decide, by simp [heldNow, wornState, State.reset], by decide, by decide⟩

/-! ### Well-formedness: each check refuses an ill-formed term -/

theorem test_wf_branches : Instr.wf (.beq 5 5 0) = false ∧ Instr.wf (.beq 4 5 0) = true ∧ Instr.wf (.bne 4 5 0) = false ∧ Instr.wf (.bne 5 5 0) = false ∧
    Instr.wf (.dcb 0 5 0) = false ∧ Instr.wf (.dcb 5 5 0) = false ∧ Instr.wf (.dcb 5 0 0) = true := by decide
/-- A prefix with one field that is not its default. -/
def maskOnly : Option Pfx := some ⟨1, false, none, 0⟩
def mzOnly : Option Pfx := some ⟨0, true, none, 0⟩
def rmOnly : Option Pfx := some ⟨0, false, some .rne, 0⟩
def q4Only : Option Pfx := some ⟨0, false, none, 1⟩
theorem test_wf_prefix_rounds : Instr.wf (.vmin rmOnly ⟨1, 2, 3, false, false⟩) = false ∧ Instr.wf (.vadd rmOnly ⟨1, 2, 3, false, false⟩) = true ∧
    Instr.wf (.vldtRow rmOnly ⟨1, 2, 3, false, false⟩) = true ∧ Instr.wf (.vwidh rmOnly ⟨1, 2, false⟩) = false := by decide
theorem test_wf_prefix_lanes : Instr.wf (.part maskOnly ⟨1, 2, 3, false, false⟩) = false ∧ Instr.wf (.topk maskOnly ⟨1, 2, 3, false, false⟩) = false ∧
    Instr.wf (.mnot maskOnly 1 2) = false ∧ Instr.wf (.vrsum maskOnly ⟨1, 2, false⟩) = true := by decide
theorem test_wf_prefix_mz : Instr.wf (.vsel mzOnly ⟨1, 2, 3, false, false⟩) = false ∧ Instr.wf (.vrmax mzOnly ⟨1, 2, false⟩) = false ∧
    Instr.wf (.vadd mzOnly ⟨1, 2, 3, false, false⟩) = true := by decide
theorem test_wf_prefix_fourth : Instr.wf (.vadd q4Only ⟨1, 2, 3, false, false⟩) = false ∧ Instr.wf (.vfms q4Only ⟨1, 2, 3, false, false⟩) = true := by decide
theorem test_wf_pairs : Instr.wf (.mma ⟨1, 3, 2, false, false⟩ 0) = false ∧ Instr.wf (.mdrain ⟨1, 3, 2, false, false⟩ 0) = false ∧
    Instr.wf (.talloc ⟨1, 3, 2, false, false⟩) = false ∧ Instr.wf (.rangeInit ⟨1, 3, 2, false, false⟩) = false ∧
    Instr.wf (.sow none ⟨1, 3, 2, false, false⟩) = false ∧ Instr.wf (.acasZ64 ⟨3, 2, .rlx, .core⟩) = false ∧
    Instr.wf (.glean 0) = false ∧ Instr.wf (.glean 3) = false ∧ Instr.wf (.tryAlt 3 2 false false) = false ∧
    Instr.wf (.tryAlt 2 3 false false) = false := by decide
theorem test_wf_groups_of_four : Instr.wf (.cpy ⟨1, 6, 2, false, false⟩ 0) = false ∧ Instr.wf (.tsusp ⟨1, 2, 2, false, false⟩) = false ∧
    Instr.wf (.cpym ⟨1, 5, 2, false, false⟩ 0) = false ∧ Instr.wf (.cpy ⟨1, 8, 2, false, false⟩ 0) = true := by decide
theorem test_wf_queues : Instr.wf (.qfence 0) = false ∧ Instr.wf (.qwait 1 0) = false ∧ Instr.wf (.qfence 1) = true := by decide
theorem test_wf_orders : Instr.wf (.aaddZ64 ⟨1, 2, .acq, .core⟩ true) = false ∧ Instr.wf (.aaddZ64 ⟨1, 2, .ar, .core⟩ true) = false ∧
    Instr.wf (.aaddZ64 ⟨1, 2, .acq, .core⟩ false) = true ∧ Instr.wf (.aldZ32 ⟨1, 2, .rel, .core⟩) = false ∧ Instr.wf (.aldZ64 ⟨1, 2, .ar, .core⟩) = false ∧
    Instr.wf (.astZ64 ⟨1, 2, .acq, .core⟩) = false ∧ Instr.wf (.fence .rlx .core) = false ∧ Instr.wf (.fence .sc .core) = true := by decide

/-! ### Words of R64 and R75 with a prefix, and steps that run them -/

/-- `vfma v4, v8, v12` with fourth operand v16, mask m2, mz and rounding RTZ, as spec chapter 03 writes its words. -/
theorem test_decode_prefixed : decodeTableWord 64 0x40420C04F9520000 = some (.vfma (some ⟨2, true, some .rtz, 16⟩) ⟨4, 8, 12, false, false⟩) := by decide
theorem test_decode_illegal : decodeTableWord 32 0 = none ∧ decodeTableWord 32 0xFFFFFFFF = none ∧ decodeTableWord 32 0x0430427F = none := by decide
/-- `add g3, g1, g2` (keeping g2 full) fetched and issued from reset: the PC moves on by 4. -/
theorem test_step_add : ∃ t, step (State.reset.withFetchWord 32 0x04304240) = .next t ∧ (t.core 0).pc = 4 := ⟨_, rfl, by decide +kernel⟩
/-- A word of zeros is no instruction (R76): ILLEGAL_INSTRUCTION, cause 0x01, with the word in `tval`. -/
theorem test_step_illegal : ∃ t, step (State.reset.withFetchWord 32 0x00000000) = .next t ∧ (t.core 0).tcause = 0x01 ∧ (t.core 0).run = .faulted :=
  ⟨_, rfl, by decide +kernel, by decide +kernel⟩

/-- Core 0 at address 0x1000, whose page its TLB maps to 0x41000, where the words of an instruction stand. -/
def issueState (ws : List Word32) : State :=
  { (atWork [(1, 5), (2, 7)]).modMe fun k => { k with tlb := [⟨5, 0, 0, 0x4001F⟩] } with
    mem := Memory.writeBytes [] 0x41000 (ws.flatMap bytesLE), agenda := [.issue 0] }
theorem witness_StepIssuesTheDecodedInstruction :
    let s := issueState [0x04304240]
    s.agenda = .issue 0 :: [] ∧ Issues s 0 ∧ (s.core 0).pc.toNat % 4 = 0 ∧ decode (bytesLE 0x04304240) = .ok (.add ⟨3, 1, 2, false, true⟩, []) :=
  ⟨rfl, ⟨by decide +kernel, by decide +kernel, ⟨by decide +kernel, by decide +kernel, fun _ h => (by cases h)⟩,
    fun l h => (by cases h; decide +kernel), by decide +kernel⟩, by decide +kernel, rfl⟩
theorem witness_StepIssuesTheDecodedInstruction_bytes :
    ∀ n (h : n < (bytesLE 0x04304240).length), ByteAt (issueState [0x04304240]) 0 ((issueState [0x04304240]).me.pc + BitVec.ofNat 64 n) (bytesLE 0x04304240)[n] := by
  intro n h
  refine ⟨?_, ?_, ⟨5, 0, 0, 0x4001F⟩, ?_⟩ <;>
    · revert n; decide +kernel
theorem witness_StepIssuesTheDecodedInstruction_own :
    let s := { issueState [0x04304240] with agenda := [], beat := 2, cores := [(0, (issueState [0x04304240]).me), (1, Core.reset)] }
    s.agenda = [] ∧ s.beat % 2 = 0 ∧ (∀ e ∈ s.cores, e.2.run = .running → e.1 = 0) ∧ 0 ∈ s.cores.map (·.1) ∧
    (Instr.rebase).isEncoded = false := by decide +kernel
/-- The same core asked to halt, with an instruction that traps at once, and with one that does not. -/
def boundaryState (w : Word32) : State := (issueState [w]).modMe fun k => { k with haltReq := true, preemptReq := true }
theorem witness_BoundariesTakeOneCause_turn :
    let s := boundaryState 0
    s.agenda = .issue 0 :: [] ∧ plain (s.core 0) ∧ (s.core 0).run = .running ∧ (s.core 0).pending = [] ∧
    (s.core 0).force.absorbing = false ∧ (s.core 0).midway = none ∧ (s.core 0).glean = none ∧ s.launchOf 0 = some launch ∧ launch.state ≠ .ending ∧
    resumesAt (s.core 0) = 0x1000 := by decide +kernel
theorem witness_BoundariesTakeOneCause_precise :
    ∃ t, ({ boundaryState 0 with agenda := [] } : State).issueStream exec = .next t ∧ (t.core 0).run = .faulted := ⟨_, rfl, by decide +kernel⟩
theorem witness_BoundariesTakeOneCause_clean :
    ∃ t, ({ boundaryState 0x04304240 with agenda := [] } : State).issueStream exec = .next t ∧ (t.core 0).run = .running :=
  ⟨_, rfl, by decide +kernel⟩
/-- A halt is taken before the pre-emption, at the boundary before the instruction. -/
theorem test_step_halts : ∃ t, step (boundaryState 0x04304240) = .next t ∧ (t.core 0).run = .halted ∧ t.me.pc = 0x1000 ∧ t.me.tcause = 0x11 :=
  ⟨_, rfl, by decide +kernel⟩
theorem test_step_issues : ∃ t, step (issueState [0x04304240]) = .next t ∧ t.me.gr 3 = 12 ∧ t.me.pc = 0x1004 :=
  ⟨_, rfl, by decide +kernel, by decide +kernel⟩
theorem witness_WordsAndInstructionsAgree : Instr.isEncoded (.sow none ⟨1, 4, 2, false, false⟩) = true ∧ Instr.wf (.sow none ⟨1, 4, 2, false, false⟩) = true ∧
    decode (bytesLE 0x3C002001 ++ [7]) = .ok (.endLaunch, [7]) := ⟨rfl, rfl, rfl⟩
theorem witness_StepKeepsMemoryCanonical : Machine.Inv (issueState [0x04304240]) := by unfold Machine.Inv; decide +kernel

end Sys2Proof.Tests
end

/-! # The scalar register instructions

The rules of R179 as equations about words, the effect of an instruction of each scalar shape whose registers are full,
and the statement about the table. -/

namespace Sys2Proof.Machine
open Sys2Proof.Claims

/-! ## Sums, products and shifts, modulo 2^64 -/

theorem add_eq_ofNat (x y : Word) : x + y = BitVec.ofNat 64 (x.toNat + y.toNat) := by
  simp [BitVec.ofNat_add]

theorem sub_eq_ofInt (x y : Word) : x - y = BitVec.ofInt 64 (x.toInt - y.toInt) := by
  rw [Int.sub_eq_add_neg, BitVec.ofInt_add, BitVec.ofInt_neg, BitVec.ofInt_toInt, BitVec.ofInt_toInt,
    BitVec.sub_eq_add_neg]

theorem mul_eq_ofInt (x y : Word) : x * y = BitVec.ofInt 64 (x.toInt * y.toInt) := by
  simp [BitVec.ofInt_mul]

theorem shiftLeft_eq_ofNat_mul (x : Word) (n : Nat) : x <<< n = BitVec.ofNat 64 (x.toNat * 2 ^ n) := by
  apply BitVec.eq_of_toNat_eq
  simp [Nat.shiftLeft_eq]

theorem ushiftRight_eq_ofNat_div (x : Word) (n : Nat) : x >>> n = BitVec.ofNat 64 (x.toNat / 2 ^ n) := by
  have hlt : x.toNat / 2 ^ n < 2 ^ 64 := Nat.lt_of_le_of_lt (Nat.div_le_self ..) x.isLt
  apply BitVec.eq_of_toNat_eq
  rw [BitVec.toNat_ushiftRight, BitVec.toNat_ofNat, Nat.mod_eq_of_lt hlt, Nat.shiftRight_eq_div_pow]

theorem sshiftRight_eq_ofInt_div (x : Word) (n : Nat) : x.sshiftRight n = BitVec.ofInt 64 (x.toInt / 2 ^ n) := by
  simp [BitVec.sshiftRight_eq, Int.shiftRight_eq_div_pow]

/-- Below the width, ROR rotates: its case s = 0 is the one where a shift by 64 would stand. -/
theorem aluRor_eq_rotateRight (x : Word) {n : Nat} (hn : n < 64) : aluRor x n = x.rotateRight n := by
  rw [BitVec.rotateRight_def, Nat.mod_eq_of_lt hn]
  unfold aluRor
  split
  case isTrue h => simp [h]
  case isFalse => rfl

theorem shiftCount_lt (y : Word) : shiftCount y < 64 := Nat.mod_lt _ (by decide)

/-! ## Division -/

theorem toInt_eq_zero_iff (y : Word) : y.toInt = 0 ↔ y = 0 := by simp [← BitVec.toInt_inj]
theorem toNat_eq_zero_iff (y : Word) : y.toNat = 0 ↔ y = 0 := by simp [← BitVec.toNat_inj]

theorem aluDiv_eq (x y : Word) :
    aluDiv x y = if y.toInt = 0 then -1 else BitVec.ofInt 64 (x.toInt.tdiv y.toInt) := by
  simp only [aluDiv, toInt_eq_zero_iff]
  rfl

theorem aluDivu_eq (x y : Word) :
    aluDivu x y = if y.toNat = 0 then BitVec.ofNat 64 (2 ^ 64 - 1) else BitVec.ofNat 64 (x.toNat / y.toNat) := by
  simp only [aluDivu, toNat_eq_zero_iff]
  rfl

theorem aluRem_eq (x y : Word) : aluRem x y = if y.toInt = 0 then x else BitVec.ofInt 64 (x.toInt.tmod y.toInt) := by
  simp only [aluRem, toInt_eq_zero_iff]

theorem aluRemu_eq (x y : Word) : aluRemu x y = if y.toNat = 0 then x else BitVec.ofNat 64 (x.toNat % y.toNat) := by
  simp only [aluRemu, toNat_eq_zero_iff]

/-! ## Comparison, minimum and maximum -/

theorem flag64_slt (x y : Word) : flag64 (x.slt y) = if x.toInt < y.toInt then 1 else 0 := by
  simp only [flag64, BitVec.slt_iff_toInt_lt]

theorem flag64_ult (x y : Word) : flag64 (x.ult y) = if x.toNat < y.toNat then 1 else 0 := by
  simp only [flag64, BitVec.ult_iff_toNat_lt]

theorem flag64_beq (x y : Word) : flag64 (x == y) = if x = y then 1 else 0 := by
  simp only [flag64, beq_iff_eq]

theorem toInt_le_iff (x y : Word) : x.toInt ≤ y.toInt ↔ x.toInt < y.toInt ∨ x = y := by
  rw [← BitVec.toInt_inj]
  omega

theorem toNat_le_iff (x y : Word) : x.toNat ≤ y.toNat ↔ x.toNat < y.toNat ∨ x = y := by
  rw [← BitVec.toNat_inj]
  omega

/-- A minimum or maximum does not depend on which of two equal words it picks. -/
theorem ite_eq_ite_of_iff_or_eq {x y : Word} {p q : Prop} [Decidable p] [Decidable q] (h : q ↔ p ∨ x = y) :
    ((if p then x else y) = if q then x else y) ∧ ((if p then y else x) = if q then y else x) := by
  by_cases hxy : x = y
  · subst hxy
    simp only [ite_self, and_self]
  · have hqp : q ↔ p := by rw [h, or_iff_left hxy]
    simp only [hqp, and_self]

theorem aluMin_eq (x y : Word) : aluMin x y = if x.toInt ≤ y.toInt then x else y := by
  simp only [aluMin, BitVec.slt_iff_toInt_lt, (ite_eq_ite_of_iff_or_eq (toInt_le_iff x y)).1]

theorem aluMax_eq (x y : Word) : aluMax x y = if x.toInt ≤ y.toInt then y else x := by
  simp only [aluMax, BitVec.slt_iff_toInt_lt, (ite_eq_ite_of_iff_or_eq (toInt_le_iff x y)).2]

theorem aluMinu_eq (x y : Word) : aluMinu x y = if x.toNat ≤ y.toNat then x else y := by
  simp only [aluMinu, BitVec.ult_iff_toNat_lt, (ite_eq_ite_of_iff_or_eq (toNat_le_iff x y)).1]

theorem aluMaxu_eq (x y : Word) : aluMaxu x y = if x.toNat ≤ y.toNat then y else x := by
  simp only [aluMaxu, BitVec.ult_iff_toNat_lt, (ite_eq_ite_of_iff_or_eq (toNat_le_iff x y)).2]

/-! ## The counts of bits -/

/-- With its `n` leading bits 0, a word is below 2^(64 − n). -/
theorem toNat_lt_of_leading_zeros {x : Word} {n : Nat} (h : ∀ i < n, x.getMsbD i = false) : x.toNat < 2 ^ (64 - n) := by
  apply Nat.lt_pow_two_of_testBit
  intro i hi
  change x.getLsbD i = false
  by_cases h64 : i < 64
  · have hm := h (63 - i) (by omega)
    rw [BitVec.getMsbD_eq_getLsbD] at hm
    simpa [show 63 - i < 64 by omega, show 63 - (63 - i) = i by omega] using hm
  · exact BitVec.getLsbD_of_ge x i (by omega)

/-- With leading bit `n` 1, a word is at least 2^(63 − n). -/
theorem le_toNat_of_getMsbD {x : Word} {n : Nat} (h : x.getMsbD n = true) : 2 ^ (63 - n) ≤ x.toNat := by
  have hl : x.getLsbD (63 - n) = true := by
    simpa [BitVec.getMsbD_eq_getLsbD, BitVec.lt_of_getMsbD h] using h
  exact Nat.ge_two_pow_of_testBit hl

theorem aluClz_eq {x : Word} {n : Nat} (hn : n ≤ 64) (h0 : ∀ i < n, x.getMsbD i = false)
    (h1 : n < 64 → x.getMsbD n = true) : aluClz x = BitVec.ofNat 64 n := by
  have hlt := toNat_lt_of_leading_zeros h0
  unfold aluClz
  congr 1
  rcases Nat.lt_or_eq_of_le hn with hn | rfl
  · have hle := le_toNat_of_getMsbD (h1 hn)
    have hpos : x.toNat ≠ 0 := Nat.ne_of_gt (Nat.lt_of_lt_of_le (Nat.two_pow_pos _) hle)
    have hlog : x.toNat.log2 = 63 - n :=
      (Nat.log2_eq_iff hpos).2 ⟨hle, by rwa [show 63 - n + 1 = 64 - n by omega]⟩
    rw [if_neg (mt (toNat_eq_zero_iff x).2 hpos), hlog]
    omega
  · rw [if_pos ((toNat_eq_zero_iff x).1 (by omega))]

theorem aluCtz_eq {x : Word} {n : Nat} (hn : n ≤ 64) (h0 : ∀ i < n, x.getLsbD i = false)
    (h1 : n < 64 → x.getLsbD n = true) : aluCtz x = BitVec.ofNat 64 n := by
  unfold aluCtz
  rcases Nat.lt_or_eq_of_le hn with hn | rfl
  · have hf : ((List.range 64).find? fun i => x.getLsbD i) = some n :=
      List.find?_range_eq_some.2 ⟨h1 hn, List.mem_range.2 hn, fun i hi => by simp [h0 i hi]⟩
    rw [hf, Option.getD_some]
  · have hf : ((List.range 64).find? fun i => x.getLsbD i) = none :=
      List.find?_range_eq_none.2 fun i hi => by simp [h0 i hi]
    rw [hf, Option.getD_none]

theorem countP_eq_sum_map_toNat {α : Type} (p : α → Bool) (l : List α) : l.countP p = (l.map fun a => (p a).toNat).sum := by
  induction l with
  | nil => rfl
  | cons a l ih => cases h : p a <;> simp [h, ih, Nat.add_comm]

theorem aluPopc_eq (x : Word) :
    aluPopc x = BitVec.ofNat 64 ((List.range 64).map fun i => (x.getLsbD i).toNat).sum := by
  rw [aluPopc, countP_eq_sum_map_toNat]

/-! ## The shapes -/

/-- A row of the table of R179, for every register form and every state whose registers are full. -/
def FollowsRow (e : (R3 → Instr) × (Word → Word → Word)) : Prop :=
  ∀ (r : R3) (s : State), fullAt s.me [.g r.a, .g r.b, .g r.d] →
    exec (e.1 r) s = .next (s.modMe (wrote r.d (e.2 (s.me.gr r.a) (s.me.gr r.b)) 4))

/-- An instruction of the two-source shape follows the row whose rule is its operation. -/
theorem followsRow_of_scalar3 {i : R3 → Instr} {f g : Word → Word → Word} (hfg : ∀ x y, f x y = g x y)
    (hi : ∀ r s, exec (i r) s = .next (scalar3 f r s) := by intros; rfl) : FollowsRow (i, g) := by
  intro r s hfull
  rw [hi, scalar3_of_full f r s hfull, hfg]
  rfl

/-- An instruction of the one-source shape writes the value of its operation. -/
theorem exec_of_scalar2 {i : R2 → Instr} {f : Word → Word} {r : R2} {s : State} {v : Word}
    (hfull : fullAt s.me [.g r.a, .g r.d]) (hv : f (s.me.gr r.a) = v)
    (hi : ∀ r s, exec (i r) s = .next (scalar2 f r s) := by intros; rfl) :
    exec (i r) s = .next (s.modMe (wrote r.d v 4)) := by
  rw [hi, scalar2_of_full f r s hfull, hv]
  rfl

theorem scalarTable_followsRow : ∀ e ∈ scalarTable, FollowsRow e := by
  simp only [scalarTable, List.forall_mem_cons]
  exact ⟨followsRow_of_scalar3 add_eq_ofNat,
    followsRow_of_scalar3 sub_eq_ofInt,
    followsRow_of_scalar3 fun _ _ => rfl,
    followsRow_of_scalar3 fun _ _ => rfl,
    followsRow_of_scalar3 fun _ _ => rfl,
    followsRow_of_scalar3 fun x y => shiftLeft_eq_ofNat_mul x (shiftCount y),
    followsRow_of_scalar3 fun x y => ushiftRight_eq_ofNat_div x (shiftCount y),
    followsRow_of_scalar3 fun x y => sshiftRight_eq_ofInt_div x (shiftCount y),
    followsRow_of_scalar3 fun x y => aluRor_eq_rotateRight x (shiftCount_lt y),
    followsRow_of_scalar3 mul_eq_ofInt,
    followsRow_of_scalar3 fun _ _ => rfl,
    followsRow_of_scalar3 fun _ _ => rfl,
    followsRow_of_scalar3 aluDiv_eq,
    followsRow_of_scalar3 aluDivu_eq,
    followsRow_of_scalar3 aluRem_eq,
    followsRow_of_scalar3 aluRemu_eq,
    followsRow_of_scalar3 flag64_slt,
    followsRow_of_scalar3 flag64_ult,
    followsRow_of_scalar3 flag64_beq,
    followsRow_of_scalar3 aluMin_eq,
    followsRow_of_scalar3 aluMax_eq,
    followsRow_of_scalar3 aluMinu_eq,
    followsRow_of_scalar3 aluMaxu_eq,
    List.forall_mem_nil _⟩

/-- Settles O1: each row of the table by its operation's equation, and the three counts from the bits that a count names. -/
theorem scalarRegisterResults : Obligations.ScalarRegisterResults := by
  refine ⟨scalarTable_followsRow, fun r s n hfull hn => ⟨fun h0 h1 => ?clz, fun h0 h1 => ?ctz, fun hsum => ?popc⟩⟩
  case clz => exact exec_of_scalar2 hfull (aluClz_eq hn h0 h1)
  case ctz => exact exec_of_scalar2 hfull (aluCtz_eq hn h0 h1)
  case popc => exact exec_of_scalar2 hfull (hsum ▸ aluPopc_eq (s.me.gr r.a))

end Sys2Proof.Machine

/-! # SOW and PART

R199: the generator's rounds over words are the rounds over numbers. R200: the lanes of SOW and of SOW.ix, written with no
flag. R198: a core's share of a range. -/

namespace Sys2Proof.Machine
open Sys2Proof.Claims

/-! ## The generator (R199) -/

theorem toNat_mul_zeroExtend {m : Nat} (hm : m < 2 ^ 32) (c : Word32) :
    (BitVec.ofNat 64 m * c.zeroExtend 64).toNat = m * c.toNat := by
  have hlt : m * c.toNat < 2 ^ 64 :=
    calc m * c.toNat < 2 ^ 32 * 2 ^ 32 := Nat.mul_lt_mul'' hm c.isLt
      _ = 2 ^ 64 := by decide
  rw [BitVec.toNat_mul, BitVec.toNat_ofNat, BitVec.toNat_setWidth, Nat.mod_eq_of_lt (a := m) (by omega),
    Nat.mod_eq_of_lt (a := c.toNat) (by omega), Nat.mod_eq_of_lt hlt]

/-- The upper half of a 64-bit product of two 32-bit words. -/
theorem toNat_mulHigh {m : Nat} (hm : m < 2 ^ 32) (c : Word32) :
    ((BitVec.ofNat 64 m * c.zeroExtend 64).extractLsb' 32 32).toNat = m * c.toNat / 2 ^ 32 := by
  have hlt : m * c.toNat < 2 ^ 32 * 2 ^ 32 := Nat.mul_lt_mul'' hm c.isLt
  rw [BitVec.extractLsb'_toNat, toNat_mul_zeroExtend hm, Nat.shiftRight_eq_div_pow,
    Nat.mod_eq_of_lt (Nat.div_lt_of_lt_mul hlt)]

/-- The lower half of a 64-bit product of two 32-bit words. -/
theorem toNat_mulLow {m : Nat} (hm : m < 2 ^ 32) (c : Word32) :
    ((BitVec.ofNat 64 m * c.zeroExtend 64).extractLsb' 0 32).toNat = m * c.toNat % 2 ^ 32 := by
  rw [BitVec.extractLsb'_toNat, toNat_mul_zeroExtend hm, Nat.shiftRight_zero]

theorem toNat_add_ofNat (k : Word32) (m : Nat) : (k + BitVec.ofNat 32 m).toNat = (k.toNat + m) % 2 ^ 32 := by
  rw [BitVec.toNat_add, BitVec.toNat_ofNat, Nat.add_mod_mod]

/-- The four words of a counter as numbers. -/
def counterNats (c : Word32 × Word32 × Word32 × Word32) : Nat × Nat × Nat × Nat :=
  (c.1.toNat, c.2.1.toNat, c.2.2.1.toNat, c.2.2.2.toNat)

/-- The two words of a key as numbers. -/
def keyNats (k : Word32 × Word32) : Nat × Nat := (k.1.toNat, k.2.toNat)

theorem counterNats_sowRound (c0 c1 c2 c3 k0 k1 : Word32) :
    counterNats (sowRound ((c0, c1, c2, c3), (k0, k1))).1 =
      (0xD1342543 * c2.toNat / 2 ^ 32 ^^^ c1.toNat ^^^ k0.toNat, 0xD1342543 * c2.toNat % 2 ^ 32,
        0xB5297A4D * c0.toNat / 2 ^ 32 ^^^ c3.toNat ^^^ k1.toNat, 0xB5297A4D * c0.toNat % 2 ^ 32) := by
  rw [← toNat_mulHigh (m := 0xB5297A4D) (by decide), ← toNat_mulHigh (m := 0xD1342543) (by decide),
    ← toNat_mulLow (m := 0xB5297A4D) (by decide), ← toNat_mulLow (m := 0xD1342543) (by decide),
    ← BitVec.toNat_xor, ← BitVec.toNat_xor, ← BitVec.toNat_xor, ← BitVec.toNat_xor]
  rfl

theorem keyNats_sowRound (c : Word32 × Word32 × Word32 × Word32) (k0 k1 : Word32) :
    keyNats (sowRound (c, (k0, k1))).2 =
      ((k0.toNat + 0x9E3779B9) % 2 ^ 32, (k1.toNat + 0xBB67AE85) % 2 ^ 32) := by
  rw [← toNat_add_ofNat, ← toNat_add_ofNat]
  rfl

/-- One round over numbers, and then `g` of the counter and the key that it leaves. -/
def afterRound (g : Nat × Nat × Nat × Nat → Nat × Nat → Nat × Nat × Nat × Nat) :
    Nat × Nat × Nat × Nat → Nat × Nat → Nat × Nat × Nat × Nat
  | (c0, c1, c2, c3), (k0, k1) =>
    g (0xD1342543 * c2 / 2 ^ 32 ^^^ c1 ^^^ k0, 0xD1342543 * c2 % 2 ^ 32,
        0xB5297A4D * c0 / 2 ^ 32 ^^^ c3 ^^^ k1, 0xB5297A4D * c0 % 2 ^ 32)
      ((k0 + 0x9E3779B9) % 2 ^ 32, (k1 + 0xBB67AE85) % 2 ^ 32)

/-- The rounds peel off at the front. Stated without arguments: with them the kernel would compare the keys of two
successive rounds, and unfold the addition of a constant near 2^32. -/
theorem sowRounds_succ_eq_afterRound (n : Nat) : sowRounds (n + 1) = afterRound (sowRounds n) := rfl

theorem afterRound_sowRound (g : Nat × Nat × Nat × Nat → Nat × Nat → Nat × Nat × Nat × Nat)
    (x : (Word32 × Word32 × Word32 × Word32) × (Word32 × Word32)) :
    afterRound g (counterNats x.1) (keyNats x.2) = g (counterNats (sowRound x).1) (keyNats (sowRound x).2) := by
  obtain ⟨⟨c0, c1, c2, c3⟩, k0, k1⟩ := x
  rw [counterNats_sowRound, keyNats_sowRound]
  rfl

/-- A round for each element of a list, over words as over numbers. -/
theorem sowRounds_eq_foldl (l : List Nat) (x : (Word32 × Word32 × Word32 × Word32) × (Word32 × Word32)) :
    sowRounds l.length (counterNats x.1) (keyNats x.2) = counterNats (l.foldl (fun y _ => sowRound y) x).1 := by
  induction l generalizing x with
  | nil => rfl
  | cons _ l ih => rw [List.length_cons, sowRounds_succ_eq_afterRound, afterRound_sowRound, ih, List.foldl_cons]

theorem keyNats_halves (key : Word) :
    keyNats (key.extractLsb' 0 32, key.extractLsb' 32 32) = (key.toNat % 2 ^ 32, key.toNat / 2 ^ 32) := by
  have hlt : key.toNat < 2 ^ 32 * 2 ^ 32 := key.isLt
  simp only [keyNats, BitVec.extractLsb'_toNat, Nat.shiftRight_eq_div_pow, Nat.pow_zero, Nat.div_one,
    Nat.mod_eq_of_lt (Nat.div_lt_of_lt_mul hlt)]

theorem sowGenerates : SowGenerates := by
  intro key c0 c1 c2 c3
  have hrounds := sowRounds_eq_foldl (List.range 10) ((c0, c1, c2, c3), (key.extractLsb' 0 32, key.extractLsb' 32 32))
  rw [keyNats_halves, List.length_range] at hrounds
  rw [show (c0.toNat, c1.toNat, c2.toNat, c3.toNat) = counterNats (c0, c1, c2, c3) from rfl, hrounds]
  simp only [sow, counterNats, BitVec.ofNat_toNat, BitVec.setWidth_eq]

/-! ## Lanes written under the mask, with no flag (R184) -/

theorem State.modMe_congr {s : State} {f g : Core → Core} (h : f s.me = g s.me) : s.modMe f = s.modMe g :=
  congrArg (s.setCore s.cur) h

theorem bytesOf_eq_ofNat_pfxBytes (x : Option Pfx) : bytesOf x = BitVec.ofNat 64 (pfxBytes x) := by
  cases x <;> rfl

theorem Core.mr_getLsbD (k : Core) (r : MReg) {i : Nat} (hi : i < 32) :
    (k.mr r).getLsbD i = if r = 0 then true else (k.m.get r).getLsbD i := by
  unfold Core.mr
  split
  case isTrue => exact (BitVec.getLsbD_allOnes ..).trans (decide_eq_true hi)
  case isFalse => rfl

theorem Core.lanes_getLsbD (k : Core) (x : Option Pfx) {i : Nat} (hi : i < 32) :
    (k.lanes x).getLsbD i = active k x i := by
  cases x with
  | none => exact k.mr_getLsbD 0 hi
  | some p => exact k.mr_getLsbD p.mask hi

theorem maskedReg_eq_merged (k : Core) (x : Option Pfx) (d : Reg) (f : Nat → Word32) :
    maskedReg (k.lanes x) (pfxMz x) f (k.vr d) = merged k x d f := by
  unfold maskedReg merged
  congr 1
  funext i
  rw [maskedLane, k.lanes_getLsbD x i.isLt]
  rfl

/-- Lanes that raise nothing leave the flags gathered so far. -/
theorem foldl_or_zero (p : Nat → Bool) (l : List Nat) (g : BitVec 5) :
    l.foldl (fun g i => if p i then g ||| 0 else g) g = g := by
  induction l with
  | nil => rfl
  | cons i l ih => rw [List.foldl_cons, show g ||| 0 = g from BitVec.or_zero, ite_self, ih]

theorem withFlags_none (k : Core) (x : Option Pfx) : withFlags k (orActive k x fun _ => 0) = k.fcsr := by
  have hno : orActive k x (fun _ => 0) = 0 := foldl_or_zero (active k x) (List.range 32) 0
  rw [withFlags, hno]
  exact BitVec.or_zero

/-- A v register written under the governing mask, where no lane raises a flag. -/
theorem setV_advance_eq_wroteLanes (k : Core) (x : Option Pfx) (d : Reg) (f : Nat → Word32) :
    (k.setV d (maskedReg (k.lanes x) (pfxMz x) f (k.vr d))).advance (pfxBytes x) =
      wroteLanes x d (fun i => (f i, 0)) k := by
  rw [maskedReg_eq_merged, wroteLanes, withFlags_none, bytesOf_eq_ofNat_pfxBytes]
  rfl

/-! ## SOW (R200) -/

theorem sowUses_traps (r : R3) : (sowUses r).traps ⊆ (sowUses r).waits := by
  have ha : [.g r.a, .g (regUp r.a 1)] ⊆ (sowUses r).waits := List.subset_append_left _ [RegRef.g r.b, .v r.d]
  have hb : [.g r.b] ⊆ (sowUses r).waits := List.cons_subset.2 ⟨.tail _ (.tail _ (.head _)), List.nil_subset _⟩
  exact List.append_subset.2 ⟨List.Subset.trans (policy_subset ..) ha, List.Subset.trans (policy_subset ..) hb⟩

theorem sowOp_of_full (ix : Bool) (x : Option Pfx) (r : R3) (s : State)
    (h : fullAt s.me [.g r.a, .g (regUp r.a 1), .g r.b, .v r.d]) :
    sowOp ix x r s = s.modMe fun k =>
      wroteLanes x r.d (fun i => (sowLane ix (s.me.gr r.a) (s.me.gr (regUp r.a 1)) (s.me.gr r.b) i, 0)) k := by
  unfold sowOp
  rw [State.issue_of_full _ _ _ (sowUses_traps r) h]
  exact State.modMe_congr (setV_advance_eq_wroteLanes ..)

/-- A lane's word, with the fields of its counter as numbers. -/
theorem sowLane_eq (ix : Bool) (a a1 key : Word) (i : Nat) :
    sowLane ix a a1 key i =
      (sow key (BitVec.ofNat 32 (a.toNat % 2 ^ 32 + if ix then i else i / 4)) (BitVec.ofNat 32 (a.toNat / 2 ^ 32))
        (BitVec.ofNat 32 (a1.toNat % 2 ^ 32)) (BitVec.ofNat 32 (a1.toNat / 2 ^ 32 % 2 ^ 24))).getD
          (if ix then 0 else i % 4) 0 := by
  have hlow (w : Word) : w.extractLsb' 0 32 = BitVec.ofNat 32 (w.toNat % 2 ^ 32) := by
    rw [← BitVec.toNat_inj, BitVec.extractLsb'_toNat, BitVec.toNat_ofNat, Nat.shiftRight_zero, Nat.mod_mod]
  have hhigh : a.extractLsb' 32 32 = BitVec.ofNat 32 (a.toNat / 2 ^ 32) := by
    rw [← BitVec.toNat_inj, BitVec.extractLsb'_toNat, BitVec.toNat_ofNat, Nat.shiftRight_eq_div_pow]
  simp only [sowLane, hlow, hhigh, BitVec.ofNat_add, fld]

theorem sowLanes : SowLanes := by
  intro s x r hfull
  have hop (ix : Bool) := sowOp_of_full ix x r s hfull
  simp only [sowLane_eq] at hop
  exact ⟨congrArg Host.Outcome.next (hop false), congrArg Host.Outcome.next (hop true)⟩

/-! ## PART (R198) -/

theorem execPart_of_full (x : Option Pfx) (r : R3) (s : State) (h : fullAt s.me [.g r.a, .g r.b, .g r.d]) {lo hi : Nat}
    (hb : partBounds s.cur (s.me.gr r.a) (s.me.gr r.b) = (lo, hi)) :
    execPart x r s = .next (s.modMe fun k =>
      { k.setG r.d (BitVec.ofNat 64 (hi * 2 ^ 32 + lo)) with pc := k.pc + bytesOf x, stall := false }) := by
  unfold execPart
  rw [State.issue_of_full _ _ _ (uses3_traps r) h]
  refine congrArg Host.Outcome.next (State.modMe_congr ?_)
  simp only [hb, Core.advance, Core.setG_pc, bytesOf_eq_ofNat_pfxBytes]

/-- The rectangle that the word `b` describes lies in the package and holds core `c`. -/
def InRectangle (c : Nat) (b : Word) : Prop :=
  let x0 := fld b 0 4
  let y0 := fld b 4 4
  let f0 := fld b 8 3
  let nx := fld b 12 4 + 1
  let ny := fld b 16 4 + 1
  let nf := fld b 20 3 + 1
  x0 + nx ≤ 12 ∧ y0 + ny ≤ 12 ∧ f0 + nf ≤ 8 ∧ x0 ≤ xOf c ∧ xOf c < x0 + nx ∧ y0 ≤ yOf c ∧ yOf c < y0 + ny ∧
    f0 ≤ frondOf c ∧ frondOf c < f0 + nf

/-- The place of core `c` among the cores of its rectangle, by frond, y and x. -/
def placeIn (c : Nat) (b : Word) : Nat :=
  ((frondOf c - fld b 8 3) * (fld b 16 4 + 1) + (yOf c - fld b 4 4)) * (fld b 12 4 + 1) + (xOf c - fld b 0 4)

/-- The number of cores of the rectangle. -/
def coresIn (b : Word) : Nat := (fld b 12 4 + 1) * (fld b 16 4 + 1) * (fld b 20 3 + 1)

theorem fld_zero_32 (a : Word) : fld a 0 32 = a.toNat % 2 ^ 32 := by
  rw [fld, Nat.pow_zero, Nat.div_one]

theorem partBounds_of_inside {c : Nat} (a : Word) {b : Word} (h : InRectangle c b) :
    partBounds c a b =
      (placeIn c b * (a.toNat % 2 ^ 32) / coresIn b, (placeIn c b + 1) * (a.toNat % 2 ^ 32) / coresIn b) := by
  unfold InRectangle at h
  rw [← fld_zero_32]
  unfold partBounds
  exact if_neg (by omega)

theorem partBounds_of_outside {c : Nat} (a : Word) {b : Word} (h : ¬ InRectangle c b) :
    partBounds c a b = (a.toNat % 2 ^ 32, a.toNat % 2 ^ 32) := by
  unfold InRectangle at h
  rw [← fld_zero_32]
  unfold partBounds
  exact if_pos (by omega)

theorem partSharesTheRange : PartSharesTheRange := fun s x r hfull =>
  ⟨fun hin => execPart_of_full x r s hfull (partBounds_of_inside (s.me.gr r.a) hin),
    fun hout => execPart_of_full x r s hfull (partBounds_of_outside (s.me.gr r.a) hout)⟩

/-- Settles O21: ten rounds over words are ten rounds over numbers, a lane's word is that of its counter's fields, and
PART's bounds are those of the rectangle. -/
theorem lanesSowAndPart : Obligations.LanesSowAndPart :=
  ⟨sowGenerates, sowLanes, partSharesTheRange⟩

end Sys2Proof.Machine
